-- ==== Sys2Proof/Word.lean ====
section
/-! DEFINITION. The plain value types of the HN-7 model (spec/03_numbers.md R87, R89; spec/00_scope.md R9). -/

namespace Sys2Proof

/-- A byte of memory or of a buffer. -/
abbrev Byte := BitVec 8
/-- A 16-bit parcel of code (R41), or half of a slot (R87). -/
abbrev Parcel := BitVec 16
/-- A slot, a general-register copy of one lane, or a uniform register: 32 bits. -/
abbrev Word := BitVec 32
/-- A slot pair, an address or a 64-bit register (R89). -/
abbrev DWord := BitVec 64
/-- A set of lanes of one warp, bit l for lane l (R400 writes lane masks so). -/
abbrev Mask := BitVec 64

/-- One value for each of the 64 lanes of a warp, lane 0 first. -/
abbrev Lanes (α : Type) := List α

/-- A table keyed by a number: keys strictly rising, and no entry that equals what an unlisted key reads as. -/
abbrev Table (α : Type) := List (Nat × α)

/-- The two 32-bit halves of a 64-bit value, low half first (R89). -/
def DWord.lo (v : DWord) : Word := v.extractLsb' 0 32
def DWord.hi (v : DWord) : Word := v.extractLsb' 32 32
/-- The 64-bit value of a pair (R89). -/
def DWord.ofPair (lo hi : Word) : DWord := hi ++ lo

end Sys2Proof
end

