-- ==== Sys2Proof/Machine/Fp.lean ====
section
/-! DEFINITION. Floating-point numbers as exact values and their rounding (spec/03_numbers.md R85 to R102).
Arithmetic is exact until a named rounding (spec/00_scope.md R14): a finite value is an integer times a power of
two, and a real result that is no such value is known by how it is cut at any binary place. -/

namespace Sys2Proof.Machine

/-! ## Formats and values -/

/-- A floating-point format (R85): exponent and mantissa widths, bias; whether its top exponent holds infinities and
NaNs as IEEE does, only the all-ones NaN (E4M3), or finite values alone; and whether conversions to it saturate
(R102). -/
inductive TopExponent
  | ieee | nanOnly | finite
  deriving DecidableEq, Repr

structure Fmt where
  eb : Nat
  mb : Nat
  bias : Nat
  top : TopExponent
  saturates : Bool
  deriving DecidableEq, Repr

def fp32 : Fmt := { eb := 8, mb := 23, bias := 127, top := .ieee, saturates := false }
def fp16 : Fmt := { eb := 5, mb := 10, bias := 15, top := .ieee, saturates := false }
def bf16 : Fmt := { eb := 8, mb := 7, bias := 127, top := .ieee, saturates := false }
def e5m2 : Fmt := { eb := 5, mb := 2, bias := 15, top := .ieee, saturates := true }
def e4m3 : Fmt := { eb := 4, mb := 3, bias := 7, top := .nanOnly, saturates := true }
def e3m2 : Fmt := { eb := 3, mb := 2, bias := 3, top := .finite, saturates := true }
def e2m3 : Fmt := { eb := 2, mb := 3, bias := 1, top := .finite, saturates := true }

/-- The value of an encoding: a NaN, signalling or quiet; an infinity; or (-1)^neg * m * 2^e, a zero keeping its
sign. -/
inductive Val
  | nan (signalling : Bool)
  | inf (neg : Bool)
  | fin (neg : Bool) (m : Nat) (e : Int)
  deriving DecidableEq, Repr

/-- The five exceptions as the bits of %fpflags (R98, R99). -/
abbrev Flags := BitVec 5
def flagNV : Flags := 1
def flagDZ : Flags := 2
def flagOF : Flags := 4
def flagUF : Flags := 8
def flagNX : Flags := 16

/-- Rounding modes (R93). -/
inductive Rm
  | rn | rz | rd | ru | rs
  deriving DecidableEq, Repr

/-- The mode a code names (R93); the codes that %rmode never holds read as .rn. -/
def Rm.ofCode (c : Nat) : Rm :=
  match c with
  | 2 => .rz
  | 3 => .rd
  | 4 => .ru
  | 5 => .rs
  | _ => .rn

def Fmt.expField (f : Fmt) (b : Nat) : Nat := b / 2 ^ f.mb % 2 ^ f.eb
def Fmt.manField (f : Fmt) (b : Nat) : Nat := b % 2 ^ f.mb
def Fmt.signField (f : Fmt) (b : Nat) : Bool := b / 2 ^ (f.eb + f.mb) % 2 == 1
def Fmt.isSub (f : Fmt) (b : Nat) : Bool := f.expField b == 0 && f.manField b != 0

/-- The value an encoding holds (R85). The 8-bit formats have no signalling NaNs (R90). -/
def Fmt.unpack (f : Fmt) (b : Nat) : Val :=
  let e := f.expField b
  let m := f.manField b
  let s := f.signField b
  let finite := Val.fin s (if e = 0 then m else m + 2 ^ f.mb) ((if e = 0 then 1 else (e : Int)) - f.bias - f.mb)
  if e + 1 = 2 ^ f.eb then
    match f.top with
    | .ieee => if m = 0 then .inf s else .nan (f.mb > 2 && m / 2 ^ (f.mb - 1) == 0)
    | .nanOnly => if m + 1 = 2 ^ f.mb then .nan false else finite
    | .finite => finite
  else finite

/-- A subnormal input read as a zero of its sign under flush to zero (R91). -/
def unpackFlush (ftz : Bool) (f : Fmt) (b : Nat) : Val :=
  if ftz && f.isSub b then .fin (f.signField b) 0 0 else f.unpack b

def Fmt.signBit (f : Fmt) (neg : Bool) : Nat := if neg then 2 ^ (f.eb + f.mb) else 0
/-- The canonical NaN (R85, R90); formats without one give +0 (R102). -/
def Fmt.canonNaN (f : Fmt) : Nat :=
  match f.top with
  | .ieee => (2 ^ f.eb - 1) * 2 ^ f.mb + 2 ^ (f.mb - 1)
  | .nanOnly => 2 ^ (f.eb + f.mb) - 1
  | .finite => 0
/-- The encoding of the largest finite magnitude. -/
def Fmt.maxBits (f : Fmt) : Nat :=
  match f.top with
  | .ieee => (2 ^ f.eb - 1) * 2 ^ f.mb - 1
  | .nanOnly => 2 ^ (f.eb + f.mb) - 2
  | .finite => 2 ^ (f.eb + f.mb) - 1
/-- An infinity; formats without one saturate (R102). -/
def Fmt.infBits (f : Fmt) : Nat :=
  match f.top with
  | .ieee => (2 ^ f.eb - 1) * 2 ^ f.mb
  | _ => f.maxBits
/-- The least normal exponent. -/
def Fmt.emin (f : Fmt) : Int := 1 - (f.bias : Int)

/-! ## Magnitudes -/

/-- n * 2^k rounded down, and whether anything was lost. -/
def shiftCut (n : Nat) (k : Int) : Nat × Bool :=
  match k with
  | .ofNat j => (n <<< j, false)
  | .negSucc j => (n >>> (j + 1), n % 2 ^ (j + 1) != 0)

/-- A positive real: `cut k` is its integer part after scaling by 2^k, and whether a fraction was cut off; at `k0`
the integer part is not 0. -/
structure Mag where
  k0 : Int
  cut : Int → Nat × Bool

/-- m * 2^e, m not 0. -/
def Mag.dyadic (m : Nat) (e : Int) : Mag := { k0 := -e, cut := fun k => shiftCut m (k + e) }

/-- m1 * 2^e1 / (m2 * 2^e2), neither 0. -/
def Mag.quotient (m1 : Nat) (e1 : Int) (m2 : Nat) (e2 : Int) : Mag :=
  { k0 := (m2.log2 : Int) + 1 + e2 - e1
    cut := fun k =>
      let s := k + e1 - e2
      match s with
      | .ofNat j => let n := m1 <<< j; (n / m2, n % m2 != 0)
      | .negSucc j => let d := m2 <<< (j + 1); (m1 / d, m1 % d != 0) }

/-- The bits of the square root of n, from place i downwards, on top of r. -/
def sqrtFrom (n : Nat) : Nat → Nat → Nat
  | 0, r => r
  | i + 1, r => let r' := r + 2 ^ i; sqrtFrom n i (if r' * r' ≤ n then r' else r)
/-- The square root rounded down. -/
def isqrt (n : Nat) : Nat := sqrtFrom n (n.log2 / 2 + 1) 0

/-- The square root of m * 2^e, m not 0. -/
def Mag.root (m : Nat) (e : Int) : Mag :=
  { k0 := -(e / 2)
    cut := fun k =>
      let (n, lost) := shiftCut m (e + 2 * k)
      let r := isqrt n
      (r, lost || r * r != n) }

/-- 1 over the square root of m * 2^e, m not 0. -/
def Mag.invRoot (m : Nat) (e : Int) : Mag :=
  { k0 := (m.log2 : Int) + 2 + (if e < 0 then 0 else e)
    cut := fun k =>
      match 2 * k - e with
      | .ofNat j => let n := 2 ^ j; let r := isqrt (n / m); (r, r * r * m != n)
      | .negSucc _ => (0, true) }

/-- The exponent of the leading bit. -/
def Mag.exponent (v : Mag) : Int := ((v.cut v.k0).1.log2 : Int) - v.k0

/-! ## Rounding (R93 to R95) -/

/-- Whether a magnitude with integer part n and 32 fraction bits f, and something below them or not, goes up. u is
the draw of .rs. -/
def goesUp (rm : Rm) (neg : Bool) (u n f : Nat) (rest : Bool) : Bool :=
  let inexact := f != 0 || rest
  match rm with
  | .rn => decide (f > 2 ^ 31) || (f == 2 ^ 31 && (rest || n % 2 == 1))
  | .rz => false
  | .rd => neg && inexact
  | .ru => !neg && inexact
  | .rs => decide (u < f) || (u == f && rest)

/-- v in units of 2^q, rounded to an integer; and whether that is inexact. -/
def Mag.roundAt (v : Mag) (rm : Rm) (neg : Bool) (u : Nat) (q : Int) : Nat × Bool :=
  let (w, rest) := v.cut (32 - q)
  let n := w / 2 ^ 32
  let f := w % 2 ^ 32
  (if goesUp rm neg u n f rest then n + 1 else n, f != 0 || rest)

/-- The bits of n * 2^q, which the format can hold: q is its least exponent, or n has its leading bit at place mb
or mb + 1. -/
def Fmt.packMag (f : Fmt) (n : Nat) (q : Int) : Nat :=
  let field := (q + f.bias + f.mb - 1).toNat
  field * 2 ^ f.mb + n

/-- Largest finite magnitude in units of 2^q. -/
def Fmt.exceedsMax (f : Fmt) (n : Nat) (q : Int) (strictRest : Bool) : Bool :=
  let mm := f.manField f.maxBits + 2 ^ f.mb
  let me : Int := (f.expField f.maxBits : Int) - f.bias - f.mb
  -- compare n * 2^q with mm * 2^me
  let (a, b) := if q ≥ me then (n <<< (q - me).toNat, mm) else (n, mm <<< (me - q).toNat)
  decide (a > b) || (a == b && strictRest)

/-- What overflow returns (R93, R95, R102). -/
def Fmt.overflowBits (f : Fmt) (rm : Rm) (neg : Bool) : Nat :=
  let toInf := match rm with
    | .rn | .rs => true
    | .rz => false
    | .rd => neg
    | .ru => !neg
  f.signBit neg + (if f.saturates || !toInf then f.maxBits else f.infBits)

/-- A non-zero real rounded once to a format, with its flags. Tininess is judged after rounding with an unbounded
exponent (R93); flush to zero replaces a subnormal result (R91). DEDUCED: under .rs tininess is judged with the same
draw. -/
def Fmt.round (f : Fmt) (rm : Rm) (u : Nat) (ftz : Bool) (neg : Bool) (v : Mag) : Nat × Flags :=
  let ex := v.exponent
  let qn := ex - f.mb
  let qs := f.emin - f.mb
  let (nu, inexU) := v.roundAt rm neg u qn
  let tooBig :=
    if rm = .rs then
      let (w, rest) := v.cut (-qn)
      f.exceedsMax w qn rest
    else f.exceedsMax nu qn false
  if tooBig then (f.overflowBits rm neg, flagOF ||| flagNX)
  else if qn ≥ qs then (f.signBit neg + f.packMag nu qn, if inexU then flagNX else 0)
  else
    let (n, inex) := v.roundAt rm neg u qs
    -- after unbounded rounding: below 2^emin unless the leading bit carried out at the last binade
    let tiny := !(ex + 1 == f.emin && nu == 2 ^ (f.mb + 1))
    if ftz && n != 0 && decide (n < 2 ^ f.mb) then (f.signBit neg, flagUF ||| flagNX)
    else (f.signBit neg + f.packMag n qs,
      (if inex then flagNX else 0) ||| (if tiny && inex then flagUF else 0))

/-! ## Results of operations -/

/-- The exact result of an operation before its one rounding: a NaN, with invalid raised or not; an infinity, with
divide by zero raised or not; a zero of a sign; or a non-zero real. -/
inductive Exact
  | nan (nv : Bool)
  | inf (neg dz : Bool)
  | zero (neg : Bool)
  | real (neg : Bool) (v : Mag)

/-- The result in a format (R90, R93, R102). An infinity that the format lacks counts as saturation, and a NaN given
to a format with none raises invalid. -/
def Fmt.result (f : Fmt) (rm : Rm) (u : Nat) (ftz : Bool) : Exact → Nat × Flags
  | .nan nv => (f.canonNaN, if nv || f.top = .finite then flagNV else 0)
  | .inf neg dz => (f.signBit neg + f.infBits, (if dz then flagDZ else 0) ||| (if f.top = .ieee then 0 else flagOF ||| flagNX))
  | .zero neg => (f.signBit neg, 0)
  | .real neg v => f.round rm u ftz neg v

/-- A dyadic number: an integer times a power of two. -/
structure Dy where
  m : Int
  e : Int
  deriving DecidableEq, Repr

def Dy.zero : Dy := { m := 0, e := 0 }
def Dy.add (a b : Dy) : Dy :=
  if a.m = 0 then b else if b.m = 0 then a
  else if a.e ≤ b.e then { m := a.m + b.m * 2 ^ (b.e - a.e).toNat, e := a.e }
  else { m := a.m * 2 ^ (a.e - b.e).toNat + b.m, e := b.e }
def Dy.mul (a b : Dy) : Dy := { m := a.m * b.m, e := a.e + b.e }
def Dy.neg (a : Dy) : Dy := { a with m := -a.m }
/-- a less than b. -/
def Dy.lt (a b : Dy) : Bool := decide ((a.add b.neg).m < 0)

/-- The exact result that a dyadic number is; zero takes the sign given. -/
def Exact.ofDy (d : Dy) (zeroNeg : Bool) : Exact :=
  if d.m = 0 then .zero zeroNeg else .real (decide (d.m < 0)) (.dyadic d.m.natAbs d.e)

def Val.isNaN : Val → Bool
  | .nan _ => true
  | _ => false
def Val.isSNaN : Val → Bool
  | .nan s => s
  | _ => false
def Val.neg : Val → Bool
  | .nan _ => false
  | .inf n => n
  | .fin n _ _ => n
def Val.isZero : Val → Bool
  | .fin _ m _ => m == 0
  | _ => false
def Val.isInf : Val → Bool
  | .inf _ => true
  | _ => false
def Val.negate : Val → Val
  | .nan s => .nan s
  | .inf n => .inf !n
  | .fin n m e => .fin (!n) m e
def Val.dy : Val → Dy
  | .fin n m e => { m := if n then -(m : Int) else m, e }
  | _ => Dy.zero

/-- A value as the exact result of a move or a conversion; a signalling NaN raises invalid (R90, R102). -/
def Exact.ofVal : Val → Exact
  | .nan s => .nan s
  | .inf n => .inf n false
  | .fin n m e => if m = 0 then .zero n else .real n (.dyadic m e)

/-- Sign of an exact zero sum: of like signs it keeps the sign, else -0 under .rd and +0 otherwise (R88). -/
def zeroSum (rm : Rm) (n1 n2 : Bool) : Bool := if n1 = n2 then n1 else rm = .rd

/-- a + b (R186). -/
def Val.add (rm : Rm) (a b : Val) : Exact :=
  match a, b with
  | .nan s, b => .nan (s || b.isSNaN)
  | a, .nan s => .nan (s || a.isSNaN)
  | .inf n, .inf k => if n = k then .inf n false else .nan true
  | .inf n, .fin .. => .inf n false
  | .fin .., .inf k => .inf k false
  | .fin n m e, .fin k l f =>
    .ofDy ((Val.fin n m e).dy.add (Val.fin k l f).dy) (if m = 0 ∧ l = 0 then zeroSum rm n k else rm = .rd)

/-- a * b (R186). -/
def Val.mul (a b : Val) : Exact :=
  match a, b with
  | .nan s, b => .nan (s || b.isSNaN)
  | a, .nan s => .nan (s || a.isSNaN)
  | .inf n, b => if b.isZero then .nan true else .inf (n != b.neg) false
  | a, .inf k => if a.isZero then .nan true else .inf (a.neg != k) false
  | .fin n m e, .fin k l f => .ofDy ((Val.fin n m e).dy.mul (Val.fin k l f).dy) (n != k)

/-- d + a * b, fused; 0 times infinity is invalid whatever d is (R186). -/
def Val.fma (rm : Rm) (d a b : Val) : Exact :=
  let nv := a.isSNaN || b.isSNaN || d.isSNaN || (a.isInf && b.isZero) || (a.isZero && b.isInf)
  let pn := a.neg != b.neg
  if a.isNaN || b.isNaN || d.isNaN || nv then .nan nv
  else if a.isInf || b.isInf then
    match d with
    | .inf n => if n = pn then .inf n false else .nan true
    | _ => .inf pn false
  else
    match d with
    | .inf n => .inf n false
    | d =>
      .ofDy (d.dy.add (a.dy.mul b.dy))
        (if d.isZero ∧ (a.isZero ∨ b.isZero) then zeroSum rm d.neg pn else rm = .rd)

/-- a / b (R186). -/
def Val.div (a b : Val) : Exact :=
  match a, b with
  | .nan s, b => .nan (s || b.isSNaN)
  | a, .nan s => .nan (s || a.isSNaN)
  | .inf n, b => if b.isInf then .nan true else .inf (n != b.neg) false
  | a, .inf k => .zero (a.neg != k)
  | .fin n m e, .fin k l f =>
    if l = 0 then (if m = 0 then .nan true else .inf (n != k) true)
    else if m = 0 then .zero (n != k)
    else .real (n != k) (.quotient m e l f)

/-- 1 / a (R189). -/
def Val.rcp (a : Val) : Exact :=
  match a with
  | .nan s => .nan s
  | .inf n => .zero n
  | .fin n m e => if m = 0 then .inf n true else .real n (.quotient 1 0 m e)

/-- The square root (R189). -/
def Val.sqrt (a : Val) : Exact :=
  match a with
  | .nan s => .nan s
  | .inf n => if n then .nan true else .inf false false
  | .fin n m e => if m = 0 then .zero n else if n then .nan true else .real false (.root m e)

/-- The reciprocal square root (R189). -/
def Val.rsq (a : Val) : Exact :=
  match a with
  | .nan s => .nan s
  | .inf n => if n then .nan true else .zero false
  | .fin n m e => if m = 0 then .inf n true else if n then .nan true else .real false (.invRoot m e)

/-- a before b in the order of FMIN: -0 below +0 (R90). -/
def Val.below (a b : Val) : Bool :=
  match a, b with
  | .inf n, .inf k => n && !k
  | .inf n, .fin .. => n
  | .fin .., .inf k => !k
  | .fin n m e, .fin k l f =>
    if m = 0 ∧ l = 0 then n && !k else (Val.fin n m e).dy.lt (Val.fin k l f).dy
  | _, _ => false

/-- FMIN and FMAX in any format (R90, R188): the chosen operand's bits, with ftz a subnormal as its zero. -/
def Fmt.minMax (f : Fmt) (max ftz : Bool) (a b : Nat) : Nat × Flags :=
  let va := unpackFlush ftz f a
  let vb := unpackFlush ftz f b
  let flush (x : Nat) : Nat := if ftz && f.isSub x then f.signBit (f.signField x) else x
  let fl : Flags := if va.isSNaN || vb.isSNaN then flagNV else 0
  if va.isNaN && vb.isNaN then (f.canonNaN, fl)
  else if va.isNaN then (flush b, fl)
  else if vb.isNaN then (flush a, fl)
  else (flush (if (if max then va.below vb else vb.below va) then b else a), fl)

/-- The relation of two values: unordered, or less, equal, greater. -/
def Val.compare (a b : Val) : Option Ordering :=
  if a.isNaN || b.isNaN then none
  else if a.isZero && b.isZero then some .eq
  else if a.below b then some .lt
  else if b.below a then some .gt
  else some .eq

/-- Floating-point conditions (02 R58). -/
def fcmpHolds (cond : Nat) (a b : Val) : Bool :=
  let o := a.compare b
  match cond with
  | 0 => o == some .eq
  | 1 => o == some .lt || o == some .gt
  | 2 => o == some .lt
  | 3 => o == some .lt || o == some .eq
  | 4 => o == some .gt
  | 5 => o == some .gt || o == some .eq
  | 6 => o == none || o == some .eq
  | 7 => o != some .eq
  | 8 => o == none || o == some .lt
  | 9 => o == none || o == some .lt || o == some .eq
  | 10 => o == none || o == some .gt
  | 11 => o == none || o == some .gt || o == some .eq
  | 12 => o != none
  | _ => o == none

/-- A value rounded to an integral value in the same format (R191); no inexact is raised. -/
def Fmt.integral (f : Fmt) (rm : Rm) (v : Val) : Nat × Flags :=
  match v with
  | .nan s => (f.canonNaN, if s then flagNV else 0)
  | .inf n => (f.signBit n + f.infBits, 0)
  | .fin n m e =>
    if m = 0 then (f.signBit n, 0)
    else
      let (k, _) := (Mag.dyadic m e).roundAt rm n 0 0
      if k = 0 then (f.signBit n, 0) else ((f.round .rn 0 false n (.dyadic k 0)).1, 0)

/-- A value rounded to an integer between lo and hi, saturating, with its flags (R102, R195). -/
def Val.toInt (rm : Rm) (u : Nat) (lo hi : Int) (v : Val) : Int × Flags :=
  match v with
  | .nan _ => (0, flagNV)
  | .inf n => (if n then lo else hi, flagNV)
  | .fin n m e =>
    let (k, inex) := if m = 0 then (0, false) else (Mag.dyadic m e).roundAt rm n u 0
    let q : Int := if n then -(k : Int) else k
    if q < lo then (lo, flagNV) else if q > hi then (hi, flagNV) else (q, if inex then flagNX else 0)

/-- FCLASS (R192). -/
def fclass (b : Nat) : Nat :=
  let neg := fp32.signField b
  match fp32.unpack b with
  | .nan s => if s then 2 ^ 8 else 2 ^ 9
  | .inf _ => if neg then 1 else 2 ^ 7
  | .fin _ m _ =>
    if m = 0 then (if neg then 2 ^ 3 else 2 ^ 4)
    else if fp32.isSub b then (if neg then 2 ^ 2 else 2 ^ 5) else (if neg then 2 else 2 ^ 6)

/-- One step of the generator (R96). -/
def rngStep (x : DWord) : DWord :=
  let x := x ^^^ (x <<< 13)
  let x := x ^^^ (x >>> 7)
  x ^^^ (x <<< 17)
/-- The draw of a state (R96). -/
def rngDraw (x : DWord) : Nat := (x >>> 32).toNat

end Sys2Proof.Machine
end

