-- ==== Sys2Proof/Machine/Functions.lean ====
section
/-! DEFINITION. The function instructions and tile activations (spec/06_slot_arith.md R190; spec/08_matrix.md R248):
the exact function of the input, rounded once to nearest. The function is enclosed between two fixed-point numbers of
p fraction bits; when both ends round to the same FP32 value, so does the exact value. The precision is doubled until
they do. -/

namespace Sys2Proof.Machine

/-- v within err of the scaled value: |true * 2^p - v| ≤ err. -/
structure Encl where
  v : Int
  err : Nat
  deriving DecidableEq, Repr

/-- a * b / 2^p, floor. -/
def fxMul (p : Nat) (a b : Int) : Int := a * b / 2 ^ p

/-- 1/n + 1/(3 n^3) + ... , alternating when sg is -1: terms t = 2^p / n^(2k+1), n2 = n * n. -/
def atanTerms (n2 : Nat) (sg : Int) : Nat → Nat → Nat → Int → Int
  | 0, _, _, acc => acc
  | fuel + 1, t, k, acc =>
    if t = 0 then acc
    else atanTerms n2 sg fuel (t / n2) (k + 1) (acc + (if k % 2 = 1 then sg else 1) * (t / (2 * k + 1) : Nat))

/-- arctangent (sg = -1) or its hyperbolic sister (sg = 1) of 1/n. -/
def atanInv (p n : Nat) (sg : Int) : Encl := { v := atanTerms (n * n) sg p (2 ^ p / n) 0 0, err := 2 * p + 2 }

/-- ln 2 = 2 artanh(1/3). -/
def ln2 (p : Nat) : Encl := let a := atanInv p 3 1; { v := 2 * a.v, err := 2 * a.err }
/-- pi = 16 arctan(1/5) - 4 arctan(1/239). -/
def piFx (p : Nat) : Encl :=
  let a := atanInv p 5 (-1)
  let b := atanInv p 239 (-1)
  { v := 16 * a.v - 4 * b.v, err := 16 * a.err + 4 * b.err }

/-- Terms y^k / k! from k upwards. -/
def expTerms (p : Nat) (y : Int) : Nat → Int → Nat → Int → Int
  | 0, _, _, acc => acc
  | fuel + 1, t, k, acc => if t = 0 then acc else expTerms p y fuel (fxMul p t y / (k + 1)) (k + 1) (acc + t)

/-- e^y for |y| at most 1. -/
def expSmall (p : Nat) (y : Encl) : Encl :=
  { v := expTerms p y.v (p + 8) (2 ^ p) 0 0, err := 3 * (p + 8) + 4 * y.err + 4 }

/-- e^(-y) for y of at least 0: a number in [0, 1], scaled by 2^p. -/
def expNeg (p : Nat) (y : Dy) : Encl :=
  if (y.add { m := -(2 : Int) ^ (p.log2 + 2), e := 0 }).m > 0 then { v := 0, err := 1 }   -- e^(-4p) is below the last place
  else
    let yf : Int := match y.e with
      | .ofNat j => y.m * 2 ^ j * 2 ^ p
      | .negSucc j => y.m * 2 ^ p / 2 ^ (j + 1)
    let l := ln2 p
    let n := (yf / l.v).toNat
    let r : Encl := { v := -(yf - n * l.v), err := n * l.err + 1 }
    let e := expSmall p r
    { v := e.v / 2 ^ n, err := e.err + 1 }

/-- a / b for b at least 1/2. -/
def enclDiv (p : Nat) (a b : Encl) : Encl := { v := a.v * 2 ^ p / b.v, err := 4 * a.err + 8 * b.err + 2 }

/-- 2 artanh(z) for 0 ≤ |z| ≤ 1/3: terms z^(2k+1)/(2k+1). -/
def artanhTerms (p : Nat) (z2 : Int) : Nat → Int → Nat → Int → Int
  | 0, _, _, acc => acc
  | fuel + 1, t, k, acc =>
    if t = 0 then acc else artanhTerms p z2 fuel (fxMul p t z2) (k + 1) (acc + t / (2 * k + 1))

/-- log2 of m * 2^e, which is no power of two. -/
def log2Fx (p : Nat) (m : Nat) (e : Int) : Encl :=
  let b := m.log2
  -- m / 2^b in [1, 2); halved from about the square root of 2 upwards
  let up := decide (m * 5 ≥ 7 * 2 ^ b)
  let d := if up then 2 ^ (b + 1) else 2 ^ b
  let z : Int := ((m : Int) - d) * 2 ^ p / (m + d)
  let lnf : Encl := { v := 2 * artanhTerms p (fxMul p z z) (p + 8) z 0 0, err := 6 * (p + 8) }
  let q := enclDiv p lnf (ln2 p)
  { v := q.v + (e + b + (if up then 1 else 0)) * 2 ^ p, err := q.err }

/-- Sine (s true) or cosine of |x|, x = m * 2^e, through |x| = k pi/2 + r. -/
def sinCos (p : Nat) (s : Bool) (m : Nat) (e : Int) : Encl :=
  let w := p + 200
  let halfPi := let a := piFx w; (a.v / 2, a.err)
  let x : Int := match e with
    | .ofNat j => (m : Int) * 2 ^ j * 2 ^ w
    | .negSucc j => (m : Int) * 2 ^ w / 2 ^ (j + 1)
  let k := (x + halfPi.1 / 2) / halfPi.1
  let r : Int := (x - k * halfPi.1) / 2 ^ 200
  let r2 := fxMul p r r
  let quad := (k % 4).toNat
  let useSin := if s then quad % 2 = 0 else quad % 2 = 1
  let v := trig r2 (p + 8) (if useSin then r else 2 ^ p) (if useSin then 1 else 0) 0
  let neg := if s then quad = 2 ∨ quad = 3 else quad = 1 ∨ quad = 2
  { v := if neg then -v else v, err := 4 * (p + 8) }
where
  /-- t - t r2 / ((j+1)(j+2)) + ... -/
  trig (r2 : Int) : Nat → Int → Nat → Int → Int
    | 0, _, _, acc => acc
    | fuel + 1, t, j, acc =>
      if t = 0 then acc else trig r2 fuel (-(fxMul p t r2) / ((j + 1) * (j + 2))) (j + 2) (acc + t)

/-- The real between two neighbouring fixed-point numbers n and n + 1 of p fraction bits, n not negative. -/
def Mag.between (p n : Nat) : Mag :=
  { k0 := p, cut := fun k => ((shiftCut n (k - p)).1, true) }

/-- One end of an enclosure, rounded to nearest. -/
def roundEnd (f : Fmt) (ftz : Bool) (p : Nat) (n : Int) : Nat × Flags :=
  if n ≥ 1 then f.round .rn 0 ftz false (.between p n.toNat)
  else if n ≤ -2 then f.round .rn 0 ftz true (.between p (-n - 1).toNat)
  else (0, flagUF ||| flagNX)

/-- The correctly rounded FP32 result of an irrational value (R190). -/
def roundEncl (ftz : Bool) (encl : Nat → Encl) : Nat → Nat → Nat × Flags
  | 0, p => let x := encl p; roundEnd fp32 ftz p x.v
  | fuel + 1, p =>
    let x := encl p
    let lo := roundEnd fp32 ftz p (x.v - x.err)
    let hi := roundEnd fp32 ftz p (x.v + x.err - 1)
    if lo = hi then lo else roundEncl ftz encl fuel (2 * p)

def roundFn (ftz : Bool) (encl : Nat → Encl) : Nat × Flags := roundEncl ftz encl 5 256

/-- Bits of an FP32 result of an exact kind, .rn. -/
def exactRn (ftz : Bool) (x : Exact) : Nat × Flags := fp32.result .rn 0 ftz x

/-- FEXP2 (R190). -/
def fexp2 (ftz : Bool) (v : Val) : Nat × Flags :=
  match v with
  | .nan s => exactRn ftz (.nan s)
  | .inf n => exactRn ftz (if n then .zero false else .inf false false)
  | .fin n m e =>
    if m = 0 then exactRn ftz (.real false (.dyadic 1 0))
    else
      let (i, inex) := shiftCut m e
      if !n && decide (i ≥ 128) then (fp32.infBits, flagOF ||| flagNX)
      else if n && decide (i ≥ 160) then (0, flagUF ||| flagNX)
      else if !inex then exactRn ftz (.real false (.dyadic 1 (if n then -(i : Int) else i)))
      else
        -- 2^(±x) = 2^k * e^(-y ln2), 0 < y < 1
        let k : Int := if n then -(i : Int) else i + 1
        let frac : Dy := ({ m, e } : Dy).add { m := -(i : Int), e := 0 }
        let y : Dy := if n then frac else ({ m := 1, e := 0 } : Dy).add frac.neg
        let encl (p : Nat) : Encl :=
          let l := ln2 p
          let yl := match y.e with
            | .ofNat j => y.m * 2 ^ j * l.v
            | .negSucc j => y.m * l.v / 2 ^ (j + 1)
          expSmall p { v := -yl, err := l.err + 1 }
        scaled k encl
where
  /-- The enclosed value times 2^k, rounded. -/
  scaled (k : Int) (encl : Nat → Encl) : Nat × Flags :=
    roundFn ftz fun p =>
      let x := encl (p + 160)
      match k with
      | .ofNat j => { v := x.v * 2 ^ j / 2 ^ 160, err := x.err * 2 ^ j / 2 ^ 160 + 2 }
      | .negSucc j => { v := x.v / 2 ^ (j + 1 + 160), err := x.err + 2 }

/-- FLOG2 (R190). -/
def flog2 (ftz : Bool) (v : Val) : Nat × Flags :=
  match v with
  | .nan s => exactRn ftz (.nan s)
  | .inf n => exactRn ftz (if n then .nan true else .inf false false)
  | .fin n m e =>
    if m = 0 then exactRn ftz (.inf true true)
    else if n then exactRn ftz (.nan true)
    else if 2 ^ m.log2 = m then exactRn ftz (.ofDy { m := e + m.log2, e := 0 } false)
    else roundFn ftz fun p => log2Fx p m e

/-- FSIN and FCOS (R190). -/
def fsin (ftz : Bool) (v : Val) : Nat × Flags :=
  match v with
  | .nan s => exactRn ftz (.nan s)
  | .inf _ => exactRn ftz (.nan true)
  | .fin n m e =>
    if m = 0 then exactRn ftz (.zero n)
    else roundFn ftz fun p => let x := sinCos p true m e; { x with v := if n then -x.v else x.v }
def fcos (ftz : Bool) (v : Val) : Nat × Flags :=
  match v with
  | .nan s => exactRn ftz (.nan s)
  | .inf _ => exactRn ftz (.nan true)
  | .fin _ m e =>
    if m = 0 then exactRn ftz (.real false (.dyadic 1 0)) else roundFn ftz fun p => sinCos p false m e

/-- FTANH (R190): (1 - w) / (1 + w), w = e^(-2|x|). -/
def ftanh (ftz : Bool) (v : Val) : Nat × Flags :=
  match v with
  | .nan s => exactRn ftz (.nan s)
  | .inf n => exactRn ftz (.real n (.dyadic 1 0))
  | .fin n m e =>
    if m = 0 then exactRn ftz (.zero n)
    else roundFn ftz fun p =>
      let w := expNeg p { m, e := e + 1 }
      let q := enclDiv p { v := 2 ^ p - w.v, err := w.err } { v := 2 ^ p + w.v, err := w.err }
      { q with v := if n then -q.v else q.v }

/-- 1 / (1 + e^(-x)) as an enclosure. -/
def sigmEncl (p : Nat) (neg : Bool) (m : Nat) (e : Int) : Encl :=
  let w := expNeg p { m, e }
  enclDiv p (if neg then w else { v := 2 ^ p, err := 0 }) { v := 2 ^ p + w.v, err := w.err }

/-- The sigm and silu functions of a tile (08 R248), their result alone. -/
def sigm (v : Val) : Nat :=
  (match v with
  | .nan _ => exactRn false (.nan false)
  | .inf n => exactRn false (if n then .zero false else .real false (.dyadic 1 0))
  | .fin n m e =>
    if m = 0 then exactRn false (.real false (.dyadic 1 (-1))) else roundFn false fun p => sigmEncl p n m e).1
def silu (v : Val) : Nat :=
  (match v with
  | .nan _ => exactRn false (.nan false)
  | .inf n => exactRn false (if n then .zero true else .inf false false)
  | .fin n m e =>
    if m = 0 then exactRn false (.zero n)
    else if n && decide ((shiftCut m e).1 ≥ 1024) then exactRn false (.zero true)   -- rounds to -0
    else roundFn false fun p =>
      let w := p + 160
      let x := sigmEncl w n m e
      let d : Int := if n then -(m : Int) else m
      match e with
      | .ofNat j => { v := x.v * d * 2 ^ j / 2 ^ 160, err := x.err * m * 2 ^ j / 2 ^ 160 + 2 }
      | .negSucc j => { v := x.v * d / 2 ^ (j + 1 + 160), err := x.err * m / 2 ^ (j + 1 + 160) + 2 }).1

end Sys2Proof.Machine
end

