-- ==== Sys2Proof/Syntax.lean ====
section
/-! DEFINITION. The instructions and events of the HN-7: one constructor of `Instr` for each row of
spec/opcode_table.json. Strand instructions carry the fields of their format (spec/02_encoding.md R47 to R67),
front-end instructions those of the RV64 R-type (spec/14_queues.md R392), and events, which have no encoding,
say which thing of the part they are about. Whether a field value is allowed is WellFormed.lean's matter. -/

namespace Sys2Proof

/-- The live-mask word of a safe point: present exactly when the instruction's S bit is 1 (R53). -/
abbrev Safe := Option Word

/-- The guard fields of LR, LC and LB forms (R52): depth gd, negation gn, enable ge. -/
structure Guard where
  p : BitVec 2
  n : Bool
  e : Bool
  deriving DecidableEq, Repr

/-- The fields of an S16 form (R47). -/
structure S16 where
  d : BitVec 2
  a : BitVec 2
  g : BitVec 6
  deriving DecidableEq, Repr

/-- The fields of an LR or LC form (R49): index bit x, last-use bit l, guard, modifier m. -/
structure LR where
  sp : Safe
  d : BitVec 2
  a : BitVec 2
  g : BitVec 6
  x : Bool
  l : Bool
  gd : Guard
  m : BitVec 4
  deriving DecidableEq, Repr

/-- The fields of an LS form (R49): uniform register u, guard enable e and negation n at depth 0. -/
structure LS where
  sp : Safe
  d : BitVec 2
  a : BitVec 2
  g : BitVec 6
  u : BitVec 5
  e : Bool
  n : Bool
  m : BitVec 3
  deriving DecidableEq, Repr

/-- The fields of an LI form (R49). -/
structure LI where
  sp : Safe
  d : BitVec 2
  a : BitVec 2
  imm : BitVec 16
  deriving DecidableEq, Repr

/-- The fields of an LM form (R49, R64). -/
structure LM where
  sp : Safe
  d : BitVec 2
  a : BitVec 2
  g : BitVec 6
  sb : BitVec 4
  imm : BitVec 6
  deriving DecidableEq, Repr

/-- The fields of a guarded LB form (R49, R65): guard and the 16 low bits. -/
structure LB where
  sp : Safe
  gd : Guard
  off : BitVec 16
  deriving DecidableEq, Repr

/-- MMA and MMAG (08 R242). -/
structure MmaF where
  sp : Safe
  fa : BitVec 4
  fb : BitVec 4
  kn : BitVec 8
  s : BitVec 5
  woff : BitVec 13
  wpitch : BitVec 13
  a : BitVec 2
  deriving DecidableEq, Repr

/-- The tile instructions (08 R246). -/
structure TileF where
  sp : Safe
  c0 : BitVec 6
  ncm1 : BitVec 6
  d : BitVec 2
  a : BitVec 2
  code : BitVec 4
  s : BitVec 5
  woff : BitVec 13
  rm : BitVec 3
  deriving DecidableEq, Repr

/-- The seven copies (09 R254). -/
structure CopyF where
  sp : Safe
  dir : BitVec 2
  buf : Bool
  rk : Bool
  rack : BitVec 5
  sb : BitVec 4
  cb : BitVec 4
  cw : Bool
  chk : Bool
  fmt : BitVec 4
  rm : BitVec 3
  boff : BitVec 13
  g : BitVec 6
  rg : BitVec 6
  deriving DecidableEq, Repr

/-- ATOM, ATOMC and RED (11 R313). -/
structure AtomF where
  sp : Safe
  op : BitVec 4
  ty : BitVec 3
  scope : BitVec 3
  sem : BitVec 2
  d : BitVec 2
  a : BitVec 2
  c : BitVec 2
  g : BitVec 6
  sb : BitVec 4
  off : BitVec 16
  hm : BitVec 2
  deriving DecidableEq, Repr

/-- ACQ_WORD and REL_WORD (11 R300). -/
structure SyncF where
  sp : Safe
  scope : BitVec 3
  size : Bool
  slot : BitVec 2
  g : BitVec 6
  sb : BitVec 4
  off : BitVec 16
  deriving DecidableEq, Repr

/-- FLUSH and INV (11 R311). -/
structure FlushF where
  sp : Safe
  scope : BitVec 3
  sb : BitVec 4
  s : BitVec 5
  deriving DecidableEq, Repr

/-- LDS and STS (10 R294). -/
structure ScopedF where
  sp : Safe
  scope : BitVec 3
  size : BitVec 3
  slot : BitVec 2
  g : BitVec 6
  sb : BitVec 4
  off : BitVec 16
  pol : BitVec 2
  deriving DecidableEq, Repr

/-- RVINIT, RVARR, RVWAIT and RVAW (11 R320). -/
structure RvF where
  sp : Safe
  pt : BitVec 5
  cnt : BitVec 9
  d : BitVec 2
  wd : Bool
  deriving DecidableEq, Repr

/-- SPILL and FILL (05 R173). -/
structure SpillF where
  sp : Safe
  slot : BitVec 2
  sb : BitVec 4
  off : BitVec 16
  deriving DecidableEq, Repr

/-- RKINIT (07 R225). -/
structure RackInitF where
  sp : Safe
  rack : BitVec 5
  base : BitVec 13
  size : BitVec 10
  count : BitVec 4
  deriving DecidableEq, Repr

/-- The other rack instructions (07 R225). -/
structure RackF where
  sp : Safe
  rack : BitVec 5
  d : BitVec 2
  a : BitVec 2
  deriving DecidableEq, Repr

/-- EMITA (13 R368). -/
structure EmitaF where
  sp : Safe
  node : BitVec 6
  d : BitVec 2
  one : Bool
  deriving DecidableEq, Repr

/-- EMITC (13 R369). -/
structure EmitcF where
  sp : Safe
  a : BitVec 2
  one : Bool
  deriving DecidableEq, Repr

/-- EVSET (13 R372). -/
structure EvsetF where
  sp : Safe
  bit : BitVec 8
  ind : Bool
  a : BitVec 2
  scope : BitVec 3
  deriving DecidableEq, Repr

/-- TRACE (16 R431). -/
structure TraceF where
  sp : Safe
  mark : BitVec 8
  a : BitVec 2
  v : Bool
  all : Bool
  deriving DecidableEq, Repr

/-- CSRW (15 R418). -/
structure CsrwF where
  sp : Safe
  csr : BitVec 12
  w : Bool
  r : Bool
  d : BitVec 2
  a : BitVec 2
  deriving DecidableEq, Repr

/-- The registers of an Xbrod instruction (14 R392). -/
structure XbrodF where
  rd : BitVec 5
  rs1 : BitVec 5
  rs2 : BitVec 5
  deriving DecidableEq, Repr

/-- What an acknowledgement from a peer or from the host says of one operation (11 R308, R309, R318): the cause and
subcode reported (cause 0 for success: it is about all that is still awaited), the virtual address that failed, and the
data that came back, one lane's bytes after another in ascending lane order. A peer's home may grant leases with them:
the expiry it recorded (0: none), and the 64 bytes of each line, in the order of the lanes (12 R352). -/
structure RemoteReply where
  code : BitVec 8
  sub : BitVec 8
  addr : DWord
  data : List Byte
  lease : Nat
  lines : List (List Byte)
  deriving DecidableEq, Repr

/-- A logical thread name in its full form (16 R425): the short form, the whole group index and the strand. -/
structure FullName where
  short : DWord
  group : Word
  strand : BitVec 4
  deriving DecidableEq, Repr

/-- A register that software outside the cores reads or writes: in BAR0 of a virtual function (14 R375), in the
privileged register space (14 R374, 12 R325), or on the management bus (18 R463). -/
inductive RegPlace
  | vf (tenant : Nat) (off : Nat)
  | pf (off : Nat)
  | pf32 (off : Nat)                  -- one register of 32 bits (17 R448)
  | mgmt (off : Nat)
  deriving DecidableEq, Repr

/-- What a peer or host access asks of a line of this part (12 R352, 17 R439, R449); acquire is a read at a point of
coherence, release a REL's store. -/
inductive AccessKind
  | read | acquire | write | atomic | reduce | release | copyData
  deriving DecidableEq, Repr

/-- A request that reaches this part from a peer over the fabric (12 R352, 17 R449) or from the host (device 0x200;
12 R331): the physical address, the bytes (for an atomic its operand, or each lane's with its compare value; 11 R314), the
operation, type and halves of an atomic, the tag and the poison mark that come with a line, and the logical name. -/
structure PeerRequest where
  src : BitVec 16
  tenant : BitVec 8
  kind : AccessKind
  addr : DWord
  size : Nat
  data : List Byte
  op : BitVec 4
  ty : BitVec 3
  hm : BitVec 2
  tag : BitVec 16
  poison : Bool
  name : FullName
  seq : Nat
  deriving DecidableEq, Repr

/-- A boot stage as flash holds it: its bytes, version, public key and signature (18 R457). -/
structure BootStage where
  body : List Byte
  version : Nat
  key : List Byte
  sig : List Byte
  deriving DecidableEq, Repr
/-- A device that discovery finds: its number, least hop count, the ports that reach it at that count, and whether two
parts answer with this number (17 R447). -/
structure FoundDevice where
  device : Nat
  hops : Nat
  ports : Nat
  conflict : Bool
  deriving DecidableEq, Repr
/-- What a boot meets: the two stages, whether each link trains and as what, what discovery finds, and the hop limits of
the signed configuration (18 R457, 17 R441, R447). -/
structure BootFlash where
  stages : List BootStage
  memoryTrains : Bool
  linkTrains : Bool
  cxl : Bool
  ports : Nat
  found : List FoundDevice
  h5 : BitVec 5
  h6 : BitVec 5
  deriving DecidableEq, Repr

/-- Where a soft error strikes (15 R420 to R423). -/
inductive SoftSite
  | corrected
  | codeStore (core : Nat)
  | cleanLine (line : Nat)
  | dirtyLine (line : Nat)
  | buffer (gang team : Nat) (wbuf : Bool) (line : Nat)
  | tile (warp frame line : Nat)
  | register (warp : Nat)
  | control
  deriving DecidableEq, Repr

/-- The four engine queues of a core (04 R136). -/
inductive EngineQueue
  | mx | cp | st | em
  deriving DecidableEq, Repr

/-- One constructor for each row of spec/opcode_table.json. -/
inductive Instr
  -- S16 forms (R59)
  | movShort (f : S16)
  | getShort (f : S16)
  | getl (f : S16)
  | putShort (f : S16)
  | iaddShort (f : S16)
  | isubShort (f : S16)
  | imulShort (f : S16)
  | imadShort (f : S16)
  | andShort (f : S16)
  | orShort (f : S16)
  | xorShort (f : S16)
  | shlShort (f : S16)
  | shrShort (f : S16)
  | sarShort (f : S16)
  | iminShort (f : S16)
  | imaxShort (f : S16)
  | iaddiShort (f : S16)
  | shli (f : S16)
  | shri (f : S16)
  | faddShort (f : S16)
  | fsubShort (f : S16)
  | fmulShort (f : S16)
  | ffmaShort (f : S16)
  | ffmsShort (f : S16)
  | fminShort (f : S16)
  | fmaxShort (f : S16)
  | hfma2Short (f : S16)
  | bfma2Short (f : S16)
  | ffmasShort (f : S16)
  | fmulsShort (f : S16)
  | iaddsShort (f : S16)
  | ldw (f : S16)
  | stw (f : S16)
  | ldbA (f : S16)
  | stbA (f : S16)
  | flt (f : S16)
  | ilt (f : S16)
  | ieq (f : S16)
  | selp (f : S16)
  | ppopShort (n : BitVec 3)
  | brs (o : BitVec 10)
  | bps (o : BitVec 10)
  | bns (o : BitVec 10)
  | waitcLd (n : BitVec 6)
  | frcpShort (f : S16)
  | cvtfF32I32 (f : S16)
  -- LR forms (R60)
  | mov (f : LR)
  | get (f : LR)
  | put (f : LR)
  | puts (f : LR)
  | srd (f : LR)
  | srdSet (f : LR)
  | sel (f : LR)
  | iadd (f : LR)
  | isub (f : LR)
  | imul (f : LR)
  | imulh (f : LR)
  | imad (f : LR)
  | imul64w (f : LR)
  | iadd64 (f : LR)
  | isub64 (f : LR)
  | and (f : LR)
  | or (f : LR)
  | xor (f : LR)
  | andn (f : LR)
  | shl (f : LR)
  | shr (f : LR)
  | sar (f : LR)
  | rotl (f : LR)
  | imin (f : LR)
  | imax (f : LR)
  | iabs (f : LR)
  | ineg (f : LR)
  | popc (f : LR)
  | clz (f : LR)
  | brev (f : LR)
  | bfx (f : LR)
  | bfi (f : LR)
  | idiv (f : LR)
  | irem (f : LR)
  | fadd (f : LR)
  | fsub (f : LR)
  | fmul (f : LR)
  | ffma (f : LR)
  | ffms (f : LR)
  | fmin (f : LR)
  | fmax (f : LR)
  | fabs (f : LR)
  | fneg (f : LR)
  | fdiv (f : LR)
  | frcp (f : LR)
  | frsq (f : LR)
  | fsqrt (f : LR)
  | fexp2 (f : LR)
  | flog2 (f : LR)
  | fsin (f : LR)
  | fcos (f : LR)
  | ftanh (f : LR)
  | frnd (f : LR)
  | fclass (f : LR)
  | hadd2 (f : LR)
  | hmul2 (f : LR)
  | hfma2 (f : LR)
  | badd2 (f : LR)
  | bmul2 (f : LR)
  | bfma2 (f : LR)
  | hmin2 (f : LR)
  | hmax2 (f : LR)
  | cvti (f : LR)
  | cvtf (f : LR)
  | pack2 (f : LR)
  | unpk2 (f : LR)
  | cvtn (f : LR)
  | lxch (f : LR)
  | ballot (f : LR)
  | fold (f : LR)
  -- LS forms (R62)
  | fmas (f : LS)
  | imas (f : LS)
  | fadds (f : LS)
  | fmuls (f : LS)
  | iadds (f : LS)
  | ffmas (f : LS)
  | sels (f : LS)
  | icmps (f : LS)
  | fcmps (f : LS)
  -- LI forms (R63)
  | ldi (f : LI)
  | ldih (f : LI)
  | iaddi (f : LI)
  | andi (f : LI)
  | ori (f : LI)
  | xori (f : LI)
  | imuli (f : LI)
  | faddi (f : LI)
  | fmuli (f : LI)
  | ffmai (f : LI)
  | icmpi (f : LI)
  | ixset (f : LI)
  | ixadd (f : LI)
  -- LM forms (R64)
  | ldB8 (f : LM)
  | ldI8 (f : LM)
  | ldB16 (f : LM)
  | ldI16 (f : LM)
  | ldB32 (f : LM)
  | ldB64 (f : LM)
  | ldB128 (f : LM)
  | stB8 (f : LM)
  | stB16 (f : LM)
  | stB32 (f : LM)
  | stB64 (f : LM)
  | stB128 (f : LM)
  | ldlB32 (f : LM)
  | ldlB64 (f : LM)
  | stlB32 (f : LM)
  | stlB64 (f : LM)
  | ldbB32 (f : LM)
  | ldbB64 (f : LM)
  | stbB32 (f : LM)
  | stbB64 (f : LM)
  | ldbyB32 (f : LM)
  | pref (f : LM)
  -- LB forms (R65)
  | bra (f : LB)
  | call (f : LB)
  | brx (f : LB)
  | ret (f : LB)
  | exit (f : LB)
  | waitc (sp : Safe) (ld st : BitVec 6) (cp : BitVec 4) (mx : BitVec 3)
  | trywaitRackfill (sp : Safe) (j : BitVec 6) (h : BitVec 10)
  | trywaitRackfree (sp : Safe) (j : BitVec 6) (h : BitVec 10)
  | trywaitPhase (sp : Safe) (j : BitVec 6) (h : BitVec 10)
  | trywaitCtr (sp : Safe) (t : BitVec 6) (c : BitVec 2) (h : BitVec 8)
  | trywaitFull (sp : Safe) (j : BitVec 6) (h : BitVec 10)
  | yield (sp : Safe)
  | safe (mask : Word)
  | bkpt (sp : Safe)
  | trap (sp : Safe) (imm : BitVec 8)
  | xret (sp : Safe)
  | haltack (sp : Safe)
  | prog (sp : Safe) (c : BitVec 3)
  -- LC forms (R66)
  | icmp (f : LR)
  | fcmp (f : LR)
  | pnot (f : LR)
  | pand (f : LR)
  | por (f : LR)
  | pxor (f : LR)
  | ppop (f : LR)
  | pdup (f : LR)
  | leader (f : LR)
  | voteAll (f : LR)
  | voteAny (f : LR)
  | voteEq (f : LR)
  | voteOdd (f : LR)
  | pmov (f : LR)
  | pstore (f : LR)
  -- X forms (R67)
  | mma (f : MmaF)
  | mmag (f : MmaF)
  | tbind (f : TileF)
  | tfree (f : TileF)
  | tzero (f : TileF)
  | tld (f : TileF)
  | tst (f : TileF)
  | tqnt (f : TileF)
  | tget (f : TileF)
  | tset (f : TileF)
  | taddc (f : TileF)
  | tmulr (f : TileF)
  | trowred (f : TileF)
  | tact (f : TileF)
  | tscl (f : TileF)
  | cpyl (f : CopyF)
  | cpyt (f : CopyF)
  | cpyw (f : CopyF)
  | cpyg (f : CopyF)
  | cpys (f : CopyF)
  | cpyx (f : CopyF)
  | cpyq (f : CopyF)
  | atom (f : AtomF)
  | atomc (f : AtomF)
  | red (f : AtomF)
  | fence (sp : Safe) (scope : BitVec 3)
  | acq (sp : Safe) (scope : BitVec 3)
  | acqWord (f : SyncF)
  | rel (sp : Safe) (scope : BitVec 3)
  | relWord (f : SyncF)
  | flush (f : FlushF)
  | inv (f : FlushF)
  | lds (f : ScopedF)
  | sts (f : ScopedF)
  | rvinit (f : RvF)
  | rvarr (f : RvF)
  | rvwait (f : RvF)
  | rvaw (f : RvF)
  | spill (f : SpillF)
  | fill (f : SpillF)
  | rkinit (f : RackInitF)
  | rkacq (f : RackF)
  | rkpub (f : RackF)
  | rkawait (f : RackF)
  | rkrel (f : RackF)
  | rkrelSkip (f : RackF)
  | emita (f : EmitaF)
  | emitc (f : EmitcF)
  | evset (f : EvsetF)
  | trace (f : TraceF)
  | csrw (f : CsrwF)
  -- the two S16 forms without a field (R59); they stand here so that every form with fields has a low index
  | nop
  | exitShort
  -- Xbrod instructions of the front-end processors (R392)
  | qfetch (f : XbrodF)
  | xbrodBfx (f : XbrodF)
  | xbrodBfxS (f : XbrodF)
  | xbrodBfi (f : XbrodF)
  | sigwait (f : XbrodF)
  | dispatch (f : XbrodF)
  | qsave (f : XbrodF)
  | qload (f : XbrodF)
  | evpost (f : XbrodF)
  -- Events of the part: the opcode table gives them no encoding; their arguments say which thing the event is about
  | xfreeWrite (fe entry : Nat)
  | xpktqRead (fe : Nat) (rd : BitVec 5)
  | xtimerSignal (fe : Nat)
  | loadCompletion (op : Nat) (lanes : Mask)
  | storeCompletion (op : Nat)
  | engineOperationComplete (op : Nat)
  | copyCompletion (op : Nat)
  | copyFault (op cause sub : Nat) (addr : DWord)
  | remoteAck (op : Nat) (r : RemoteReply)
  | remoteTimeout (op : Nat)
  | hostAtomicCompletion (op : Nat) (r : RemoteReply)
  | meetDeadlock (warp : Nat)
  | poolTimeout (warp strand : Nat)
  | trywaitDeadline (warp strand : Nat)
  | pinTimeout (core line : Nat)
  | placement (die choice : Nat)
  | placementDisplace (gang yard : Nat)
  | registerCompaction (gang yard : Nat)
  | placementAgeing (die : Nat)
  | queueAgeing (die : Nat)
  | groupStart (die launch node : Nat)
  | nodeTimer (die launch node : Nat)
  | frameWrite (warp : Nat)
  | faultRecordWrite (gang : Nat)
  | preemptionRequest (gang : Nat)
  | preemptionForce (gang : Nat)
  | preemptionSave (gang : Nat)
  | gangResume (gang yard : Nat)
  | doorbell (tenant queue : Nat) (windex : Word)
  | doorbellReset (tenant queue : Nat) (windex : Word)
  | doorbellResetComplete (tenant queue : Nat)
  | pdoorbell (tenant queue : Nat) (windex : Word)
  | pdoorbellReset (tenant queue : Nat) (windex : Word)
  | qctlEnable (tenant queue : Nat)
  | qctlDisable (tenant queue : Nat)
  | qctlpEnable (tenant queue : Nat) (p : Bool)
  | qctlpDisable (tenant queue : Nat)
  | queueDisableComplete (tenant queue : Nat)
  | evsetr (tenant : Nat) (bits : BitVec 256)
  | evclr (tenant : Nat) (bits : BitVec 256)
  | tenantEnable (tenant : Nat)
  | tenantTeardown (tenant : Nat)
  | invalidateTranslations (tenant : Nat) (va : BitVec 44) (arg : BitVec 16)
  | invalidationComplete (tenant : Nat)
  | migratePage (tenant : Nat) (va : BitVec 44) (arg : BitVec 16)
  | migrationDrainComplete (tenant : Nat)
  | replay (tenant : Nat) (seq : BitVec 48)
  | cancel (tenant : Nat) (seq : BitVec 48)
  | rangeWrite (index : BitVec 10)
  | rangeRead (index : BitVec 10)
  | rangeInvalidate (index : BitVec 10)
  | rangeChangeComplete
  | protocolLoad (src : BitVec 42) (slot : BitVec 4)
  | rquotaWrite (tenant : Nat) (value : DWord)
  | rpoolWrite (tenant : Nat) (value : DWord)
  | rareaWrite (tenant : Nat) (size : Bool) (value : DWord)
  | dbgHalt (tenant : Nat) (launch : BitVec 16)
  | dbgResume (tenant : Nat) (launch : BitVec 16)
  | dbgForce (tenant : Nat) (launch : BitVec 16)
  | attestGo (tenant : Nat) (value : DWord)
  | attestReport (tenant : Nat)
  | scopeLock (value : DWord)
  | trcBaseWrite (tenant : Nat) (value : DWord)
  | pcapWrite (value : BitVec 16)
  | registerWrite (at_ : RegPlace) (value : DWord)
  | packetStart (tenant queue : Nat)
  | nopPacket (packet : Nat)
  | launch (packet : Nat)
  | copyPacket (packet : Nat)
  | event (packet : Nat)
  | waitval (packet : Nat)
  | waitvalPoll (packet : Nat)
  | waitvalTimeout (packet : Nat)
  | timestamp (packet : Nat)
  | indirect (packet : Nat)
  | launchTimeout (launch : Nat)
  | packetCompletion (packet : Nat)
  | rd (core line : Nat)
  | wr (entry : Nat)
  | at (op : Nat)
  | re (op : Nat)
  | lx (line : Nat)
  | aq (core line : Nat)
  | rl (core line : Nat)
  | ev (line : Nat)
  | rr (r : PeerRequest)
  | rw (r : PeerRequest)
  | hs (line : Nat)
  | pn (warp strand line : Nat)
  | un (line : Nat)
  | to (line : Nat)
  | remoteRequest (r : PeerRequest)
  | flitReceive (port : Nat) (flit : List Byte)
  | nak (port : Nat) (last : BitVec 12)
  | portReroute (port : Nat)
  | timeFlit (offset : BitVec 16)
  | discovery (port : Nat) (device : BitVec 9) (hops : Nat) (conflict : Bool)
  | hostSnoop (line : Nat)
  | powerWindow (mean : BitVec 16)
  | thermalStep (tdie tmem : List (BitVec 16))
  | thermalTrip
  | reset (b : BootFlash)
  | softError (e : SoftSite)
  | queueEntryRelease (core : Nat) (q : EngineQueue)
  | linkRetrain (link : Option Bool)
  | powerLoss
  | managementCommand (counter : Nat)
  deriving DecidableEq, Repr

end Sys2Proof
end

