-- ==== Sys2Proof/WellFormed.lean ====
section
/-! DEFINITION. Which field values an instruction may carry: the fields the spec lists as 0, register pairs, and
the reserved roundings, conditions, types and codes (spec/02_encoding.md R46, R50 to R66 and the X forms'
chapters). A value refused here is ILLEGAL with subcode 2 when a strand issues it (R68). -/

namespace Sys2Proof

/-- A slot field that names a pair holds 0 or 2 (R46). -/
def pair (d : BitVec 2) : Bool := !d.getLsbD 0
/-- Rounding codes 000 to 101; 110 and 111 are reserved (R55, R57). -/
def rounding (r : BitVec 4) : Bool := decide (r.toNat < 6)
/-- Integer types 2 and 3 are 64 bits wide (R61). -/
def wideInt (g : BitVec 6) : Bool := (g &&& 7) == 2 || (g &&& 7) == 3

/-- An instruction that reads no general register has g, X and L all 0 (R50). -/
def LR.noReg (f : LR) : Bool := f.g == 0 && !f.x && !f.l
/-- Integer modifiers: m[3:1] is 0 (R56). -/
def LR.intMod (f : LR) : Bool := f.m >>> 1 == 0
/-- Predicate operations use neither slot nor the index and last-use bits (R66, R147). -/
def LR.predOp (f : LR) : Bool := f.d == 0 && f.a == 0 && !f.x && !f.l

/-- The special registers of 64 bits (R172). -/
def srd64 (id : Nat) : Bool := [0x04, 0x08, 0x09, 0x0A, 0x10, 0x11, 0x15, 0x1C, 0x1E, 0x1F].contains id
/-- The special registers marked RW (R172). -/
def srdRw (id : Nat) : Bool := decide (0x19 ≤ id) && decide (id ≤ 0x1D)
/-- SRD and its write form: a listed register, a pair for 64 bits, RW for a write (R60, R172). -/
def srdOk (f : LR) (set : Bool) : Bool :=
  f.a == 0 && !f.x && !f.l && decide (f.g.toNat < 0x20) && (!srd64 f.g.toNat || pair f.d) && (!set || srdRw f.g.toNat)

/-- Classes of the matrix formats: 0 W32, 1 F, 2 I8; codes 14 and 15 have none (08 R232). -/
def fmtClass (c : BitVec 4) : Option (Fin 3) :=
  if c == 0 then some 0 else if c == 7 then some 2 else if decide (c.toNat < 14) then some 1 else none
/-- K must be a multiple of the operand's block (08 R234). -/
def fmtBlock (c : BitVec 4) : Nat := if c.toNat < 3 then 32 else if c.toNat < 10 then 64 else 128
/-- A valid pair of formats and a K that suits both (08 R232 to R234). -/
def MmaF.pairOk (f : MmaF) : Bool :=
  (fmtClass f.fa).isSome && fmtClass f.fa == fmtClass f.fb && f.kn != 0 &&
  32 * f.kn.toNat % fmtBlock f.fa == 0 && 32 * f.kn.toNat % fmtBlock f.fb == 0
/-- The column range ends at 63 or before (08 R246). -/
def TileF.columns (f : TileF) : Bool := decide (f.c0.toNat + f.ncm1.toNat < 64)

/-- The rules of 09 R255 that every copy shares. -/
def CopyF.base (f : CopyF) : Bool :=
  (if f.rk then f.buf && f.dir != 2 else f.rack == 0 && f.rg == 0) && (f.cw || f.cb == 0) && (f.dir != 2 || !f.buf)
/-- The formats of CPYQ: 0 and 2 stored, 8 to 13 loaded (09 R255). -/
def CopyF.quantFmt (f : CopyF) : Bool :=
  if f.dir == 1 then f.fmt == 0 || f.fmt == 2 else decide (8 ≤ f.fmt.toNat) && decide (f.fmt.toNat < 14)

/-- The types an atomic operation takes (11 R313). -/
def atomTypes (op : Nat) : List Nat :=
  match op with
  | 6 => [0, 1, 2, 3, 4, 5, 6]
  | 7 | 8 => [1, 3]
  | 9 | 10 | 11 => [4, 5, 6]
  | 12 => [0, 1, 2, 3, 4]
  | _ => [0, 1, 2, 3]
/-- Access size of an atomic type in bytes (11 R313). -/
def atomSize (ty : BitVec 3) : Nat := if ty == 2 || ty == 3 then 8 else 4
/-- The rules of 11 R313 that the three atomics share. -/
def AtomF.base (f : AtomF) : Bool :=
  (atomTypes f.op.toNat).contains f.ty.toNat && (atomSize f.ty != 8 || (pair f.d && pair f.a && pair f.c)) &&
  (if f.ty == 5 || f.ty == 6 then f.hm != 0 else f.hm == 0) && f.off.toNat % atomSize f.ty == 0

/-- The control registers of a core (15 R419; 16 R432, R436). -/
def csrListed (c : BitVec 12) : Bool :=
  (decide (0x040 ≤ c.toNat) && decide (c.toNat ≤ 0x043)) || (decide (0x080 ≤ c.toNat) && decide (c.toNat ≤ 0x082)) ||
  (decide (0x090 ≤ c.toNat) && decide (c.toNat ≤ 0x098)) || (decide (0x0A0 ≤ c.toNat) && decide (c.toNat ≤ 0x0A3))

/-- The field checks of each instruction; events and the two that trap whatever their fields (R69) have none. -/
def Instr.fieldsOk : Instr → Bool
  | .movShort f => f.g == 0
  | .getShort f => f.a == 0
  | .getl f => f.a == 0
  | .putShort f => f.d == 0
  | .shli f => f.g.toNat < 32
  | .shri f => f.g.toNat < 32
  | .ffmasShort f => f.g.toNat < 32
  | .fmulsShort f => f.g.toNat < 32
  | .iaddsShort f => f.g.toNat < 32
  | .ldw f => f.a == 0
  | .stw f => f.d == 0
  | .ldbA f => f.a == 0
  | .stbA f => f.d == 0
  | .flt f => f.d == 0
  | .ilt f => f.d == 0
  | .ieq f => f.d == 0
  | .selp f => f.g == 0
  | .frcpShort f => f.g == 0
  | .cvtfF32I32 f => f.g == 0
  | .mov f => f.noReg && f.m == 0
  | .get f => f.a == 0 && f.m == 0
  | .put f => f.d == 0 && !f.l && f.m == 0
  | .puts f => f.g.toNat < 32 && f.d == 0 && !f.x && !f.l && f.m == 0
  | .srd f => f.m == 0 && srdOk f false
  | .srdSet f => f.m == 1 && srdOk f true
  | .sel f => !f.gd.e && f.m == 0
  | .iadd f => f.intMod
  | .isub f => f.intMod
  | .imul f => f.intMod
  | .imulh f => f.intMod
  | .imad f => f.intMod
  | .imul64w f => pair f.d && f.intMod
  | .iadd64 f => pair f.d && pair f.a && f.g.toNat % 2 == 0 && !f.x && f.intMod
  | .isub64 f => pair f.d && pair f.a && f.g.toNat % 2 == 0 && !f.x && f.intMod
  | .and f => f.intMod
  | .or f => f.intMod
  | .xor f => f.intMod
  | .andn f => f.intMod
  | .shl f => f.intMod
  | .shr f => f.intMod
  | .sar f => f.intMod
  | .rotl f => f.intMod
  | .imin f => f.intMod
  | .imax f => f.intMod
  | .iabs f => f.noReg && f.intMod
  | .ineg f => f.noReg && f.intMod
  | .popc f => f.noReg && f.intMod
  | .clz f => f.noReg && f.intMod
  | .brev f => f.noReg && f.intMod
  | .bfx f => f.intMod
  | .bfi f => f.intMod
  | .fadd f => rounding (f.m >>> 1)
  | .fsub f => rounding (f.m >>> 1)
  | .fmul f => rounding (f.m >>> 1)
  | .ffma f => rounding (f.m >>> 1)
  | .ffms f => rounding (f.m >>> 1)
  | .fmin f => f.m >>> 1 == 0
  | .fmax f => f.m >>> 1 == 0
  | .fabs f => f.noReg && f.m >>> 1 == 0
  | .fneg f => f.noReg && f.m >>> 1 == 0
  | .fdiv f => rounding (f.m >>> 1)
  | .frcp f => f.noReg && rounding (f.m >>> 1)
  | .frsq f => f.noReg && rounding (f.m >>> 1)
  | .fsqrt f => f.noReg && rounding (f.m >>> 1)
  | .fexp2 f => f.noReg && decide ((f.m >>> 1).toNat < 2)
  | .flog2 f => f.noReg && decide ((f.m >>> 1).toNat < 2)
  | .fsin f => f.noReg && decide ((f.m >>> 1).toNat < 2)
  | .fcos f => f.noReg && decide ((f.m >>> 1).toNat < 2)
  | .ftanh f => f.noReg && decide ((f.m >>> 1).toNat < 2)
  | .frnd f => f.noReg && decide ((f.m >>> 1).toNat < 5)
  | .fclass f => f.noReg && f.m >>> 1 == 0
  | .hadd2 f => rounding (f.m >>> 1)
  | .hmul2 f => rounding (f.m >>> 1)
  | .hfma2 f => rounding (f.m >>> 1)
  | .badd2 f => rounding (f.m >>> 1)
  | .bmul2 f => rounding (f.m >>> 1)
  | .bfma2 f => rounding (f.m >>> 1)
  | .hmin2 f => f.m >>> 1 == 0
  | .hmax2 f => f.m >>> 1 == 0
  | .cvti f => !f.x && !f.l && rounding (f.m >>> 1) && decide ((f.g >>> 3).toNat < 3) && (!wideInt f.g || pair f.d)
  | .cvtf f => !f.x && !f.l && rounding (f.m >>> 1) && decide ((f.g >>> 3).toNat < 3) && (!wideInt f.g || pair f.a)
  | .pack2 f => f.g >>> 1 == 0 && !f.x && !f.l && rounding (f.m >>> 1)
  | .unpk2 f => f.g >>> 2 == 0 && !f.x && !f.l && f.m >>> 1 == 0
  | .cvtn f => f.g >>> 5 == 0 && decide ((f.g &&& 7).toNat < 5) && !f.x && !f.l && rounding (f.m >>> 1)
  | .ballot f => pair f.d && f.a == 0 && f.g >>> 4 == 0 && !f.x && !f.l && f.m == 0
  | .fold f => decide (f.m.toNat < 11) && f.g >>> 2 == 0 && !f.x && !f.l
  | .fmas f => rounding (f.m.setWidth 4)
  | .imas f => f.m >>> 1 == 0
  | .fadds f => f.g == 0 && rounding (f.m.setWidth 4)
  | .fmuls f => f.g == 0 && rounding (f.m.setWidth 4)
  | .iadds f => f.g == 0 && f.m >>> 1 == 0
  | .ffmas f => f.g == 0 && rounding (f.m.setWidth 4)
  | .sels f => f.g == 0 && !f.e && f.m == 0
  | .icmps f => f.d == 0 && f.m == 0 && decide (f.g.toNat < 10)
  | .fcmps f => f.d == 0 && f.m == 0 && decide (f.g.toNat < 14)
  | .ldi f => f.a == 0
  | .ldih f => f.a == 0
  | .icmpi f => f.d == 0 && decide ((f.imm >>> 12).toNat < 10)
  | .ixset f => f.d == 0 && f.a == 0 && decide (f.imm.toNat < 64)
  | .ixadd f => f.d == 0 && f.a == 0 && decide (-63 ≤ f.imm.toInt) && decide (f.imm.toInt ≤ 63)
  | .ldB8 f => f.a == 0
  | .ldI8 f => f.a == 0
  | .ldB16 f => f.a == 0
  | .ldI16 f => f.a == 0
  | .ldB32 f => f.a == 0
  | .ldB64 f => f.a == 0 && pair f.d
  | .ldB128 f => f.a == 0 && f.d == 0
  | .stB8 f => f.d == 0
  | .stB16 f => f.d == 0
  | .stB32 f => f.d == 0
  | .stB64 f => f.d == 0 && pair f.a
  | .stB128 f => f.d == 0 && f.a == 0
  | .ldlB32 f => f.a == 0 && f.sb == 0
  | .ldlB64 f => f.a == 0 && f.sb == 0 && pair f.d
  | .stlB32 f => f.d == 0 && f.sb == 0
  | .stlB64 f => f.d == 0 && f.sb == 0 && pair f.a
  | .ldbB32 f => f.a == 0 && decide (f.sb.toNat < 2)
  | .ldbB64 f => f.a == 0 && decide (f.sb.toNat < 2) && pair f.d
  | .stbB32 f => f.d == 0 && f.sb == 1
  | .stbB64 f => f.d == 0 && f.sb == 1 && pair f.a
  | .ldbyB32 f => f.a == 0 && decide (f.sb.toNat < 8)
  | .pref f => f.d == 0 && f.a == 0
  | .brx f => f.off.extractLsb' 0 10 == 0
  | .ret f => f.off == 0
  | .exit f => f.off == 0
  | .trywaitRackfill _ j _ => decide (j.toNat < 32)
  | .trywaitRackfree _ j _ => decide (j.toNat < 32)
  | .trywaitPhase _ j _ => decide (j.toNat < 24)
  | .trywaitCtr _ t c _ => (c != 2 || decide (t.toNat < 16)) && (c != 3 || decide (t.toNat < 8))
  | .icmp f => f.d == 0 && decide (f.m.toNat < 10)
  | .fcmp f => f.d == 0 && decide (f.m.toNat < 14)
  | .pnot f => f.predOp && f.g >>> 3 == 0 && f.m == 0
  | .pand f => f.predOp && f.m == 0
  | .por f => f.predOp && f.m == 0
  | .pxor f => f.predOp && f.m == 0
  | .ppop f => f.predOp && f.g >>> 3 == 0 && f.m == 0
  | .pdup f => f.predOp && f.g >>> 3 == 0 && f.m == 0
  | .leader f => f.predOp && f.g == 0 && f.m == 0
  | .voteAll f => f.predOp && f.g >>> 3 == 0 && f.m == 0
  | .voteAny f => f.predOp && f.g >>> 3 == 0 && f.m == 1
  | .voteEq f => f.predOp && f.g >>> 3 == 0 && f.m == 2
  | .voteOdd f => f.predOp && f.g >>> 3 == 0 && f.m == 3
  | .pmov f => f.a == 0 && f.noReg && f.m == 0
  | .pstore f => f.d == 0 && f.noReg && f.m == 0
  | .mma f => f.pairOk && f.a == 0
  | .mmag f => f.pairOk
  | .tbind f => f.c0 == 0 && f.ncm1 == 0 && f.d == 0 && f.a == 0 && f.s == 0 && f.woff == 0 && f.rm == 0 && decide (f.code.toNat < 4)
  | .tfree f => f.c0 == 0 && f.ncm1 == 0 && f.d == 0 && f.a == 0 && f.s == 0 && f.woff == 0 && f.rm == 0 && f.code == 0
  | .tzero f => f.columns && f.d == 0 && f.a == 0 && f.s == 0 && f.woff == 0 && f.rm == 0 && f.code == 0
  | .tld f => f.columns && f.d == 0 && f.s == 0 && f.woff == 0 && f.rm == 0 && f.code == 0 && pair f.a
  | .tst f => f.columns && f.d == 0 && f.s == 0 && f.woff == 0 && f.rm == 0 && decide (f.code.toNat < 3) && pair f.a
  | .tqnt f => f.c0 == 0 && f.ncm1 == 0 && f.d == 0 && f.s == 0 && f.woff == 0 && decide (f.code.toNat < 6) && rounding (f.rm.setWidth 4)
  | .tget f => f.ncm1 == 0 && f.a == 0 && f.s == 0 && f.woff == 0 && f.rm == 0 && f.code == 0
  | .tset f => f.ncm1 == 0 && f.d == 0 && f.s == 0 && f.woff == 0 && f.rm == 0 && f.code == 0
  | .taddc f => f.columns && f.d == 0 && f.a == 0 && f.s == 0 && f.rm == 0 && f.code == 0
  | .tmulr f => f.columns && f.d == 0 && f.s == 0 && f.woff == 0 && f.rm == 0 && f.code == 0
  | .trowred f => f.columns && f.a == 0 && f.s == 0 && f.woff == 0 && f.rm == 0 && decide (f.code.toNat < 6)
  | .tact f => f.columns && f.d == 0 && f.a == 0 && f.s == 0 && f.woff == 0 && f.rm == 0 && decide (f.code.toNat < 4)
  | .tscl f => f.columns && f.d == 0 && f.a == 0 && f.woff == 0 && f.rm == 0 && f.code == 0
  | .cpyl f => f.base && decide (f.dir.toNat < 3) && f.boff == 0 && f.g == 0 && f.fmt == 0 && f.rm == 0
  | .cpyt f => f.base && decide (f.dir.toNat < 2) && f.g == 0 && f.fmt == 0 && f.rm == 0
  | .cpyw f => f.base && f.dir == 0 && f.fmt == 0 && f.rm == 0
  | .cpyg f => f.base && f.dir == 0 && f.fmt == 0 && f.rm == 0
  | .cpys f => f.base && !f.rk && f.dir == 1 && f.fmt == 0 && f.rm == 0
  | .cpyx f => f.base && !f.chk && decide (f.dir.toNat < 2) && decide (f.fmt.toNat < 3) && f.g == 0 && rounding (f.rm.setWidth 4)
  | .cpyq f => f.base && !f.chk && decide (f.dir.toNat < 2) && f.quantFmt && f.g == 0 && rounding (f.rm.setWidth 4)
  | .atom f => decide (f.op.toNat < 12) && f.base && f.c == 0
  | .atomc f => f.op == 12 && f.base
  | .red f => decide (f.op.toNat < 12) && f.op != 6 && f.base && f.c == 0 && f.d == 0 && !f.sem.getLsbD 0
  | .acqWord f => (!f.size || pair f.slot) && f.off.toNat % (if f.size then 8 else 4) == 0
  | .relWord f => (!f.size || pair f.slot) && f.off.toNat % (if f.size then 8 else 4) == 0
  | .flush f => f.scope != 0
  | .inv f => f.scope != 0
  | .lds f => f.scope != 0 && decide (f.size.toNat < 5) && (f.size != 3 || pair f.slot) && (f.size != 4 || f.slot == 0) && f.off.toNat % 2 ^ f.size.toNat == 0 && decide (f.pol.toNat < 2)
  | .sts f => f.scope != 0 && decide (f.size.toNat < 5) && (f.size != 3 || pair f.slot) && (f.size != 4 || f.slot == 0) && f.off.toNat % 2 ^ f.size.toNat == 0 && decide (f.pol.toNat < 2)
  | .rvinit f => decide (f.cnt.toNat < 256) && f.d == 0 && !f.wd
  | .rvarr f => f.cnt == 0 && (f.wd || f.d == 0)
  | .rvwait f => f.cnt == 0 && f.d == 0 && !f.wd
  | .rvaw f => f.cnt == 0 && (f.wd || f.d == 0)
  | .rkacq f => pair f.d && f.a == 0
  | .rkpub f => f.d == 0
  | .rkawait f => pair f.d && f.a == 0
  | .rkrel f => f.d == 0
  | .rkrelSkip f => f.d == 0 && f.a == 0
  | .emita f => pair f.d
  | .emitc f => pair f.a
  | .evset f => if f.ind then f.bit == 0 else f.a == 0
  | .trace f => f.v || f.a == 0
  | .csrw f => csrListed f.csr && (f.w || f.r) && (f.r || f.d == 0) && (f.w || f.a == 0)
  | .sigwait f => f.rs2 == 0
  | .dispatch f => f.rs2 == 0
  | .evpost f => f.rd == 0
  | .nop | .iaddShort _ | .isubShort _ | .imulShort _ | .imadShort _ | .andShort _
  | .orShort _ | .xorShort _ | .shlShort _ | .shrShort _ | .sarShort _ | .iminShort _
  | .imaxShort _ | .iaddiShort _ | .faddShort _ | .fsubShort _ | .fmulShort _ | .ffmaShort _
  | .ffmsShort _ | .fminShort _ | .fmaxShort _ | .hfma2Short _ | .bfma2Short _ | .ppopShort _
  | .brs _ | .bps _ | .bns _ | .waitcLd _ | .exitShort | .idiv _
  | .irem _ | .lxch _ | .iaddi _ | .andi _ | .ori _ | .xori _
  | .imuli _ | .faddi _ | .fmuli _ | .ffmai _ | .bra _ | .call _
  | .waitc _ _ _ _ _ | .trywaitFull _ _ _ | .yield _ | .safe _ | .bkpt _ | .trap _ _
  | .xret _ | .haltack _ | .prog _ _ | .fence _ _ | .acq _ _ | .rel _ _
  | .spill _ | .fill _ | .rkinit _ | .qfetch _ | .xbrodBfx _ | .xbrodBfxS _
  | .xbrodBfi _ | .qsave _ | .qload _ | .xfreeWrite _ _ | .xpktqRead _ _ | .xtimerSignal _
  | .loadCompletion _ _ | .storeCompletion _ | .engineOperationComplete _ | .copyCompletion _ | .copyFault _ _ _ _ | .remoteAck _ _
  | .remoteTimeout _ | .hostAtomicCompletion _ _ | .meetDeadlock _ | .poolTimeout _ _ | .trywaitDeadline _ _ | .pinTimeout _ _
  | .placement _ _ | .placementDisplace _ _ | .registerCompaction _ _ | .placementAgeing _ | .queueAgeing _ | .groupStart _ _ _
  | .nodeTimer _ _ _ | .frameWrite _ | .faultRecordWrite _ | .preemptionRequest _ | .preemptionForce _ | .preemptionSave _
  | .gangResume _ _ | .doorbell _ _ _ | .doorbellReset _ _ _ | .doorbellResetComplete _ _ | .pdoorbell _ _ _ | .pdoorbellReset _ _ _
  | .qctlEnable _ _ | .qctlDisable _ _ | .qctlpEnable _ _ _ | .qctlpDisable _ _ | .queueDisableComplete _ _ | .evsetr _ _
  | .evclr _ _ | .tenantEnable _ | .tenantTeardown _ | .invalidateTranslations _ _ _ | .invalidationComplete _ | .migratePage _ _ _
  | .migrationDrainComplete _ | .replay _ _ | .cancel _ _ | .rangeWrite _ | .rangeRead _ | .rangeInvalidate _
  | .rangeChangeComplete | .protocolLoad _ _ | .rquotaWrite _ _ | .rpoolWrite _ _ | .rareaWrite _ _ _ | .dbgHalt _ _
  | .dbgResume _ _ | .dbgForce _ _ | .attestGo _ _ | .attestReport _ | .scopeLock _ | .trcBaseWrite _ _
  | .pcapWrite _ | .registerWrite _ _ | .packetStart _ _ | .nopPacket _ | .launch _ | .copyPacket _
  | .event _ | .waitval _ | .waitvalPoll _ | .waitvalTimeout _ | .timestamp _ | .indirect _
  | .launchTimeout _ | .packetCompletion _ | .rd _ _ | .wr _ | .at _ | .re _
  | .lx _ | .aq _ _ | .rl _ _ | .ev _ | .rr _ | .rw _
  | .hs _ | .pn _ _ _ | .un _ | .to _ | .remoteRequest _ | .flitReceive _ _
  | .nak _ _ | .portReroute _ | .timeFlit _ | .discovery _ _ _ _ | .hostSnoop _ | .powerWindow _
  | .thermalStep _ _ | .thermalTrip | .reset _ | .softError _ | .queueEntryRelease _ _ | .linkRetrain _
  | .powerLoss | .managementCommand _ => true

/-- The live-mask word an instruction carries (R53). -/
def Instr.liveMask : Instr → Safe
  | .mov f => f.sp
  | .get f => f.sp
  | .put f => f.sp
  | .puts f => f.sp
  | .srd f => f.sp
  | .srdSet f => f.sp
  | .sel f => f.sp
  | .iadd f => f.sp
  | .isub f => f.sp
  | .imul f => f.sp
  | .imulh f => f.sp
  | .imad f => f.sp
  | .imul64w f => f.sp
  | .iadd64 f => f.sp
  | .isub64 f => f.sp
  | .and f => f.sp
  | .or f => f.sp
  | .xor f => f.sp
  | .andn f => f.sp
  | .shl f => f.sp
  | .shr f => f.sp
  | .sar f => f.sp
  | .rotl f => f.sp
  | .imin f => f.sp
  | .imax f => f.sp
  | .iabs f => f.sp
  | .ineg f => f.sp
  | .popc f => f.sp
  | .clz f => f.sp
  | .brev f => f.sp
  | .bfx f => f.sp
  | .bfi f => f.sp
  | .idiv f => f.sp
  | .irem f => f.sp
  | .fadd f => f.sp
  | .fsub f => f.sp
  | .fmul f => f.sp
  | .ffma f => f.sp
  | .ffms f => f.sp
  | .fmin f => f.sp
  | .fmax f => f.sp
  | .fabs f => f.sp
  | .fneg f => f.sp
  | .fdiv f => f.sp
  | .frcp f => f.sp
  | .frsq f => f.sp
  | .fsqrt f => f.sp
  | .fexp2 f => f.sp
  | .flog2 f => f.sp
  | .fsin f => f.sp
  | .fcos f => f.sp
  | .ftanh f => f.sp
  | .frnd f => f.sp
  | .fclass f => f.sp
  | .hadd2 f => f.sp
  | .hmul2 f => f.sp
  | .hfma2 f => f.sp
  | .badd2 f => f.sp
  | .bmul2 f => f.sp
  | .bfma2 f => f.sp
  | .hmin2 f => f.sp
  | .hmax2 f => f.sp
  | .cvti f => f.sp
  | .cvtf f => f.sp
  | .pack2 f => f.sp
  | .unpk2 f => f.sp
  | .cvtn f => f.sp
  | .lxch f => f.sp
  | .ballot f => f.sp
  | .fold f => f.sp
  | .fmas f => f.sp
  | .imas f => f.sp
  | .fadds f => f.sp
  | .fmuls f => f.sp
  | .iadds f => f.sp
  | .ffmas f => f.sp
  | .sels f => f.sp
  | .icmps f => f.sp
  | .fcmps f => f.sp
  | .ldi f => f.sp
  | .ldih f => f.sp
  | .iaddi f => f.sp
  | .andi f => f.sp
  | .ori f => f.sp
  | .xori f => f.sp
  | .imuli f => f.sp
  | .faddi f => f.sp
  | .fmuli f => f.sp
  | .ffmai f => f.sp
  | .icmpi f => f.sp
  | .ixset f => f.sp
  | .ixadd f => f.sp
  | .ldB8 f => f.sp
  | .ldI8 f => f.sp
  | .ldB16 f => f.sp
  | .ldI16 f => f.sp
  | .ldB32 f => f.sp
  | .ldB64 f => f.sp
  | .ldB128 f => f.sp
  | .stB8 f => f.sp
  | .stB16 f => f.sp
  | .stB32 f => f.sp
  | .stB64 f => f.sp
  | .stB128 f => f.sp
  | .ldlB32 f => f.sp
  | .ldlB64 f => f.sp
  | .stlB32 f => f.sp
  | .stlB64 f => f.sp
  | .ldbB32 f => f.sp
  | .ldbB64 f => f.sp
  | .stbB32 f => f.sp
  | .stbB64 f => f.sp
  | .ldbyB32 f => f.sp
  | .pref f => f.sp
  | .bra f => f.sp
  | .call f => f.sp
  | .brx f => f.sp
  | .ret f => f.sp
  | .exit f => f.sp
  | .waitc sp _ _ _ _ => sp
  | .trywaitRackfill sp _ _ => sp
  | .trywaitRackfree sp _ _ => sp
  | .trywaitPhase sp _ _ => sp
  | .trywaitCtr sp _ _ _ => sp
  | .trywaitFull sp _ _ => sp
  | .yield sp => sp
  | .safe mask => some mask
  | .bkpt sp => sp
  | .trap sp _ => sp
  | .xret sp => sp
  | .haltack sp => sp
  | .prog sp _ => sp
  | .icmp f => f.sp
  | .fcmp f => f.sp
  | .pnot f => f.sp
  | .pand f => f.sp
  | .por f => f.sp
  | .pxor f => f.sp
  | .ppop f => f.sp
  | .pdup f => f.sp
  | .leader f => f.sp
  | .voteAll f => f.sp
  | .voteAny f => f.sp
  | .voteEq f => f.sp
  | .voteOdd f => f.sp
  | .pmov f => f.sp
  | .pstore f => f.sp
  | .mma f => f.sp
  | .mmag f => f.sp
  | .tbind f => f.sp
  | .tfree f => f.sp
  | .tzero f => f.sp
  | .tld f => f.sp
  | .tst f => f.sp
  | .tqnt f => f.sp
  | .tget f => f.sp
  | .tset f => f.sp
  | .taddc f => f.sp
  | .tmulr f => f.sp
  | .trowred f => f.sp
  | .tact f => f.sp
  | .tscl f => f.sp
  | .cpyl f => f.sp
  | .cpyt f => f.sp
  | .cpyw f => f.sp
  | .cpyg f => f.sp
  | .cpys f => f.sp
  | .cpyx f => f.sp
  | .cpyq f => f.sp
  | .atom f => f.sp
  | .atomc f => f.sp
  | .red f => f.sp
  | .fence sp _ => sp
  | .acq sp _ => sp
  | .acqWord f => f.sp
  | .rel sp _ => sp
  | .relWord f => f.sp
  | .flush f => f.sp
  | .inv f => f.sp
  | .lds f => f.sp
  | .sts f => f.sp
  | .rvinit f => f.sp
  | .rvarr f => f.sp
  | .rvwait f => f.sp
  | .rvaw f => f.sp
  | .spill f => f.sp
  | .fill f => f.sp
  | .rkinit f => f.sp
  | .rkacq f => f.sp
  | .rkpub f => f.sp
  | .rkawait f => f.sp
  | .rkrel f => f.sp
  | .rkrelSkip f => f.sp
  | .emita f => f.sp
  | .emitc f => f.sp
  | .evset f => f.sp
  | .trace f => f.sp
  | .csrw f => f.sp
  | .nop | .movShort _ | .getShort _ | .getl _ | .putShort _ | .iaddShort _
  | .isubShort _ | .imulShort _ | .imadShort _ | .andShort _ | .orShort _ | .xorShort _
  | .shlShort _ | .shrShort _ | .sarShort _ | .iminShort _ | .imaxShort _ | .iaddiShort _
  | .shli _ | .shri _ | .faddShort _ | .fsubShort _ | .fmulShort _ | .ffmaShort _
  | .ffmsShort _ | .fminShort _ | .fmaxShort _ | .hfma2Short _ | .bfma2Short _ | .ffmasShort _
  | .fmulsShort _ | .iaddsShort _ | .ldw _ | .stw _ | .ldbA _ | .stbA _
  | .flt _ | .ilt _ | .ieq _ | .selp _ | .ppopShort _ | .brs _
  | .bps _ | .bns _ | .waitcLd _ | .frcpShort _ | .cvtfF32I32 _ | .exitShort
  | .qfetch _ | .xbrodBfx _ | .xbrodBfxS _ | .xbrodBfi _ | .sigwait _ | .dispatch _
  | .qsave _ | .qload _ | .evpost _ | .xfreeWrite _ _ | .xpktqRead _ _ | .xtimerSignal _
  | .loadCompletion _ _ | .storeCompletion _ | .engineOperationComplete _ | .copyCompletion _ | .copyFault _ _ _ _ | .remoteAck _ _
  | .remoteTimeout _ | .hostAtomicCompletion _ _ | .meetDeadlock _ | .poolTimeout _ _ | .trywaitDeadline _ _ | .pinTimeout _ _
  | .placement _ _ | .placementDisplace _ _ | .registerCompaction _ _ | .placementAgeing _ | .queueAgeing _ | .groupStart _ _ _
  | .nodeTimer _ _ _ | .frameWrite _ | .faultRecordWrite _ | .preemptionRequest _ | .preemptionForce _ | .preemptionSave _
  | .gangResume _ _ | .doorbell _ _ _ | .doorbellReset _ _ _ | .doorbellResetComplete _ _ | .pdoorbell _ _ _ | .pdoorbellReset _ _ _
  | .qctlEnable _ _ | .qctlDisable _ _ | .qctlpEnable _ _ _ | .qctlpDisable _ _ | .queueDisableComplete _ _ | .evsetr _ _
  | .evclr _ _ | .tenantEnable _ | .tenantTeardown _ | .invalidateTranslations _ _ _ | .invalidationComplete _ | .migratePage _ _ _
  | .migrationDrainComplete _ | .replay _ _ | .cancel _ _ | .rangeWrite _ | .rangeRead _ | .rangeInvalidate _
  | .rangeChangeComplete | .protocolLoad _ _ | .rquotaWrite _ _ | .rpoolWrite _ _ | .rareaWrite _ _ _ | .dbgHalt _ _
  | .dbgResume _ _ | .dbgForce _ _ | .attestGo _ _ | .attestReport _ | .scopeLock _ | .trcBaseWrite _ _
  | .pcapWrite _ | .registerWrite _ _ | .packetStart _ _ | .nopPacket _ | .launch _ | .copyPacket _
  | .event _ | .waitval _ | .waitvalPoll _ | .waitvalTimeout _ | .timestamp _ | .indirect _
  | .launchTimeout _ | .packetCompletion _ | .rd _ _ | .wr _ | .at _ | .re _
  | .lx _ | .aq _ _ | .rl _ _ | .ev _ | .rr _ | .rw _
  | .hs _ | .pn _ _ _ | .un _ | .to _ | .remoteRequest _ | .flitReceive _ _
  | .nak _ _ | .portReroute _ | .timeFlit _ | .discovery _ _ _ _ | .hostSnoop _ | .powerWindow _
  | .thermalStep _ _ | .thermalTrip | .reset _ | .softError _ | .queueEntryRelease _ _ | .linkRetrain _
  | .powerLoss | .managementCommand _ => none

/-- The low byte of a live-mask word is reserved (R53). -/
def maskOk (sp : Safe) : Bool :=
  match sp with
  | none => true
  | some w => w.extractLsb' 0 8 == 0

/-- A well-formed instruction: its fields and its live-mask word are allowed. -/
def Instr.wellFormed (i : Instr) : Bool := i.fieldsOk && maskOk i.liveMask

end Sys2Proof
end

