-- ==== Sys2Proof/Decode.lean ====
section
/-! DEFINITION. From parcels to instructions and back (spec/02_encoding.md R41 to R70). The decoder pulls the
fields out of the instruction value once; the encoder after it is written from the same layouts and is used by
statements and tests only. -/

namespace Sys2Proof

/-- Why a word is not a valid instruction (R68, R69): its opcode is unassigned; a field is invalid, on a privileged
instruction or not; fewer parcels than its length. -/
inductive DecodeError
  | unassigned
  | field (privileged : Bool)
  | truncated
  deriving DecidableEq, Repr

/-- Parcels of an instruction, its live-mask word included, from its first parcel alone (R42). -/
def parcelCount (p : Parcel) : Nat :=
  if p.extractLsb' 14 2 != 3 then 1
  else if p.getLsbD 13 then (if p.getLsbD 12 then 6 else 4)
  else (if p.getLsbD 12 then 4 else 2)

/-- The field checks that decoding makes (R68 subcode 2). -/
def decodeAccepts (i : Instr) : Bool := i.wellFormed

/-- IDIV and IREM raise subcode 1 whatever their fields and live-mask word (R69, R184). -/
def decodeTrapsAnyway (i : Instr) : Bool :=
  match i with
  | .idiv _ | .irem _ => true
  | _ => false

/-- A candidate read from the opcode, with the reserved bits that no field holds found zero or not. -/
def decodeFinish (privileged : Bool) (c : Option (Instr × Bool)) : Except DecodeError Instr :=
  match c with
  | none => .error .unassigned
  | some (i, zeros) =>
    if decodeTrapsAnyway i || (zeros && decodeAccepts i) then .ok i else .error (.field privileged)

def bitAt {n : Nat} (v : BitVec n) (i : Nat) : Bool := v.getLsbD i

/-! ## Fields of the 16-bit and 32-bit formats (R47, R49) -/

def S16.ofBits (b : BitVec 10) : S16 := { d := b.extractLsb' 8 2, a := b.extractLsb' 6 2, g := b.extractLsb' 0 6 }
def Guard.ofBits (b : BitVec 4) : Guard := { p := b.extractLsb' 2 2, n := bitAt b 1, e := bitAt b 0 }
def LR.ofBits (sp : Safe) (b : BitVec 20) : LR :=
  { sp, d := b.extractLsb' 18 2, a := b.extractLsb' 16 2, g := b.extractLsb' 10 6, x := bitAt b 9, l := bitAt b 8,
    gd := Guard.ofBits (b.extractLsb' 4 4), m := b.extractLsb' 0 4 }
def LS.ofBits (sp : Safe) (b : BitVec 20) : LS :=
  { sp, d := b.extractLsb' 18 2, a := b.extractLsb' 16 2, g := b.extractLsb' 10 6, u := b.extractLsb' 5 5,
    e := bitAt b 4, n := bitAt b 3, m := b.extractLsb' 0 3 }
def LI.ofBits (sp : Safe) (b : BitVec 20) : LI :=
  { sp, d := b.extractLsb' 18 2, a := b.extractLsb' 16 2, imm := b.extractLsb' 0 16 }
def LM.ofBits (sp : Safe) (b : BitVec 20) : LM :=
  { sp, d := b.extractLsb' 18 2, a := b.extractLsb' 16 2, g := b.extractLsb' 10 6, sb := b.extractLsb' 6 4,
    imm := b.extractLsb' 0 6 }
/-- LB holds gd in [19:18], gn in [17] and ge in [16]. -/
def LB.ofBits (sp : Safe) (b : BitVec 20) : LB :=
  { sp, gd := Guard.ofBits (b.extractLsb' 16 4), off := b.extractLsb' 0 16 }

/-- The S16 map (R59), on op6 and bits [9:0]. -/
def candidate16 (op : Nat) (b : BitVec 10) : Option (Instr × Bool) :=
  match op with
  | 0x00 => some (.nop, b == 0)
  | 0x01 => some (.movShort (.ofBits b), true)
  | 0x02 => some (.getShort (.ofBits b), true)
  | 0x03 => some (.getl (.ofBits b), true)
  | 0x04 => some (.putShort (.ofBits b), true)
  | 0x05 => some (.iaddShort (.ofBits b), true)
  | 0x06 => some (.isubShort (.ofBits b), true)
  | 0x07 => some (.imulShort (.ofBits b), true)
  | 0x08 => some (.imadShort (.ofBits b), true)
  | 0x09 => some (.andShort (.ofBits b), true)
  | 0x0A => some (.orShort (.ofBits b), true)
  | 0x0B => some (.xorShort (.ofBits b), true)
  | 0x0C => some (.shlShort (.ofBits b), true)
  | 0x0D => some (.shrShort (.ofBits b), true)
  | 0x0E => some (.sarShort (.ofBits b), true)
  | 0x0F => some (.iminShort (.ofBits b), true)
  | 0x10 => some (.imaxShort (.ofBits b), true)
  | 0x11 => some (.iaddiShort (.ofBits b), true)
  | 0x12 => some (.shli (.ofBits b), true)
  | 0x13 => some (.shri (.ofBits b), true)
  | 0x14 => some (.faddShort (.ofBits b), true)
  | 0x15 => some (.fsubShort (.ofBits b), true)
  | 0x16 => some (.fmulShort (.ofBits b), true)
  | 0x17 => some (.ffmaShort (.ofBits b), true)
  | 0x18 => some (.ffmsShort (.ofBits b), true)
  | 0x19 => some (.fminShort (.ofBits b), true)
  | 0x1A => some (.fmaxShort (.ofBits b), true)
  | 0x1B => some (.hfma2Short (.ofBits b), true)
  | 0x1C => some (.bfma2Short (.ofBits b), true)
  | 0x1D => some (.ffmasShort (.ofBits b), true)
  | 0x1E => some (.fmulsShort (.ofBits b), true)
  | 0x1F => some (.iaddsShort (.ofBits b), true)
  | 0x20 => some (.ldw (.ofBits b), true)
  | 0x21 => some (.stw (.ofBits b), true)
  | 0x22 => some (.ldbA (.ofBits b), true)
  | 0x23 => some (.stbA (.ofBits b), true)
  | 0x24 => some (.flt (.ofBits b), true)
  | 0x25 => some (.ilt (.ofBits b), true)
  | 0x26 => some (.ieq (.ofBits b), true)
  | 0x27 => some (.selp (.ofBits b), true)
  | 0x2D => some (.frcpShort (.ofBits b), true)
  | 0x2E => some (.cvtfF32I32 (.ofBits b), true)
  | 0x28 => some (.ppopShort (b.extractLsb' 0 3), b.extractLsb' 3 7 == 0)
  | 0x29 => some (.brs b, true)
  | 0x2A => some (.bps b, true)
  | 0x2B => some (.bns b, true)
  | 0x2C => some (.waitcLd (b.extractLsb' 0 6), b.extractLsb' 6 4 == 0)
  | 0x2F => some (.exitShort, b == 0)
  | _ => none

/-- The LR, LS, LI, LM, LB and LC maps (R60 to R66), on op8 and bits [19:0]. -/
def candidate32 (sp : Safe) (op : Nat) (b : BitVec 20) : Option (Instr × Bool) :=
  match op with
  | 0x04 => some (if b.extractLsb' 0 4 == 1 then .srdSet (.ofBits sp b) else .srd (.ofBits sp b), true)
  | 0x00 => some (.mov (.ofBits sp b), true)
  | 0x01 => some (.get (.ofBits sp b), true)
  | 0x02 => some (.put (.ofBits sp b), true)
  | 0x03 => some (.puts (.ofBits sp b), true)
  | 0x05 => some (.sel (.ofBits sp b), true)
  | 0x08 => some (.iadd (.ofBits sp b), true)
  | 0x09 => some (.isub (.ofBits sp b), true)
  | 0x0A => some (.imul (.ofBits sp b), true)
  | 0x0B => some (.imulh (.ofBits sp b), true)
  | 0x0C => some (.imad (.ofBits sp b), true)
  | 0x0D => some (.imul64w (.ofBits sp b), true)
  | 0x0E => some (.iadd64 (.ofBits sp b), true)
  | 0x0F => some (.isub64 (.ofBits sp b), true)
  | 0x10 => some (.and (.ofBits sp b), true)
  | 0x11 => some (.or (.ofBits sp b), true)
  | 0x12 => some (.xor (.ofBits sp b), true)
  | 0x13 => some (.andn (.ofBits sp b), true)
  | 0x14 => some (.shl (.ofBits sp b), true)
  | 0x15 => some (.shr (.ofBits sp b), true)
  | 0x16 => some (.sar (.ofBits sp b), true)
  | 0x17 => some (.rotl (.ofBits sp b), true)
  | 0x18 => some (.imin (.ofBits sp b), true)
  | 0x19 => some (.imax (.ofBits sp b), true)
  | 0x1A => some (.iabs (.ofBits sp b), true)
  | 0x1B => some (.ineg (.ofBits sp b), true)
  | 0x1C => some (.popc (.ofBits sp b), true)
  | 0x1D => some (.clz (.ofBits sp b), true)
  | 0x1E => some (.brev (.ofBits sp b), true)
  | 0x1F => some (.bfx (.ofBits sp b), true)
  | 0x20 => some (.bfi (.ofBits sp b), true)
  | 0x21 => some (.idiv (.ofBits sp b), true)
  | 0x22 => some (.irem (.ofBits sp b), true)
  | 0x28 => some (.fadd (.ofBits sp b), true)
  | 0x29 => some (.fsub (.ofBits sp b), true)
  | 0x2A => some (.fmul (.ofBits sp b), true)
  | 0x2B => some (.ffma (.ofBits sp b), true)
  | 0x2C => some (.ffms (.ofBits sp b), true)
  | 0x2D => some (.fmin (.ofBits sp b), true)
  | 0x2E => some (.fmax (.ofBits sp b), true)
  | 0x2F => some (.fabs (.ofBits sp b), true)
  | 0x30 => some (.fneg (.ofBits sp b), true)
  | 0x31 => some (.fdiv (.ofBits sp b), true)
  | 0x32 => some (.frcp (.ofBits sp b), true)
  | 0x33 => some (.frsq (.ofBits sp b), true)
  | 0x34 => some (.fsqrt (.ofBits sp b), true)
  | 0x35 => some (.fexp2 (.ofBits sp b), true)
  | 0x36 => some (.flog2 (.ofBits sp b), true)
  | 0x37 => some (.fsin (.ofBits sp b), true)
  | 0x38 => some (.fcos (.ofBits sp b), true)
  | 0x39 => some (.ftanh (.ofBits sp b), true)
  | 0x3A => some (.frnd (.ofBits sp b), true)
  | 0x3B => some (.fclass (.ofBits sp b), true)
  | 0x40 => some (.hadd2 (.ofBits sp b), true)
  | 0x41 => some (.hmul2 (.ofBits sp b), true)
  | 0x42 => some (.hfma2 (.ofBits sp b), true)
  | 0x43 => some (.badd2 (.ofBits sp b), true)
  | 0x44 => some (.bmul2 (.ofBits sp b), true)
  | 0x45 => some (.bfma2 (.ofBits sp b), true)
  | 0x46 => some (.hmin2 (.ofBits sp b), true)
  | 0x47 => some (.hmax2 (.ofBits sp b), true)
  | 0x48 => some (.cvti (.ofBits sp b), true)
  | 0x49 => some (.cvtf (.ofBits sp b), true)
  | 0x4A => some (.pack2 (.ofBits sp b), true)
  | 0x4B => some (.unpk2 (.ofBits sp b), true)
  | 0x4C => some (.cvtn (.ofBits sp b), true)
  | 0x50 => some (.lxch (.ofBits sp b), true)
  | 0x51 => some (.ballot (.ofBits sp b), true)
  | 0x52 => some (.fold (.ofBits sp b), true)
  | 0x60 => some (.fmas (.ofBits sp b), true)
  | 0x61 => some (.imas (.ofBits sp b), true)
  | 0x62 => some (.fadds (.ofBits sp b), true)
  | 0x63 => some (.fmuls (.ofBits sp b), true)
  | 0x64 => some (.iadds (.ofBits sp b), true)
  | 0x65 => some (.ffmas (.ofBits sp b), true)
  | 0x66 => some (.sels (.ofBits sp b), true)
  | 0x67 => some (.icmps (.ofBits sp b), true)
  | 0x68 => some (.fcmps (.ofBits sp b), true)
  | 0x80 => some (.ldi (.ofBits sp b), true)
  | 0x81 => some (.ldih (.ofBits sp b), true)
  | 0x82 => some (.iaddi (.ofBits sp b), true)
  | 0x83 => some (.andi (.ofBits sp b), true)
  | 0x84 => some (.ori (.ofBits sp b), true)
  | 0x85 => some (.xori (.ofBits sp b), true)
  | 0x86 => some (.imuli (.ofBits sp b), true)
  | 0x87 => some (.faddi (.ofBits sp b), true)
  | 0x88 => some (.fmuli (.ofBits sp b), true)
  | 0x89 => some (.ffmai (.ofBits sp b), true)
  | 0x8A => some (.icmpi (.ofBits sp b), true)
  | 0x8B => some (.ixset (.ofBits sp b), true)
  | 0x8C => some (.ixadd (.ofBits sp b), true)
  | 0xA0 => some (.ldB8 (.ofBits sp b), true)
  | 0xA1 => some (.ldI8 (.ofBits sp b), true)
  | 0xA2 => some (.ldB16 (.ofBits sp b), true)
  | 0xA3 => some (.ldI16 (.ofBits sp b), true)
  | 0xA4 => some (.ldB32 (.ofBits sp b), true)
  | 0xA5 => some (.ldB64 (.ofBits sp b), true)
  | 0xA6 => some (.ldB128 (.ofBits sp b), true)
  | 0xA8 => some (.stB8 (.ofBits sp b), true)
  | 0xA9 => some (.stB16 (.ofBits sp b), true)
  | 0xAA => some (.stB32 (.ofBits sp b), true)
  | 0xAB => some (.stB64 (.ofBits sp b), true)
  | 0xAC => some (.stB128 (.ofBits sp b), true)
  | 0xB0 => some (.ldlB32 (.ofBits sp b), true)
  | 0xB1 => some (.ldlB64 (.ofBits sp b), true)
  | 0xB2 => some (.stlB32 (.ofBits sp b), true)
  | 0xB3 => some (.stlB64 (.ofBits sp b), true)
  | 0xB4 => some (.ldbB32 (.ofBits sp b), true)
  | 0xB5 => some (.ldbB64 (.ofBits sp b), true)
  | 0xB6 => some (.stbB32 (.ofBits sp b), true)
  | 0xB7 => some (.stbB64 (.ofBits sp b), true)
  | 0xB8 => some (.ldbyB32 (.ofBits sp b), true)
  | 0xB9 => some (.pref (.ofBits sp b), true)
  | 0xC0 => some (.bra (.ofBits sp b), true)
  | 0xC1 => some (.call (.ofBits sp b), true)
  | 0xC2 => some (.brx (.ofBits sp b), true)
  | 0xC3 => some (.ret (.ofBits sp b), true)
  | 0xC4 => some (.exit (.ofBits sp b), true)
  | 0xC5 => some (.waitc sp (b.extractLsb' 14 6) (b.extractLsb' 8 6) (b.extractLsb' 4 4) (b.extractLsb' 1 3), !bitAt b 0)
  | 0xC6 =>
    let j := b.extractLsb' 10 6
    match (b.extractLsb' 16 4).toNat with
    | 0 => some (.trywaitRackfill sp j (b.extractLsb' 0 10), true)
    | 1 => some (.trywaitRackfree sp j (b.extractLsb' 0 10), true)
    | 2 => some (.trywaitPhase sp j (b.extractLsb' 0 10), true)
    | 3 => some (.trywaitCtr sp j (b.extractLsb' 8 2) (b.extractLsb' 0 8), true)
    | 4 => some (.trywaitFull sp j (b.extractLsb' 0 10), true)
    | _ => some (.trywaitFull sp j 0, false)
  | 0xC7 => some (.yield sp, b == 0)
  | 0xC8 =>
    match sp with
    | some mask => some (.safe mask, b == 0)
    | none => some (.safe 0, false)
  | 0xC9 => some (.bkpt sp, b == 0)
  | 0xCA => some (.trap sp (b.extractLsb' 0 8), b.extractLsb' 8 12 == 0)
  | 0xCB => some (.xret sp, b == 0)
  | 0xCC => some (.haltack sp, b == 0)
  | 0xCD => some (.prog sp (b.extractLsb' 0 3), b.extractLsb' 3 17 == 0)
  | 0xE0 => some (.icmp (.ofBits sp b), true)
  | 0xE1 => some (.fcmp (.ofBits sp b), true)
  | 0xE2 => some (.pnot (.ofBits sp b), true)
  | 0xE3 => some (.pand (.ofBits sp b), true)
  | 0xE4 => some (.por (.ofBits sp b), true)
  | 0xE5 => some (.pxor (.ofBits sp b), true)
  | 0xE6 => some (.ppop (.ofBits sp b), true)
  | 0xE7 => some (.pdup (.ofBits sp b), true)
  | 0xE8 => some (.leader (.ofBits sp b), true)
  | 0xEA => some (.pmov (.ofBits sp b), true)
  | 0xEB => some (.pstore (.ofBits sp b), true)
  | 0xE9 =>
    some (match (b.extractLsb' 0 2).toNat with
      | 0 => .voteAll (.ofBits sp b)
      | 1 => .voteAny (.ofBits sp b)
      | 2 => .voteEq (.ofBits sp b)
      | _ => .voteOdd (.ofBits sp b), true)
  | _ => none

/-! ## Fields of the X forms: bits [51:0] as each chapter lays them out -/

/-- 08 R242. -/
def MmaF.ofBits (sp : Safe) (b : BitVec 52) : MmaF :=
  { sp, fa := b.extractLsb' 48 4, fb := b.extractLsb' 44 4, kn := b.extractLsb' 36 8, s := b.extractLsb' 31 5,
    woff := b.extractLsb' 18 13, wpitch := b.extractLsb' 5 13, a := b.extractLsb' 3 2 }
/-- 08 R246. -/
def TileF.ofBits (sp : Safe) (b : BitVec 52) : TileF :=
  { sp, c0 := b.extractLsb' 46 6, ncm1 := b.extractLsb' 40 6, d := b.extractLsb' 38 2,
    a := b.extractLsb' 36 2, code := b.extractLsb' 32 4, s := b.extractLsb' 27 5, woff := b.extractLsb' 14 13,
    rm := b.extractLsb' 11 3 }
/-- 09 R254. -/
def CopyF.ofBits (sp : Safe) (b : BitVec 52) : CopyF :=
  { sp, dir := b.extractLsb' 50 2, buf := bitAt b 49, rk := bitAt b 48, rack := b.extractLsb' 43 5,
    sb := b.extractLsb' 39 4, cb := b.extractLsb' 35 4, cw := bitAt b 34, chk := bitAt b 33,
    fmt := b.extractLsb' 29 4, rm := b.extractLsb' 26 3, boff := b.extractLsb' 13 13, g := b.extractLsb' 7 6,
    rg := b.extractLsb' 1 6 }
/-- 11 R313. -/
def AtomF.ofBits (sp : Safe) (b : BitVec 52) : AtomF :=
  { sp, op := b.extractLsb' 48 4, ty := b.extractLsb' 45 3, scope := b.extractLsb' 42 3,
    sem := b.extractLsb' 40 2, d := b.extractLsb' 38 2, a := b.extractLsb' 36 2, c := b.extractLsb' 34 2,
    g := b.extractLsb' 28 6, sb := b.extractLsb' 24 4, off := b.extractLsb' 8 16, hm := b.extractLsb' 6 2 }
/-- 11 R300, with w = 1 in [48]. -/
def SyncF.ofBits (sp : Safe) (b : BitVec 52) : SyncF :=
  { sp, scope := b.extractLsb' 49 3, size := bitAt b 47, slot := b.extractLsb' 45 2, g := b.extractLsb' 39 6,
    sb := b.extractLsb' 35 4, off := b.extractLsb' 19 16 }
/-- 11 R311. -/
def FlushF.ofBits (sp : Safe) (b : BitVec 52) : FlushF :=
  { sp, scope := b.extractLsb' 49 3, sb := b.extractLsb' 45 4, s := b.extractLsb' 40 5 }
/-- 10 R294. -/
def ScopedF.ofBits (sp : Safe) (b : BitVec 52) : ScopedF :=
  { sp, scope := b.extractLsb' 49 3, size := b.extractLsb' 46 3, slot := b.extractLsb' 44 2,
    g := b.extractLsb' 38 6, sb := b.extractLsb' 34 4, off := b.extractLsb' 18 16, pol := b.extractLsb' 16 2 }
/-- 11 R320. -/
def RvF.ofBits (sp : Safe) (b : BitVec 52) : RvF :=
  { sp, pt := b.extractLsb' 47 5, cnt := b.extractLsb' 38 9, d := b.extractLsb' 36 2, wd := bitAt b 35 }
/-- 05 R173. -/
def SpillF.ofBits (sp : Safe) (b : BitVec 52) : SpillF :=
  { sp, slot := b.extractLsb' 50 2, sb := b.extractLsb' 46 4, off := b.extractLsb' 30 16 }
/-- 07 R225. -/
def RackInitF.ofBits (sp : Safe) (b : BitVec 52) : RackInitF :=
  { sp, rack := b.extractLsb' 47 5, base := b.extractLsb' 34 13, size := b.extractLsb' 24 10,
    count := b.extractLsb' 20 4 }
/-- 07 R225; [42] is skip, which tells RKREL from RKREL.skip and is 0 elsewhere. -/
def RackF.ofBits (sp : Safe) (b : BitVec 52) : RackF :=
  { sp, rack := b.extractLsb' 47 5, d := b.extractLsb' 45 2, a := b.extractLsb' 43 2 }
/-- 13 R368. -/
def EmitaF.ofBits (sp : Safe) (b : BitVec 52) : EmitaF :=
  { sp, node := b.extractLsb' 46 6, d := b.extractLsb' 44 2, one := bitAt b 43 }
/-- 13 R369. -/
def EmitcF.ofBits (sp : Safe) (b : BitVec 52) : EmitcF :=
  { sp, a := b.extractLsb' 44 2, one := bitAt b 43 }
/-- 13 R372. -/
def EvsetF.ofBits (sp : Safe) (b : BitVec 52) : EvsetF :=
  { sp, bit := b.extractLsb' 44 8, ind := bitAt b 43, a := b.extractLsb' 41 2, scope := b.extractLsb' 38 3 }
/-- 16 R431. -/
def TraceF.ofBits (sp : Safe) (b : BitVec 52) : TraceF :=
  { sp, mark := b.extractLsb' 44 8, a := b.extractLsb' 42 2, v := bitAt b 41, all := bitAt b 40 }
/-- 15 R418. -/
def CsrwF.ofBits (sp : Safe) (b : BitVec 52) : CsrwF :=
  { sp, csr := b.extractLsb' 40 12, w := bitAt b 39, r := bitAt b 38, d := b.extractLsb' 36 2,
    a := b.extractLsb' 34 2 }

/-- The X map (R67), on op8x and bits [51:0]. -/
def candidateX (sp : Safe) (op : Nat) (b : BitVec 52) : Option (Instr × Bool) :=
  match op with
  | 0x00 => some (.mma (.ofBits sp b), b.extractLsb' 0 3 == 0)
  | 0x01 => some (.mmag (.ofBits sp b), b.extractLsb' 0 3 == 0)
  | 0x02 => some (.tbind (.ofBits sp b), b.extractLsb' 0 11 == 0)
  | 0x03 => some (.tfree (.ofBits sp b), b.extractLsb' 0 11 == 0)
  | 0x04 => some (.tzero (.ofBits sp b), b.extractLsb' 0 11 == 0)
  | 0x05 => some (.tld (.ofBits sp b), b.extractLsb' 0 11 == 0)
  | 0x06 => some (.tst (.ofBits sp b), b.extractLsb' 0 11 == 0)
  | 0x07 => some (.tqnt (.ofBits sp b), b.extractLsb' 0 11 == 0)
  | 0x08 => some (.tget (.ofBits sp b), b.extractLsb' 0 11 == 0)
  | 0x09 => some (.tset (.ofBits sp b), b.extractLsb' 0 11 == 0)
  | 0x0A => some (.taddc (.ofBits sp b), b.extractLsb' 0 11 == 0)
  | 0x0B => some (.tmulr (.ofBits sp b), b.extractLsb' 0 11 == 0)
  | 0x0C => some (.trowred (.ofBits sp b), b.extractLsb' 0 11 == 0)
  | 0x0D => some (.tact (.ofBits sp b), b.extractLsb' 0 11 == 0)
  | 0x0E => some (.tscl (.ofBits sp b), b.extractLsb' 0 11 == 0)
  | 0x20 => some (.cpyl (.ofBits sp b), b.extractLsb' 0 1 == 0)
  | 0x21 => some (.cpyt (.ofBits sp b), b.extractLsb' 0 1 == 0)
  | 0x22 => some (.cpyw (.ofBits sp b), b.extractLsb' 0 1 == 0)
  | 0x23 => some (.cpyg (.ofBits sp b), b.extractLsb' 0 1 == 0)
  | 0x24 => some (.cpys (.ofBits sp b), b.extractLsb' 0 1 == 0)
  | 0x25 => some (.cpyx (.ofBits sp b), b.extractLsb' 0 1 == 0)
  | 0x26 => some (.cpyq (.ofBits sp b), b.extractLsb' 0 1 == 0)
  | 0x40 => some (.atom (.ofBits sp b), b.extractLsb' 0 6 == 0)
  | 0x41 => some (.atomc (.ofBits sp b), b.extractLsb' 0 6 == 0)
  | 0x42 => some (.red (.ofBits sp b), b.extractLsb' 0 6 == 0)
  | 0x46 => some (.flush (.ofBits sp b), b.extractLsb' 0 40 == 0)
  | 0x47 => some (.inv (.ofBits sp b), b.extractLsb' 0 40 == 0)
  | 0x48 => some (.lds (.ofBits sp b), b.extractLsb' 0 16 == 0)
  | 0x49 => some (.sts (.ofBits sp b), b.extractLsb' 0 16 == 0)
  | 0x50 => some (.rvinit (.ofBits sp b), b.extractLsb' 0 35 == 0)
  | 0x51 => some (.rvarr (.ofBits sp b), b.extractLsb' 0 35 == 0)
  | 0x52 => some (.rvwait (.ofBits sp b), b.extractLsb' 0 35 == 0)
  | 0x53 => some (.rvaw (.ofBits sp b), b.extractLsb' 0 35 == 0)
  | 0x58 => some (.rkinit (.ofBits sp b), b.extractLsb' 0 20 == 0)
  | 0x59 => some (.rkacq (.ofBits sp b), b.extractLsb' 0 43 == 0)
  | 0x5A => some (.rkpub (.ofBits sp b), b.extractLsb' 0 43 == 0)
  | 0x5B => some (.rkawait (.ofBits sp b), b.extractLsb' 0 43 == 0)
  | 0x60 => some (.emita (.ofBits sp b), b.extractLsb' 0 43 == 0)
  | 0x61 => some (.emitc (.ofBits sp b), b.extractLsb' 46 6 == 0 && b.extractLsb' 0 43 == 0)
  | 0x62 => some (.evset (.ofBits sp b), b.extractLsb' 0 38 == 0)
  | 0x70 => some (.spill (.ofBits sp b), b.extractLsb' 0 30 == 0)
  | 0x71 => some (.fill (.ofBits sp b), b.extractLsb' 0 30 == 0)
  | 0x78 => some (.trace (.ofBits sp b), b.extractLsb' 0 40 == 0)
  | 0x7F => some (.csrw (.ofBits sp b), b.extractLsb' 0 34 == 0)
  | 0x43 => some (.fence sp (b.extractLsb' 49 3), b.extractLsb' 0 49 == 0)
  | 0x44 =>
    if bitAt b 48 then some (.acqWord (.ofBits sp b), b.extractLsb' 0 19 == 0)
    else some (.acq sp (b.extractLsb' 49 3), b.extractLsb' 0 48 == 0)
  | 0x45 =>
    if bitAt b 48 then some (.relWord (.ofBits sp b), b.extractLsb' 0 19 == 0)
    else some (.rel sp (b.extractLsb' 49 3), b.extractLsb' 0 48 == 0)
  | 0x5C =>
    some (if bitAt b 42 then .rkrelSkip (.ofBits sp b) else .rkrel (.ofBits sp b), b.extractLsb' 0 42 == 0)
  | _ => none

/-- A 16-bit instruction value. -/
def decode16 (v : Parcel) : Except DecodeError Instr :=
  decodeFinish false (candidate16 (v.extractLsb' 10 6).toNat (v.extractLsb' 0 10))
/-- A 32-bit instruction value with its live-mask word, if any (R48, R49). -/
def decode32 (sp : Safe) (v : Word) : Except DecodeError Instr :=
  decodeFinish false (candidate32 sp (v.extractLsb' 20 8).toNat (v.extractLsb' 0 20))
/-- A 64-bit instruction value (R51). CSRW is the one privileged instruction whose fields are checked (R69, R396). -/
def decodeX (sp : Safe) (v : DWord) : Except DecodeError Instr :=
  decodeFinish ((v.extractLsb' 52 8) == 0x7F) (candidateX sp (v.extractLsb' 52 8).toNat (v.extractLsb' 0 52))

/-- The instruction in exactly the parcels of its length (R41, R42, R53): the first parcel is the most significant,
and so is the first parcel of a live-mask word. -/
def decode (ps : List Parcel) : Except DecodeError Instr :=
  match ps with
  | [] => .error .truncated
  | p0 :: rest =>
    if p0.extractLsb' 14 2 != 3 then
      match rest with
      | [] => decode16 p0
      | _ => .error .truncated
    else if bitAt p0 13 then
      match bitAt p0 12, rest with
      | false, [p1, p2, p3] => decodeX none (p0 ++ p1 ++ p2 ++ p3)
      | true, [p1, p2, p3, m0, m1] => decodeX (some (m0 ++ m1)) (p0 ++ p1 ++ p2 ++ p3)
      | _, _ => .error .truncated
    else
      match bitAt p0 12, rest with
      | false, [p1] => decode32 none (p0 ++ p1)
      | true, [p1, m0, m1] => decode32 (some (m0 ++ m1)) (p0 ++ p1)
      | _, _ => .error .truncated

/-- The value a trap frame records: the instruction without its live-mask word, first parcel highest (R70). -/
def instrValue (ps : List Parcel) : DWord :=
  match ps with
  | [] => 0
  | [p0] => p0.setWidth 64
  | p0 :: p1 :: rest =>
    if bitAt p0 13 then p0 ++ p1 ++ (rest[0]?.getD 0) ++ (rest[1]?.getD 0) else (p0 ++ p1).setWidth 64

/-! ## Xbrod instructions of the front-end processors (14 R392) -/

def xbrodFields (w : Word) : XbrodF := { rd := w.extractLsb' 7 5, rs1 := w.extractLsb' 15 5, rs2 := w.extractLsb' 20 5 }
/-- Which of the nine instructions a word of the custom-0 opcode is, in the table's order; none is the illegal-instruction
exception. DEDUCED: a non-zero unused field is refused as an unlisted function is (log entry 34). -/
def xbrodForm (w : Word) : Option Nat :=
  let f := xbrodFields w
  if w.extractLsb' 0 7 != 0x0B then none
  else match (w.extractLsb' 25 7).toNat, (w.extractLsb' 12 3).toNat with
    | 0, 0 => some 0
    | 1, 0 => some 1
    | 1, 1 => some 2
    | 2, 0 => some 3
    | 3, 0 => if f.rs2 == 0 then some 4 else none
    | 4, 0 => if f.rs2 == 0 then some 5 else none
    | 5, 0 => some 6
    | 6, 0 => some 7
    | 7, 0 => if f.rd == 0 then some 8 else none
    | _, _ => none
/-- The Xbrod instruction in a word. -/
noncomputable def decodeXbrod (w : Word) : Option Instr :=
  let f := xbrodFields w
  match xbrodForm w with
  | some 0 => some (.qfetch f)
  | some 1 => some (.xbrodBfx f)
  | some 2 => some (.xbrodBfxS f)
  | some 3 => some (.xbrodBfi f)
  | some 4 => some (.sigwait f)
  | some 5 => some (.dispatch f)
  | some 6 => some (.qsave f)
  | some 7 => some (.qload f)
  | some 8 => some (.evpost f)
  | _ => none

/-! ## The encoder -/

def S16.bits (f : S16) : BitVec 10 := f.d ++ f.a ++ f.g
def Guard.bits (g : Guard) : BitVec 4 := g.p ++ BitVec.ofBool g.n ++ BitVec.ofBool g.e
def LR.bits (f : LR) : BitVec 20 :=
  f.d ++ f.a ++ f.g ++ BitVec.ofBool f.x ++ BitVec.ofBool f.l ++ f.gd.bits ++ f.m
def LS.bits (f : LS) : BitVec 20 :=
  f.d ++ f.a ++ f.g ++ f.u ++ BitVec.ofBool f.e ++ BitVec.ofBool f.n ++ f.m
def LI.bits (f : LI) : BitVec 20 := f.d ++ f.a ++ f.imm
def LM.bits (f : LM) : BitVec 20 := f.d ++ f.a ++ f.g ++ f.sb ++ f.imm
def LB.bits (f : LB) : BitVec 20 := f.gd.bits ++ f.off

def MmaF.bits (f : MmaF) : BitVec 52 :=
  f.fa ++ f.fb ++ f.kn ++ f.s ++ f.woff ++ f.wpitch ++ f.a ++ 0#3
def TileF.bits (f : TileF) : BitVec 52 :=
  f.c0 ++ f.ncm1 ++ f.d ++ f.a ++ f.code ++ f.s ++ f.woff ++ f.rm ++ 0#11
def CopyF.bits (f : CopyF) : BitVec 52 :=
  f.dir ++ BitVec.ofBool f.buf ++ BitVec.ofBool f.rk ++ f.rack ++ f.sb ++ f.cb ++ BitVec.ofBool f.cw ++
    BitVec.ofBool f.chk ++ f.fmt ++ f.rm ++ f.boff ++ f.g ++ f.rg ++ 0#1
def AtomF.bits (f : AtomF) : BitVec 52 :=
  f.op ++ f.ty ++ f.scope ++ f.sem ++ f.d ++ f.a ++ f.c ++ f.g ++ f.sb ++ f.off ++ f.hm ++ 0#6
def SyncF.bits (f : SyncF) : BitVec 52 :=
  f.scope ++ 1#1 ++ BitVec.ofBool f.size ++ f.slot ++ f.g ++ f.sb ++ f.off ++ 0#19
def FlushF.bits (f : FlushF) : BitVec 52 :=
  f.scope ++ f.sb ++ f.s ++ 0#40
def ScopedF.bits (f : ScopedF) : BitVec 52 :=
  f.scope ++ f.size ++ f.slot ++ f.g ++ f.sb ++ f.off ++ f.pol ++ 0#16
def RvF.bits (f : RvF) : BitVec 52 :=
  f.pt ++ f.cnt ++ f.d ++ BitVec.ofBool f.wd ++ 0#35
def SpillF.bits (f : SpillF) : BitVec 52 :=
  f.slot ++ f.sb ++ f.off ++ 0#30
def RackInitF.bits (f : RackInitF) : BitVec 52 :=
  f.rack ++ f.base ++ f.size ++ f.count ++ 0#20
def RackF.bits (f : RackF) (skip : Bool) : BitVec 52 :=
  f.rack ++ f.d ++ f.a ++ BitVec.ofBool skip ++ 0#42
def EmitaF.bits (f : EmitaF) : BitVec 52 :=
  f.node ++ f.d ++ BitVec.ofBool f.one ++ 0#43
def EmitcF.bits (f : EmitcF) : BitVec 52 :=
  0#6 ++ f.a ++ BitVec.ofBool f.one ++ 0#43
def EvsetF.bits (f : EvsetF) : BitVec 52 :=
  f.bit ++ BitVec.ofBool f.ind ++ f.a ++ f.scope ++ 0#38
def TraceF.bits (f : TraceF) : BitVec 52 :=
  f.mark ++ f.a ++ BitVec.ofBool f.v ++ BitVec.ofBool f.all ++ 0#40
def CsrwF.bits (f : CsrwF) : BitVec 52 :=
  f.csr ++ BitVec.ofBool f.w ++ BitVec.ofBool f.r ++ f.d ++ f.a ++ 0#34

/-- A 16-bit instruction: op6 over bits [9:0] (R47). -/
def encode16 (op : BitVec 6) (b : BitVec 10) : List Parcel := [op ++ b]
/-- The two parcels of a word, bits [31:16] first (R41, R53). -/
def wordParcels (w : Word) : List Parcel := [w.extractLsb' 16 16, w.extractLsb' 0 16]
/-- The live-mask word's parcels follow the instruction (R53). -/
def maskParcels (sp : Safe) : List Parcel := (sp.map wordParcels).getD []
/-- A 32-bit instruction (R48). -/
def encode32 (sp : Safe) (op : BitVec 8) (b : BitVec 20) : List Parcel :=
  wordParcels (0b110#3 ++ BitVec.ofBool sp.isSome ++ op ++ b) ++ maskParcels sp
/-- A 64-bit instruction (R51). -/
def encodeX (sp : Safe) (op : BitVec 8) (b : BitVec 52) : List Parcel :=
  let v : DWord := 0b111#3 ++ BitVec.ofBool sp.isSome ++ op ++ b
  wordParcels (v.extractLsb' 32 32) ++ wordParcels (v.extractLsb' 0 32) ++ maskParcels sp

/-- An R-type word of the custom-0 opcode (14 R392). -/
def encodeXbrod (f7 : BitVec 7) (f3 : BitVec 3) (f : XbrodF) : Word :=
  f7 ++ f.rs2 ++ f.rs1 ++ f3 ++ f.rd ++ 0x0B#7

/-- The RV64 word of an Xbrod instruction. -/
def Instr.xbrodWord : Instr → Option Word
  | .qfetch f => some (encodeXbrod 0 0 f)
  | .xbrodBfx f => some (encodeXbrod 1 0 f)
  | .xbrodBfxS f => some (encodeXbrod 1 1 f)
  | .xbrodBfi f => some (encodeXbrod 2 0 f)
  | .sigwait f => some (encodeXbrod 3 0 f)
  | .dispatch f => some (encodeXbrod 4 0 f)
  | .qsave f => some (encodeXbrod 5 0 f)
  | .qload f => some (encodeXbrod 6 0 f)
  | .evpost f => some (encodeXbrod 7 0 f)
  | _ => none

/-- The parcels of a strand instruction; empty for Xbrod instructions and events. -/
def encode : Instr → List Parcel
  | .nop => encode16 0x00 0
  | .movShort f => encode16 0x01 f.bits
  | .getShort f => encode16 0x02 f.bits
  | .getl f => encode16 0x03 f.bits
  | .putShort f => encode16 0x04 f.bits
  | .iaddShort f => encode16 0x05 f.bits
  | .isubShort f => encode16 0x06 f.bits
  | .imulShort f => encode16 0x07 f.bits
  | .imadShort f => encode16 0x08 f.bits
  | .andShort f => encode16 0x09 f.bits
  | .orShort f => encode16 0x0A f.bits
  | .xorShort f => encode16 0x0B f.bits
  | .shlShort f => encode16 0x0C f.bits
  | .shrShort f => encode16 0x0D f.bits
  | .sarShort f => encode16 0x0E f.bits
  | .iminShort f => encode16 0x0F f.bits
  | .imaxShort f => encode16 0x10 f.bits
  | .iaddiShort f => encode16 0x11 f.bits
  | .shli f => encode16 0x12 f.bits
  | .shri f => encode16 0x13 f.bits
  | .faddShort f => encode16 0x14 f.bits
  | .fsubShort f => encode16 0x15 f.bits
  | .fmulShort f => encode16 0x16 f.bits
  | .ffmaShort f => encode16 0x17 f.bits
  | .ffmsShort f => encode16 0x18 f.bits
  | .fminShort f => encode16 0x19 f.bits
  | .fmaxShort f => encode16 0x1A f.bits
  | .hfma2Short f => encode16 0x1B f.bits
  | .bfma2Short f => encode16 0x1C f.bits
  | .ffmasShort f => encode16 0x1D f.bits
  | .fmulsShort f => encode16 0x1E f.bits
  | .iaddsShort f => encode16 0x1F f.bits
  | .ldw f => encode16 0x20 f.bits
  | .stw f => encode16 0x21 f.bits
  | .ldbA f => encode16 0x22 f.bits
  | .stbA f => encode16 0x23 f.bits
  | .flt f => encode16 0x24 f.bits
  | .ilt f => encode16 0x25 f.bits
  | .ieq f => encode16 0x26 f.bits
  | .selp f => encode16 0x27 f.bits
  | .frcpShort f => encode16 0x2D f.bits
  | .cvtfF32I32 f => encode16 0x2E f.bits
  | .ppopShort n => encode16 0x28 (0#7 ++ n)
  | .brs o => encode16 0x29 o
  | .bps o => encode16 0x2A o
  | .bns o => encode16 0x2B o
  | .waitcLd n => encode16 0x2C (0#4 ++ n)
  | .exitShort => encode16 0x2F 0
  | .srd f => encode32 f.sp 0x04 f.bits
  | .srdSet f => encode32 f.sp 0x04 f.bits
  | .mov f => encode32 f.sp 0x00 f.bits
  | .get f => encode32 f.sp 0x01 f.bits
  | .put f => encode32 f.sp 0x02 f.bits
  | .puts f => encode32 f.sp 0x03 f.bits
  | .sel f => encode32 f.sp 0x05 f.bits
  | .iadd f => encode32 f.sp 0x08 f.bits
  | .isub f => encode32 f.sp 0x09 f.bits
  | .imul f => encode32 f.sp 0x0A f.bits
  | .imulh f => encode32 f.sp 0x0B f.bits
  | .imad f => encode32 f.sp 0x0C f.bits
  | .imul64w f => encode32 f.sp 0x0D f.bits
  | .iadd64 f => encode32 f.sp 0x0E f.bits
  | .isub64 f => encode32 f.sp 0x0F f.bits
  | .and f => encode32 f.sp 0x10 f.bits
  | .or f => encode32 f.sp 0x11 f.bits
  | .xor f => encode32 f.sp 0x12 f.bits
  | .andn f => encode32 f.sp 0x13 f.bits
  | .shl f => encode32 f.sp 0x14 f.bits
  | .shr f => encode32 f.sp 0x15 f.bits
  | .sar f => encode32 f.sp 0x16 f.bits
  | .rotl f => encode32 f.sp 0x17 f.bits
  | .imin f => encode32 f.sp 0x18 f.bits
  | .imax f => encode32 f.sp 0x19 f.bits
  | .iabs f => encode32 f.sp 0x1A f.bits
  | .ineg f => encode32 f.sp 0x1B f.bits
  | .popc f => encode32 f.sp 0x1C f.bits
  | .clz f => encode32 f.sp 0x1D f.bits
  | .brev f => encode32 f.sp 0x1E f.bits
  | .bfx f => encode32 f.sp 0x1F f.bits
  | .bfi f => encode32 f.sp 0x20 f.bits
  | .idiv f => encode32 f.sp 0x21 f.bits
  | .irem f => encode32 f.sp 0x22 f.bits
  | .fadd f => encode32 f.sp 0x28 f.bits
  | .fsub f => encode32 f.sp 0x29 f.bits
  | .fmul f => encode32 f.sp 0x2A f.bits
  | .ffma f => encode32 f.sp 0x2B f.bits
  | .ffms f => encode32 f.sp 0x2C f.bits
  | .fmin f => encode32 f.sp 0x2D f.bits
  | .fmax f => encode32 f.sp 0x2E f.bits
  | .fabs f => encode32 f.sp 0x2F f.bits
  | .fneg f => encode32 f.sp 0x30 f.bits
  | .fdiv f => encode32 f.sp 0x31 f.bits
  | .frcp f => encode32 f.sp 0x32 f.bits
  | .frsq f => encode32 f.sp 0x33 f.bits
  | .fsqrt f => encode32 f.sp 0x34 f.bits
  | .fexp2 f => encode32 f.sp 0x35 f.bits
  | .flog2 f => encode32 f.sp 0x36 f.bits
  | .fsin f => encode32 f.sp 0x37 f.bits
  | .fcos f => encode32 f.sp 0x38 f.bits
  | .ftanh f => encode32 f.sp 0x39 f.bits
  | .frnd f => encode32 f.sp 0x3A f.bits
  | .fclass f => encode32 f.sp 0x3B f.bits
  | .hadd2 f => encode32 f.sp 0x40 f.bits
  | .hmul2 f => encode32 f.sp 0x41 f.bits
  | .hfma2 f => encode32 f.sp 0x42 f.bits
  | .badd2 f => encode32 f.sp 0x43 f.bits
  | .bmul2 f => encode32 f.sp 0x44 f.bits
  | .bfma2 f => encode32 f.sp 0x45 f.bits
  | .hmin2 f => encode32 f.sp 0x46 f.bits
  | .hmax2 f => encode32 f.sp 0x47 f.bits
  | .cvti f => encode32 f.sp 0x48 f.bits
  | .cvtf f => encode32 f.sp 0x49 f.bits
  | .pack2 f => encode32 f.sp 0x4A f.bits
  | .unpk2 f => encode32 f.sp 0x4B f.bits
  | .cvtn f => encode32 f.sp 0x4C f.bits
  | .lxch f => encode32 f.sp 0x50 f.bits
  | .ballot f => encode32 f.sp 0x51 f.bits
  | .fold f => encode32 f.sp 0x52 f.bits
  | .fmas f => encode32 f.sp 0x60 f.bits
  | .imas f => encode32 f.sp 0x61 f.bits
  | .fadds f => encode32 f.sp 0x62 f.bits
  | .fmuls f => encode32 f.sp 0x63 f.bits
  | .iadds f => encode32 f.sp 0x64 f.bits
  | .ffmas f => encode32 f.sp 0x65 f.bits
  | .sels f => encode32 f.sp 0x66 f.bits
  | .icmps f => encode32 f.sp 0x67 f.bits
  | .fcmps f => encode32 f.sp 0x68 f.bits
  | .ldi f => encode32 f.sp 0x80 f.bits
  | .ldih f => encode32 f.sp 0x81 f.bits
  | .iaddi f => encode32 f.sp 0x82 f.bits
  | .andi f => encode32 f.sp 0x83 f.bits
  | .ori f => encode32 f.sp 0x84 f.bits
  | .xori f => encode32 f.sp 0x85 f.bits
  | .imuli f => encode32 f.sp 0x86 f.bits
  | .faddi f => encode32 f.sp 0x87 f.bits
  | .fmuli f => encode32 f.sp 0x88 f.bits
  | .ffmai f => encode32 f.sp 0x89 f.bits
  | .icmpi f => encode32 f.sp 0x8A f.bits
  | .ixset f => encode32 f.sp 0x8B f.bits
  | .ixadd f => encode32 f.sp 0x8C f.bits
  | .ldB8 f => encode32 f.sp 0xA0 f.bits
  | .ldI8 f => encode32 f.sp 0xA1 f.bits
  | .ldB16 f => encode32 f.sp 0xA2 f.bits
  | .ldI16 f => encode32 f.sp 0xA3 f.bits
  | .ldB32 f => encode32 f.sp 0xA4 f.bits
  | .ldB64 f => encode32 f.sp 0xA5 f.bits
  | .ldB128 f => encode32 f.sp 0xA6 f.bits
  | .stB8 f => encode32 f.sp 0xA8 f.bits
  | .stB16 f => encode32 f.sp 0xA9 f.bits
  | .stB32 f => encode32 f.sp 0xAA f.bits
  | .stB64 f => encode32 f.sp 0xAB f.bits
  | .stB128 f => encode32 f.sp 0xAC f.bits
  | .ldlB32 f => encode32 f.sp 0xB0 f.bits
  | .ldlB64 f => encode32 f.sp 0xB1 f.bits
  | .stlB32 f => encode32 f.sp 0xB2 f.bits
  | .stlB64 f => encode32 f.sp 0xB3 f.bits
  | .ldbB32 f => encode32 f.sp 0xB4 f.bits
  | .ldbB64 f => encode32 f.sp 0xB5 f.bits
  | .stbB32 f => encode32 f.sp 0xB6 f.bits
  | .stbB64 f => encode32 f.sp 0xB7 f.bits
  | .ldbyB32 f => encode32 f.sp 0xB8 f.bits
  | .pref f => encode32 f.sp 0xB9 f.bits
  | .bra f => encode32 f.sp 0xC0 f.bits
  | .call f => encode32 f.sp 0xC1 f.bits
  | .brx f => encode32 f.sp 0xC2 f.bits
  | .ret f => encode32 f.sp 0xC3 f.bits
  | .exit f => encode32 f.sp 0xC4 f.bits
  | .icmp f => encode32 f.sp 0xE0 f.bits
  | .fcmp f => encode32 f.sp 0xE1 f.bits
  | .pnot f => encode32 f.sp 0xE2 f.bits
  | .pand f => encode32 f.sp 0xE3 f.bits
  | .por f => encode32 f.sp 0xE4 f.bits
  | .pxor f => encode32 f.sp 0xE5 f.bits
  | .ppop f => encode32 f.sp 0xE6 f.bits
  | .pdup f => encode32 f.sp 0xE7 f.bits
  | .leader f => encode32 f.sp 0xE8 f.bits
  | .pmov f => encode32 f.sp 0xEA f.bits
  | .pstore f => encode32 f.sp 0xEB f.bits
  | .waitc sp ld st cp mx => encode32 sp 0xC5 (ld ++ st ++ cp ++ mx ++ 0#1)
  | .trywaitRackfill sp j t => encode32 sp 0xC6 (0#4 ++ j ++ t)
  | .trywaitRackfree sp j t => encode32 sp 0xC6 (1#4 ++ j ++ t)
  | .trywaitPhase sp j t => encode32 sp 0xC6 (2#4 ++ j ++ t)
  | .trywaitCtr sp j c t => encode32 sp 0xC6 (3#4 ++ j ++ c ++ t)
  | .trywaitFull sp j t => encode32 sp 0xC6 (4#4 ++ j ++ t)
  | .yield sp => encode32 sp 0xC7 0
  | .safe mask => encode32 (some mask) 0xC8 0
  | .bkpt sp => encode32 sp 0xC9 0
  | .trap sp n => encode32 sp 0xCA (0#12 ++ n)
  | .xret sp => encode32 sp 0xCB 0
  | .haltack sp => encode32 sp 0xCC 0
  | .prog sp c => encode32 sp 0xCD (0#17 ++ c)
  | .voteAll f => encode32 f.sp 0xE9 f.bits
  | .voteAny f => encode32 f.sp 0xE9 f.bits
  | .voteEq f => encode32 f.sp 0xE9 f.bits
  | .voteOdd f => encode32 f.sp 0xE9 f.bits
  | .mma f => encodeX f.sp 0x00 f.bits
  | .mmag f => encodeX f.sp 0x01 f.bits
  | .tbind f => encodeX f.sp 0x02 f.bits
  | .tfree f => encodeX f.sp 0x03 f.bits
  | .tzero f => encodeX f.sp 0x04 f.bits
  | .tld f => encodeX f.sp 0x05 f.bits
  | .tst f => encodeX f.sp 0x06 f.bits
  | .tqnt f => encodeX f.sp 0x07 f.bits
  | .tget f => encodeX f.sp 0x08 f.bits
  | .tset f => encodeX f.sp 0x09 f.bits
  | .taddc f => encodeX f.sp 0x0A f.bits
  | .tmulr f => encodeX f.sp 0x0B f.bits
  | .trowred f => encodeX f.sp 0x0C f.bits
  | .tact f => encodeX f.sp 0x0D f.bits
  | .tscl f => encodeX f.sp 0x0E f.bits
  | .cpyl f => encodeX f.sp 0x20 f.bits
  | .cpyt f => encodeX f.sp 0x21 f.bits
  | .cpyw f => encodeX f.sp 0x22 f.bits
  | .cpyg f => encodeX f.sp 0x23 f.bits
  | .cpys f => encodeX f.sp 0x24 f.bits
  | .cpyx f => encodeX f.sp 0x25 f.bits
  | .cpyq f => encodeX f.sp 0x26 f.bits
  | .atom f => encodeX f.sp 0x40 f.bits
  | .atomc f => encodeX f.sp 0x41 f.bits
  | .red f => encodeX f.sp 0x42 f.bits
  | .flush f => encodeX f.sp 0x46 f.bits
  | .inv f => encodeX f.sp 0x47 f.bits
  | .lds f => encodeX f.sp 0x48 f.bits
  | .sts f => encodeX f.sp 0x49 f.bits
  | .rvinit f => encodeX f.sp 0x50 f.bits
  | .rvarr f => encodeX f.sp 0x51 f.bits
  | .rvwait f => encodeX f.sp 0x52 f.bits
  | .rvaw f => encodeX f.sp 0x53 f.bits
  | .rkinit f => encodeX f.sp 0x58 f.bits
  | .rkacq f => encodeX f.sp 0x59 (f.bits false)
  | .rkpub f => encodeX f.sp 0x5A (f.bits false)
  | .rkawait f => encodeX f.sp 0x5B (f.bits false)
  | .emita f => encodeX f.sp 0x60 f.bits
  | .emitc f => encodeX f.sp 0x61 f.bits
  | .evset f => encodeX f.sp 0x62 f.bits
  | .spill f => encodeX f.sp 0x70 f.bits
  | .fill f => encodeX f.sp 0x71 f.bits
  | .trace f => encodeX f.sp 0x78 f.bits
  | .csrw f => encodeX f.sp 0x7F f.bits
  | .fence sp scope => encodeX sp 0x43 (scope ++ 0#49)
  | .acq sp scope => encodeX sp 0x44 (scope ++ 0#49)
  | .acqWord f => encodeX f.sp 0x44 f.bits
  | .rel sp scope => encodeX sp 0x45 (scope ++ 0#49)
  | .relWord f => encodeX f.sp 0x45 f.bits
  | .rkrel f => encodeX f.sp 0x5C (f.bits false)
  | .rkrelSkip f => encodeX f.sp 0x5C (f.bits true)
  | _ => []

/-! ## The host's question -/

/-- The parcels of a 32-bit word or 64-bit value, first parcel most significant. -/
def parcelsOf (nbits w : Nat) : List Parcel :=
  if nbits = 16 then [BitVec.ofNat 16 w]
  else if nbits = 32 then wordParcels (BitVec.ofNat 32 w)
  else wordParcels (BitVec.ofNat 32 (w >>> 32)) ++ wordParcels (BitVec.ofNat 32 w)

/-- The instruction the decoder reads from a row of the opcode table: w is the instruction value (R41), a word of
the custom-0 opcode is a front-end instruction, and what the table does not give (a live-mask word) is zeros. -/
noncomputable def decodeTableWord (nbits w : Nat) : Option Instr :=
  let ps := parcelsOf nbits w
  if nbits = 32 && (BitVec.ofNat 32 w).extractLsb' 30 2 != 3 then decodeXbrod (BitVec.ofNat 32 w)
  else
    let n := match ps with
      | p :: _ => parcelCount p
      | [] => 0
    match decode ((ps ++ [0, 0]).take n) with
    | .ok i => some i
    | .error _ => none

end Sys2Proof
end

