-- ==== Sys2Proof/Config.lean ====
section
/-! DEFINITION. What the spec leaves open for each part or each moment: constants with no body, so that nothing can be
proved of their values. The first argument of the functions that say so is `State.fresh`, a counter that every step
advances. -/

namespace Sys2Proof.Config

/-- The fault address of a trap whose cause lays down none (log entry 10). -/
opaque freeAddress : Nat → BitVec 64

/-- The logical name and the faulting strand in the frame of a halt or a pre-emption, which has no faulting lane (log
entry 10). -/
opaque freeName : Nat → BitVec 64
opaque freeStrand : Nat → BitVec 4

/-- The fault lane mask of a trap for which the spec names no lanes (log entry 10). -/
opaque freeLanes : Nat → BitVec 64

/-- A byte of a context save area whose layout the spec leaves to the part (log entry 10). Arguments: moment, offset. -/
opaque freeSaved : Nat → Nat → BitVec 8

/-- Whether a fetch takes a parcel's new value, where the code has changed since acceptance (02 R45). Arguments: moment,
parcel. -/
opaque fetchesNew : Nat → Nat → Bool

/-- Whether a register outside the live mask keeps its value over a stop at a safe point; else it reads 0 (02 R54).
Arguments: moment, register (sn is 64 + n). -/
opaque keepsDead : Nat → Nat → Bool

/-- The slice, of 48, that the front end chooses for a node's trough (13 R353). Arguments: moment, node. -/
opaque freeSlice : Nat → Nat → Nat

/-- Whether the host returns data with a line that is back-invalidated, and its bytes (12 R332). Arguments: moment, line; and the
byte's place. -/
opaque hostReturns : Nat → Nat → Bool
opaque hostByte : Nat → Nat → Nat → BitVec 8

/-- What the path changes in a byte of a copy's line (09 R266). Arguments: moment, line, place. -/
opaque noise : Nat → Nat → Nat → BitVec 8

/-- The hash by which a request takes one of a route's ports, of a device and a line, and the head of a message, of its fields
(17 R443, R445; log entry 66). -/
opaque portHash : Nat → Nat → Nat
opaque messageHead : List Nat → List (BitVec 8)

/-- The L2 slice, of 192, that is a line's home (00 R4; log entry 65). -/
opaque homeSlice : Nat → Nat

/-- How the home takes the two half steps of a pair atomic: 0 together, 1 the low one first, else the high one (11 R316).
Arguments: moment, operation. -/
opaque halvesApart : Nat → Nat → Nat

/-- Which of the values that R239 allows a synchronous tile instruction reads in an element, and among how many of the
outstanding operations its write falls (R240; past their number: it is lost). Arguments: moment, element 64 r + c. -/
opaque tileSees : Nat → Nat → Nat
opaque tilePlace : Nat → Nat → Nat
/-- Whether the engine reads a word's newly written value (08 R241). Arguments: operation, element for which it is read, word of
A (even) or W (odd). -/
opaque engineReads : Nat → Nat → Nat → Bool

/-- The bytes of the part's fused identity: its identifier and its private seed, which no state holds (18 R459); and of the
randomiser of a signature, by leaf and place. -/
opaque identityName : Nat → BitVec 8
opaque identitySeed : Nat → BitVec 8
opaque randomiser : Nat → Nat → BitVec 8

end Sys2Proof.Config
end

