-- ==== Sys2Proof/Machine/Blocks.lean ====
section
/-! DEFINITION. Line tags, quantised blocks, rotation and the matrix engine's sums (spec/03_numbers.md R103 to R117;
spec/08_matrix.md R232, R235, R236). -/

namespace Sys2Proof.Machine

/-! ## Tags (R103 to R108) -/

/-- A 16-bit line tag. -/
abbrev Tag := BitVec 16
def Tag.code (t : Tag) : Nat := (t >>> 8).toNat
def Tag.scale (t : Tag) : Nat := t.toNat % 256
def Tag.mk (code scale : Nat) : Tag := BitVec.ofNat 16 (code * 256 + scale)
def Tag.rotated (t : Tag) : Bool := t.getLsbD 15
/-- The tag code without its rotation bit. -/
def Tag.base (t : Tag) : Nat := t.code % 128

/-- The tag code a format requires, unrotated (08 R232). -/
def fmtTagCode (fmt : Nat) : Nat := if fmt = 8 then 0x10 else if fmt = 9 then 0x11 else if fmt ≥ 10 then 0x20 else 0x00

/-- The TAG subcode a consumed tag raises for the format named, if any (R105). -/
def tagFault (fmt : Nat) (t : Tag) : Option Nat :=
  if !([0x00, 0x10, 0x11, 0x20, 0x90, 0x91, 0xA0].contains t.code) then some 0
  else if (t.base = 0x10 ∨ t.base = 0x11) ∧ t.scale = 255 then some 1
  else if t.base != fmtTagCode fmt || (decide (fmt ≥ 10) && t.scale / 64 != fmt - 10) then some 2
  else none

/-- The exponent of the block scale (R106, R107); plain lines have scale 1. -/
def Tag.scaleExp (t : Tag) : Int :=
  if t.base = 0x10 ∨ t.base = 0x11 then (t.scale : Int) - 127
  else if t.base = 0x20 then ((t.scale % 64 : Nat) : Int) - 32
  else 0

/-- Magnitudes of the four-bit formats in units of 2^-6 (R108). -/
def q4Grid (fmt : Nat) : List Nat :=
  match fmt with
  | 11 => [0, 32, 64, 96, 128, 192, 256, 384]
  | 12 => [0, 1, 2, 4, 8, 16, 32, 64]
  | _ => [0, 16, 32, 48, 64, 128, 256, 512]

/-- Bits of one element of each format code (08 R232). -/
def fmtBits (fmt : Nat) : Nat :=
  if fmt = 0 then 32 else if fmt < 3 then 16 else if fmt < 10 then 8 else 4

/-- The unscaled value of an element's bits (R85, R86, R106, R108). -/
def elemVal (fmt : Nat) (b : Nat) : Val :=
  match fmt with
  | 0 => fp32.unpack b
  | 1 => fp16.unpack b
  | 2 => bf16.unpack b
  | 3 | 9 => e4m3.unpack b
  | 4 => e5m2.unpack b
  | 5 => e3m2.unpack (b % 64)
  | 6 => e2m3.unpack (b % 64)
  | 7 | 8 => let i := (BitVec.ofNat 8 b).toInt; .fin (decide (i < 0)) i.natAbs 0
  | 10 => let i := (BitVec.ofNat 4 b).toInt; .fin (decide (i < 0)) i.natAbs 0
  | f => if b = 8 then .fin false 0 0 else .fin (decide (b ≥ 8)) ((q4Grid f)[b % 8]?.getD 0) (-6)

/-- Bytes as a little-endian number (R9). -/
def leNat : List Byte → Nat
  | [] => 0
  | b :: bs => b.toNat + 256 * leNat bs
/-- n bytes from a place of a list, as a number. -/
def sliceNat (bs : List Byte) (off n : Nat) : Nat := leNat ((bs.drop off).take n)
/-- The n low bytes of a number, little-endian. -/
def leBytes : Nat → Nat → List Byte
  | 0, _ => []
  | n + 1, v => BitVec.ofNat 8 v :: leBytes n (v / 256)

/-- The raw bits of the elements that a byte string holds, ascending (R87, R107). -/
def elemsOf (fmt : Nat) (bs : List Byte) : List Nat :=
  match fmtBits fmt with
  | 32 => four bs
  | 16 => two bs
  | 8 => bs.map (·.toNat)
  | _ => bs.flatMap fun b => [b.toNat % 16, b.toNat / 16]
where
  four : List Byte → List Nat
    | a :: b :: c :: d :: r => leNat [a, b, c, d] :: four r
    | _ => []
  two : List Byte → List Nat
    | a :: b :: r => leNat [a, b] :: two r
    | _ => []

/-- The bytes of elements' raw bits. -/
def bytesOfElems (fmt : Nat) (es : List Nat) : List Byte :=
  match fmtBits fmt with
  | 32 => es.flatMap (leBytes 4)
  | 16 => es.flatMap (leBytes 2)
  | 8 => es.map (BitVec.ofNat 8)
  | _ => nib es
where
  nib : List Nat → List Byte
    | a :: b :: r => BitVec.ofNat 8 (a + 16 * b) :: nib r
    | _ => []

/-- A value times 2^k. -/
def Val.scaleBy (k : Int) : Val → Val
  | .fin n m e => .fin n m (e + k)
  | v => v

/-! ## Sums with special values (R111, R115, R116) -/

/-- A sum of signed terms: special once a NaN or an infinity has come in. -/
inductive Sum
  | nan
  | inf (neg : Bool)
  | fin (d : Dy)
  deriving DecidableEq, Repr

def Sum.add (s : Sum) (v : Val) : Sum :=
  match s, v with
  | .nan, _ => .nan
  | _, .nan _ => .nan
  | .inf n, .inf k => if n = k then .inf n else .nan
  | .inf n, .fin .. => .inf n
  | .fin _, .inf k => .inf k
  | .fin d, v => .fin (d.add v.dy)

/-- The product of two elements as a term: infinity times zero is a NaN (R116). -/
def termMul (a b : Val) : Val :=
  match a, b with
  | .nan _, _ => .nan false
  | _, .nan _ => .nan false
  | .inf n, b => if b.isZero then .nan false else .inf (n != b.neg)
  | a, .inf k => if a.isZero then .nan false else .inf (a.neg != k)
  | .fin n m e, .fin k l f => .fin (n != k) (m * l) (e + f)

def Sum.exact (k : Int) : Sum → Exact
  | .nan => .nan false
  | .inf n => .inf n false
  | .fin d => .ofDy { d with e := d.e + k } false

/-- RoundF32 with .rn, subnormals kept, no flags. -/
def rn32 (x : Exact) : Nat := (fp32.result .rn 0 false x).1
/-- FP32 addition, multiplication and min or max as the engine does them. -/
def add32 (a b : Nat) : Nat := rn32 ((fp32.unpack a).add .rn (fp32.unpack b))
def mul32 (a b : Nat) : Nat := rn32 ((fp32.unpack a).mul (fp32.unpack b))

/-- One group of an FP32 accumulation (R115): the exact sum of the products, scaled, rounded, then added. -/
def mmaGroup (scale : Int) (as bs : List Val) (acc : Nat) : Nat :=
  let t := (List.zipWith termMul as bs).foldl Sum.add (.fin Dy.zero)
  add32 acc (rn32 (t.exact scale))

/-- One element's integer accumulation (R117): a sum of exact products modulo 2^32. -/
def mmaInt (as bs : List Val) (acc : Nat) : Nat :=
  let t := (List.zipWith (fun a b => a.dy.m * b.dy.m) as bs).foldl (· + ·) (0 : Int)
  ((acc : Int) + t).emod (2 ^ 32) |>.toNat

/-- Elements in one group of each format (R115). -/
def fmtGroup (fmt : Nat) : Nat := if fmt = 0 then 8 else if fmt < 3 then 32 else if fmt < 10 then 64 else 128

/-- The values that one accumulator element takes over the K of an MMA, one after each group: the row's and the column's
elements, each with the scale of the block it stands in, cut in groups of g, ascending. -/
def mmaSteps (int : Bool) (g : Nat) : Nat → List (Val × Int) → List (Val × Int) → Nat → List Nat
  | 0, _, _, _ => []
  | fuel + 1, as, bs, acc =>
    match as, bs with
    | (_, sa) :: _, (_, sb) :: _ =>
      let xs := (as.take g).map (·.1)
      let ys := (bs.take g).map (·.1)
      let acc := if int then mmaInt xs ys acc else mmaGroup (sa + sb) xs ys acc
      acc :: mmaSteps int g fuel (as.drop g) (bs.drop g) acc
    | _, _ => []

/-! ## Quantisation (R109, R110) -/

/-- What quantisation needs of a block format: largest element magnitude in units of 2^-6, exponent bias and range. -/
def quantMax (fmt : Nat) : Nat :=
  match fmt with
  | 8 => 127 * 64
  | 9 => 448 * 64
  | 10 => 7 * 64
  | 11 => 6 * 64
  | 12 => 64
  | _ => 8 * 64
def quantBias (fmt : Nat) : Nat := if fmt < 10 then 127 else 32
def quantTop (fmt : Nat) : Nat := if fmt < 10 then 254 else 63

/-- The larger magnitude, NaNs ignored; none is infinitely large. -/
def maxMag (acc : Option Dy) (v : Val) : Option Dy :=
  match acc, v with
  | none, _ => none
  | some a, .nan _ => some a
  | some _, .inf _ => none
  | some a, .fin _ m e => let d : Dy := { m, e }; if a.lt d then some d else some a

/-- The scale exponent field of a block (R109). -/
def quantExp (fmt : Nat) (vs : List Val) : Nat :=
  match vs.foldl maxMag (some Dy.zero) with
  | none => quantTop fmt
  | some a =>
    if a.m = 0 then quantBias fmt
    else ((List.range (quantTop fmt)).find? fun (e : Nat) =>
      !(Dy.lt { m := quantMax fmt, e := (e : Int) - quantBias fmt - 6 } a)).getD (quantTop fmt)

/-- A magnitude (m * 2^e) rounded to the index of an uneven grid given in units of 2^-6, saturating (R110). -/
def gridRound (grid : List Nat) (rm : Rm) (neg : Bool) (u : Nat) (m : Nat) (e : Int) : Nat :=
  let at_ (i : Nat) : Nat := grid[i]?.getD 0
  let v : Dy := { m, e := e + 6 }
  let i := ((List.range 8).filter fun i => !(v.lt { m := at_ i, e := 0 })).length - 1
  if i ≥ 7 then 7
  else
    let num := v.add { m := -(at_ i : Int), e := 0 }          -- |v| - |a|
    let den : Int := (at_ (i + 1) : Int) - at_ i
    let scaled (k : Int) : Dy := { num with m := num.m * k }
    let inex := num.m != 0
    let up := match rm with
      | .rn => (Dy.lt { m := den, e := 0 } (scaled 2)) || (!((scaled 2).lt { m := den, e := 0 }) && i % 2 == 1)
      | .rz => false
      | .rd => neg && inex
      | .ru => !neg && inex
      | .rs => Dy.lt { m := u * den, e := 0 } (scaled (2 ^ 32))
    if up then i + 1 else i

/-- One value divided by the scale 2^k and rounded to a code (R109). -/
def quantCode (fmt : Nat) (rm : Rm) (u : Nat) (k : Int) (v : Val) : Nat :=
  let s := v.scaleBy (-k)
  match fmt with
  | 8 => ((s.toInt rm u (-127) 127).1.emod 256).toNat
  | 9 => (e4m3.result rm u false (.ofVal s)).1
  | 10 => ((s.toInt rm u (-7) 7).1.emod 16).toNat
  | f =>
    let signed (n : Bool) (i : Nat) : Nat := if i = 0 then 0 else if n then 8 + i else i
    match s with
    | .nan _ => 0
    | .inf n => signed n 7
    | .fin n m e => signed n (gridRound (q4Grid f) rm n u m e)

/-- Codes of a block, the generator stepping once for each element under .rs (R110). -/
def quantCodes (fmt : Nat) (rm : Rm) (k : Int) (x : DWord) : List Val → List Nat × DWord
  | [] => ([], x)
  | v :: vs =>
    let x' := if rm = .rs then rngStep x else x
    let (cs, y) := quantCodes fmt rm k x' vs
    (quantCode fmt rm (rngDraw x') k v :: cs, y)

/-- A quantised block: its bytes, its unrotated tag and the generator after it. -/
def quantBlock (fmt : Nat) (rm : Rm) (x : DWord) (vs : List Val) : List Byte × Tag × DWord :=
  let e := quantExp fmt vs
  let (cs, y) := quantCodes fmt rm ((e : Int) - quantBias fmt) x vs
  (bytesOfElems fmt cs, Tag.mk (fmtTagCode fmt) (if fmt < 10 then e else (fmt - 10) * 64 + e), y)

/-- The plain floating-point formats by code (08 R232). -/
def fmtOf (fmt : Nat) : Fmt :=
  match fmt with
  | 0 => fp32
  | 1 => fp16
  | 2 => bf16
  | 3 => e4m3
  | 4 => e5m2
  | 5 => e3m2
  | _ => e2m3

/-- One value converted to a plain format, INT8 saturating (R102). -/
def convElem (fmt : Nat) (rm : Rm) (u : Nat) (v : Val) : Nat :=
  if fmt = 7 then ((v.toInt rm u (-128) 127).1.emod 256).toNat
  else ((fmtOf fmt).result rm u false (.ofVal v)).1

/-- Plain conversion of a list of values to a format, the generator stepping under .rs. -/
def convList (fmt : Nat) (rm : Rm) (x : DWord) : List Val → List Nat × DWord
  | [] => ([], x)
  | v :: vs =>
    let x' := if rm = .rs then rngStep x else x
    let (cs, y) := convList fmt rm x' vs
    (convElem fmt rm (rngDraw x') v :: cs, y)

/-! ## Rotation (R111 to R113) -/

/-- The sign bits of block kb (R112). -/
def rotSigns (seed : DWord) (kb : Int) (n : Nat) : List Bool :=
  let x1 := rngStep (seed ^^^ BitVec.ofInt 64 (kb * 0x9E3779B97F4A7C15))
  let x2 := rngStep x1
  (List.range n).map fun i => if i < 64 then x1.getLsbD i else x2.getLsbD (i - 64)

/-- Parity of the bits that i and j share. -/
def parity : Nat → Nat → Bool
  | 0, _ => false
  | fuel + 1, v => (v % 2 == 1) != parity fuel (v / 2)

/-- A sum divided by the root of n, n 64 or 128, as an FP32 (R111). -/
def overRoot (n : Nat) (s : Sum) : Nat :=
  match s with
  | .fin d =>
    if n = 64 then rn32 (s.exact (-3))
    else if d.m = 0 then 0
    else rn32 (.real (decide (d.m < 0)) (.root (d.m.natAbs * d.m.natAbs) (2 * d.e - 7)))
  | s => rn32 (s.exact 0)

/-- Row i of the Walsh-Hadamard product over signed values. -/
def hadamard (n i : Nat) (vs : List Val) : Nat :=
  overRoot n (((List.range n).zip vs).foldl
    (fun s (j, v) => s.add (if parity 7 (i &&& j) then v.negate else v)) (.fin Dy.zero))

def signed (bs : List Bool) (vs : List Val) : List Val := List.zipWith (fun b v => if b then v.negate else v) bs vs

/-- y = H D x, each element rounded once to FP32 (R111). -/
def rotateBlock (seed : DWord) (kb : Int) (vs : List Val) : List Nat :=
  let n := vs.length
  let xs := signed (rotSigns seed kb n) vs
  (List.range n).map fun i => hadamard n i xs

/-- x = D H y (R113). -/
def derotateBlock (seed : DWord) (kb : Int) (vs : List Val) : List Nat :=
  let n := vs.length
  List.zipWith (fun b y => if b && !(fp32.unpack y).isNaN && y != 0 then (y + 2 ^ 31) % 2 ^ 32 else y)
    (rotSigns seed kb n) ((List.range n).map fun i => hadamard n i vs)

end Sys2Proof.Machine
end

