-- ==== Sys2Proof/Machine/State.lean ====
section
/-! DEFINITION. The state of one HN-7 part as plain data. Each structure names the rules of spec/ that give its
fields. A warp, gang, launch or operation is known by a number handed out once (`uid`, `id`). Cores, yards and
dies are known by their physical numbers (00 R4). -/

namespace Sys2Proof.Machine

/-! ## Strands and warps (01, 04, 05) -/

/-- A strand of a warp; number 16 is its trap kernel's strand. -/
structure StrandRef where
  warp : Nat
  no : Nat
  deriving DecidableEq, Repr

/-- The tile a strand has bound (08 R230): the frame's place in its warp's allotment on the strand's cluster, and
whether the type is INT32. -/
structure TileBind where
  frame : Nat
  int : Bool
  deriving DecidableEq, Repr

/-- Where a translated access goes (10 R276). -/
inductive Target
  | mem (pa : Nat)
  | tagWindow (off : Nat)
  | peer (device : Nat) (pa : Nat)
  | host (pa : Nat)
  deriving DecidableEq, Repr

/-- What a strand that is not ready waits for (04 R126). The instruction issues again when the wait may have ended. -/
inductive Wait
  | readReg (n : Nat)                  -- a general register to become full (05 R159)
  | publish (n : Nat)                  -- a PUT for its readers' copies to empty (05 R159)
  | publishUniform (n : Nat)           -- a PUTS for its readers to have read (05 R161)
  | engineQueue (q : EngineQueue)      -- an engine queue entry (04 R137)
  | counterMax                         -- a counter at its maximum (04 R134)
  | counters (ld st cp mx : Nat)       -- WAITC, or the counters an instruction needs low (04 R150, 07 R220, 15 R411)
  | tryUntil (deadline : Nat)          -- TRYWAIT until this cycle (04 R151)
  | rackAcquire (rack : Nat)           -- 07 R219
  | rackAwait (rack : Nat)             -- 07 R219
  | rendezvous (pt phase : Nat)        -- 11 R320
  | records                            -- EMITA (13 R368)
  | released (scope : Nat)             -- REL, FENCE, FLUSH and what acts as a release (11 R301)
  | acquired (scope : Nat)             -- ACQ, FENCE and what acts as an acquire (11 R301)
  | value (op : Nat)                   -- a value that CALL, RET or FILL needs (04 R142; 05 R174)
  | values (op slot : Nat) (old : List (List Word))   -- the values of a word ACQ (11 R301); its slots before them
  | held (seq : Nat)                   -- a translation held for replay (10 R285)
  | ringFull                           -- the replay ring has no free place (10 R286)
  | trace                              -- crumbs to be accepted (16 R431)
  | line                               -- a line that its home refuses or holds back for now (12 R333)
  -- FLUSH, INV: lines not walked yet, whose first its home holds, of all from an address on (11 R311)
  | walk (held : Bool) (left all : List Target) (base : Nat)
  deriving DecidableEq, Repr

/-- One entry of a strand's counters: the operation and whether it has completed. A counter is the length of its
list, and falls as its oldest entries complete (04 R133, R134). -/
structure Counted where
  op : Nat
  done : Bool
  deriving DecidableEq, Repr

/-- The latest arrival of a strand at a rendezvous point since its RVINIT (11 R319). -/
structure Arrival where
  pt : Nat
  phase : Nat
  deriving DecidableEq, Repr

/-- A trap as it is recorded when it stops its warp (15 R397 to R401). -/
structure TrapRec where
  strand : Nat
  cause : Nat
  sub : Nat
  addr : DWord
  lanes : Mask
  value : DWord                      -- instruction value (02 R70)
  remote : Bool
  name : DWord                       -- logical thread name at 0x020
  issued : Bool := true              -- the strand's instruction has issued: no trap in place of it, and none while it waits
  deriving DecidableEq, Repr

/-- A fault of a copy, load or host atomic that waits to be raised on its strand (09 R273, 10 R293, 11 R318). -/
structure HeldFault where
  op : Nat
  cause : Nat
  sub : Nat
  addr : DWord
  lanes : Mask
  remote : Bool
  value : DWord
  deriving DecidableEq, Repr

/-- A team's allocation in W or A: its length, the bytes and line tags that are not 0 (07 R205, R207), and its poisoned
lines, ascending (15 R421). -/
structure Buffer where
  limit : Nat
  bytes : Table Nat
  tags : Table Nat
  poison : List Nat
  deriving DecidableEq, Repr

/-- What stands in the sequence of an outstanding engine operation and the tile writes made meanwhile (08 R239 to R241): an
operation not performed yet; an MMA performed, with its operands' buffers as they were at its issue and as it found them; a
TLD, with the elements it loaded; one that changes no element; elements that a synchronous instruction wrote. -/
inductive EngineAct
  | todo (op : Nat)
  | mma (op : Nat) (f : MmaF) (rows tags atags : List (Nat × Nat)) (a w a' w' : Buffer)
  | load (op : Nat) (words : List (Nat × Nat))
  | still (op : Nat)
  | set (words : List (Nat × Nat))
  deriving DecidableEq, Repr

/-- The state of one strand. -/
structure Strand where
  no : Nat                           -- accumulator number N, 0 to 15 (01 R17)
  entry : Nat                        -- its extent in the code: first parcel and length (02 R44, R73)
  length : Nat
  slots : List (Lanes Word)          -- x, y, z, w (00 R14)
  lpc : Lanes Word                   -- lane program counters (04 R130)
  preds : Lanes (BitVec 8)           -- predicate registers (04 R132)
  exited : Mask                      -- 01 R18
  calls : Lanes Nat                  -- call depths 0 to 16 (04 R142)
  ix : BitVec 6                      -- 05 R166
  mode : BitVec 3                    -- %rmode[2:0] (03 R94)
  ftz : Bool                         -- %rmode[3]
  fpflags : BitVec 5                 -- 03 R99
  excmask : BitVec 5                 -- 03 R99
  rseed : DWord                      -- 03 R96
  rerr : Word                        -- 11 R309
  rerrAddr : DWord                   -- with the first failure: its address and its logical thread name (11 R309)
  rerrName : DWord
  bind : Option TileBind             -- 08 R230
  ld : List Counted                  -- 04 R133
  st : List Counted
  cp : List Counted
  mx : List Counted
  tileBase : Table Nat               -- its tile as the earliest outstanding engine operation found it at issue (08 R239)
  acts : List EngineAct              -- those operations and the tile writes among them, in order; [] where none is outstanding
  arrivals : List Arrival            -- 11 R319
  wait : Option Wait                 -- 04 R126
  waitSince : Nat                    -- cycle at which the wait began
  lastIssue : Nat                    -- cycle of its last issue, or of its placement (04 R127)
  debt : Nat                         -- cycles charged by an experiment (16 R437)
  faults : List HeldFault            -- oldest operation first
  skipWatch : Bool                   -- the next access does not raise WATCH (16 R435)
  cancelled : Option TrapRec         -- the trap of its held access, which was answered with cancel (10 R285)
  em : Option Bool                   -- its EMITC or EVSET has taken an EM queue entry, and whether it still holds it (04 R136)
  arrivedAt : Option Word            -- the address of an RVAW that has arrived and waits (11 R320)
  deriving DecidableEq, Repr

/-- Whether a warp's strands may issue (04 R126; 15 R397, R403, R412, R415). -/
inductive WarpMode
  | running
  | stopping (t : TrapRec)           -- trapped; the frame is written once LD and ST are 0 (15 R399)
  | handler                          -- the trap kernel runs in its place (15 R403)
  | halted (nested : Bool)           -- stopped for a debugger (15 R412, R414)
  | preempted                        -- stopped for pre-emption
  | ending                           -- its gang ends: its frame is formed once LD and ST are 0 (15 R408)
  | terminated                       -- stopped for good, its frame formed
  | retired                          -- 01 R20
  deriving DecidableEq, Repr

/-- A warp of a placed gang. -/
structure Warp where
  uid : Nat
  gang : Nat
  team : Nat                         -- 01 R21
  num : Nat                          -- warp in team
  core : Nat                         -- physical core; while saved, the last one (01 R32, R33)
  slot : Nat                         -- warp slot on the core, 0 to 31 (01 R16)
  launched : Mask                    -- lanes that are not never-launched (01 R18)
  free : Lanes Nat                   -- free value F of each lane (01 R24)
  record : Lanes DWord               -- %record of each lane (01 R38)
  depth : Lanes Nat                  -- %depth of each lane (01 R38)
  strands : List Strand              -- ascending accumulator number (02 R73)
  kernel : Option Strand             -- the trap kernel's strand while it runs (15 R403)
  gregs : List (Lanes Word)          -- g0 to g63; all copies of a register always agree (05 R159)
  full : List (BitVec 16)            -- presence bits Full[n][r] (05 R159)
  sregs : List Word                  -- s0 to s31 (05 R161)
  seen : List (BitVec 16)            -- Seen[n][r] (05 R161)
  tiles : List (Nat × Table Nat)     -- frames of the K buffer: cluster, and elements 64 r + c that are not 0 (08 R228, R229)
  tilePoison : List (Nat × Nat)      -- poisoned lines of its frames: the frame's place in tiles, and 4 r + c / 16 (15 R420)
  blocks : List (Nat × Nat)          -- for each cluster its block's first granule and granules (05 R155)
  frames : List Nat                  -- for each cluster the first of its tile frames, 0 or 1 (08 R229)
  stack : DWord                      -- start of its private memory (10 R288)
  tframe : DWord                     -- %tframe (15 R400)
  formed : List Byte                 -- the frame as the part formed it at the latest stop (15 R399)
  mode : WarpMode
  haltPending : Bool                 -- 15 R411, R412
  preemptPending : Bool              -- 15 R411, R415
  preemptAt : Nat                    -- ns from which the 20 µs of 15 R416 count
  forced : Bool                      -- 15 R416
  traps : Nat                        -- trap nesting: 1 while the kernel runs (15 R403)
  deriving DecidableEq, Repr

/-! ## Buffers and racks (07) -/

/-- Slot states of a rack (07 R219). -/
inductive RackSlot
  | free | held | pending | filled | taken | droppedHeld | droppedPending
  deriving DecidableEq, Repr

/-- A rack (07 R218); owners hold the warp in team and the strand. -/
structure Rack where
  init : Bool
  base : BitVec 13
  size : BitVec 10
  count : BitVec 4
  pcur : Nat
  ccur : Nat
  ahead : Nat
  pseq : BitVec 16
  cseq : BitVec 16
  slots : List (RackSlot × BitVec 8)
  deriving DecidableEq, Repr

/-- A rendezvous point (11 R319). -/
structure Point where
  init : Bool
  expected : Nat
  pending : Nat
  phase : BitVec 16
  deriving DecidableEq, Repr

/-- A team of a gang (01 R15, 07 R207, R217, 11 R319). -/
structure Team where
  vcore : Nat
  w : Buffer
  a : Buffer
  racks : List Rack
  points : List Point
  deriving DecidableEq, Repr

/-! ## Memory, translation and coherence (10 to 12) -/

/-- Local memory: bytes, line tags that are not 0, and poisoned lines, ascending (03 R119 to R121; 15 R420). A line's
bytes are its coherent value, wherever in the part the line's latest copy stands. -/
structure Memory where
  cells : List Host.Cell
  tags : Table Nat
  poison : List Nat
  deriving DecidableEq, Repr

/-- A cached translation (10 R282): the page, its size as a power of two, the leaf, and the window check's result: 0
passes, 1 fails writes, 2 fails. -/
structure TlbEntry where
  tenant : Nat
  page : Nat
  bits : Nat
  leaf : DWord
  window : Nat
  deriving DecidableEq, Repr

/-- When a lease ends (12 R327, R339). -/
inductive Expiry
  | at (ns : Nat)
  | never
  deriving DecidableEq, Repr

/-- A RED's operand gathered for a word of a line (12 R340). -/
structure Partial where
  off : Nat                          -- byte of the word in the line
  op : Nat
  ty : Nat
  lo : Bool                          -- halves named so far, for pair types (12 R340)
  hi : Bool
  value : DWord
  deriving DecidableEq, Repr
/-- What a core's L1 holds of a line (12 R327, R332): a lease, a push copy with the data of the latest push, ownership, a
pin by a strand with the cycle it was granted and the strands that have since stored to the line or loaded from it
(11 R301), or update-only partials. -/
inductive CopyKind
  | lease (until_ : Expiry)
  | push (bytes : List Byte)
  | own
  | pin (holder : StrandRef) (since : Nat) (stored loaded : List StrandRef)
  | update (ps : List Partial)
  deriving DecidableEq, Repr
structure L1Copy where
  core : Nat
  line : Nat
  kind : CopyKind
  stream : Bool := false             -- brought by a streaming access: first to be evicted (10 R294)
  deriving DecidableEq, Repr

/-- A leased line of a peer, or of a host window held through CXL.cache, in a core's L1: its place, the expiry that its home
recorded, and its bytes (12 R352; 17 R442). -/
structure FarCopy where
  core : Nat
  place : Target
  until_ : Nat
  bytes : List Byte
  stream : Bool := false             -- first to be evicted (10 R294)
  deriving DecidableEq, Repr

/-- The sixteen home events by number (12 R331), and who asks. -/
structure HomeEvent where
  ev : Nat
  core : Option Nat                  -- requesting core; none for peers, the host and the part's own units
  op : Nat                           -- the operation or pending store it belongs to
  since : Nat                        -- ns at which it was held
  req : Option PeerRequest           -- a peer's or the host's request
  due : Nat := 0                     -- ns at which its time is up while it is held (12 R331)
  deriving DecidableEq, Repr

/-- What the home of a line has answered to a reading event, or a walk's, that it held, for the operation, strand or unit whose event
it was: the ecode of its failure, or the line as it was then, with its tag and mark (12 R333). -/
structure LineAnswer where
  line : Nat
  core : Option Nat
  ev : Nat
  op : Nat
  since : Nat                        -- ns at which it was given
  error : Option Nat
  bytes : List Byte
  tag : BitVec 16
  poison : Bool
  deriving DecidableEq, Repr

/-- The home slice's record of a line that is not at rest (12 R327, R333). -/
structure HomeLine where
  state : Nat
  horizon : Option Expiry
  held : List HomeEvent              -- oldest first
  owner : Option Nat
  writers : List Nat                 -- HALO writer set (12 R344)
  hostCopy : Bool                    -- 12 R345
  partials : List (Nat × Partial)    -- returned partials by core (12 R340)
  deriving DecidableEq, Repr

/-- Who writes: a strand's store, a copy, or a unit of the part, which answers a failure at the home in its own way (15
R399; 16 R429; 10 R286; 14 R384: a packet's word or data, or a queue's control block); others drop it. -/
inductive Writer
  | strand
  | copy
  | frame (warp : Nat)
  | crumb (tenant : Nat)
  | packet (id : Nat)
  | replay (tenant seq : Nat)
  | block (tenant queue : Nat)
  | unit
  deriving DecidableEq, Repr

/-- A write within one line that its core sees but its home has not performed (11 R297): its bytes, and for a whole line of
a copy the tag and mark it takes. -/
structure Pending where
  id : Nat
  op : Nat                           -- its operation, or its unit's job
  writer : Writer
  rel : Bool                         -- a releasing store (11 R307)
  window : Bool                      -- it writes the tag window, and pa is its offset there
  stream : Bool := false             -- a streaming store's (10 R294)
  tag : Option (BitVec 16)
  poison : Bool
  value : DWord                      -- instruction value, virtual address and lanes, for a fault (12 R335)
  va : DWord
  lanes : Mask
  core : Nat                         -- 336 for a unit of the part
  owner : StrandRef
  pa : Nat
  bytes : List Byte
  deriving DecidableEq, Repr

/-! ## Operations in flight -/

/-- One lane's part of a memory operation: lane, virtual address, place, and the bytes to write or to read. -/
structure LaneAccess where
  lane : Nat
  va : DWord
  target : Target
  data : List Byte
  -- what came back for it from outside the part; of a store, that a younger load has read it
  back : Option (List Byte) := none
  deriving DecidableEq, Repr

/-- Which slots a loaded value goes to: the first, how many, and whether it is sign-extended. -/
structure Dest where
  slot : Nat
  count : Nat
  signed : Bool
  deriving DecidableEq, Repr

/-- A line that a copy has read and is to write (09 R265, R266): its number among the destination's addresses or offsets, its
bytes in runs, its lowest row's lane, the tag of a line written whole, its mark, and the CRC over what was read. -/
structure CopyLine where
  line : Nat
  runs : List (Nat × List Byte)
  lanes : Mask
  tag : Option (BitVec 16)
  poison : Bool
  crc : Word
  deriving DecidableEq, Repr

/-- A parameter block of a copy, fixed at issue (09 R252). -/
structure CopyJob where
  f : CopyF
  kind : Nat                         -- 0 CPYL, 1 CPYT, 2 CPYW, 3 CPYG, 4 CPYS, 5 CPYX, 6 CPYQ
  leader : Nat
  regs : List Word                   -- the leader lane's x, y, z, w
  base : DWord                       -- S pair sb
  word : DWord                       -- S pair cb
  rows : List (Nat × Word)           -- CPYG, CPYS: lane and index; CPYW: the window word
  wordPa : Nat                       -- the completion word's address in local memory, once it is asked for there
  slotNo : Nat                       -- rack slot, with rk = 1
  rm : Nat                           -- resolved rounding code
  seed : DWord                       -- private generator state (09 R264)
  record : Option (List Byte)        -- the layout record once it has been read (09 R257): 64 bytes, then its mark
  asked : List (Nat × Target)        -- lines outside the part that it has asked for, by line number of their addresses
  got : List (Nat × List Byte)       -- lines that came back: 64 bytes, the line's tag, low byte first, and its mark
  left : List CopyLine               -- lines of the destination not written or sent yet
  noise : List Nat                   -- lines of the destination that the path will corrupt (09 R266)
  phase : Nat                        -- 0 starting, 1 reading, 2 landing, 3 at its word, 4 that word sent out, 5 performed here (09 R267)
  deriving DecidableEq, Repr

/-- What an operation does when it completes. -/
inductive OpBody
  | load (size : Nat) (dest : Dest) (scope : Nat) (lanes : List LaneAccess)
  | store (size : Nat) (scope : Nat) (rel : Bool) (lanes : List LaneAccess)
  | fill (slot fmt : Nat) (exec : Mask) (lanes : List LaneAccess)
  | head (lanes : List LaneAccess)
  | bufLoad (team : Nat) (wbuf peer : Bool) (size : Nat) (slot : Nat) (lanes : List (Nat × Nat)) (past : Option (List Team) := none)
  | bufStore (team : Nat) (lanes : List (Nat × List Byte))
  | atomic (f : AtomF) (returns : Bool) (lanes : List (LaneAccess × DWord × DWord))
  | mma (f : MmaF) (rows tags atags : List (Nat × Nat)) (a w : Buffer)   -- with A and W as they were at issue (08 R241)
  | tileLoad (c0 : Nat) (lanes : List LaneAccess)
  | tileStore (c0 : Nat) (size code : Nat) (lanes : List LaneAccess)
  | copy (j : CopyJob)
  | callWrite (addr target : Word) (len : Nat) (here : Mask) (lanes : List LaneAccess)
  | retRead (addr : Word) (len : Nat) (here : Mask) (lanes : List LaneAccess)
  deriving DecidableEq, Repr

/-- How far the bridge has come with a host atomic that PCI Express lacks (11 R318): it reads the word, tries a CAS of the
value it read, having tried so many, or writes where it serialises. The lanes of a swap or a CAS that PCI Express has go one
at a time (17 R438). -/
inductive HostStage
  | each
  | reading (cas : Bool)
  | trying (seen tries : Nat)
  | writing (seen : Nat)
  deriving DecidableEq, Repr
structure HostStep where
  target : Target
  stage : HostStage
  deriving DecidableEq, Repr

/-- An operation that has issued and not yet ended (04 R133). -/
structure Op where
  id : Nat
  owner : StrandRef
  value : DWord                      -- instruction value, for a fault reported later (09 R273)
  exec : Mask
  queued : Option EngineQueue        -- the queue entry it still holds (04 R136)
  cancelled : Option (Nat × DWord × Mask)   -- subcode, address and lanes of a copy's held access answered with cancel (10 R285)
  steps : List HostStep
  body : OpBody
  deriving DecidableEq, Repr

/-- A posted access, or a unit's write, that awaits its acknowledgement (11 R308). -/
structure Posted where
  id : Nat
  writer : Writer
  owner : StrandRef
  lane : Nat
  va : DWord
  target : Target
  deriving DecidableEq, Repr

/-- A request that has left the part and has no answer yet: the operation or the work it belongs to, its place, when it was
sent, and the port it took (17 R445, R449). -/
structure Awaited where
  op : Nat
  target : Target
  since : Nat
  port : Option Nat
  deriving DecidableEq, Repr

/-- A prefetch of a line outside the part (10 R295): the request's number, the core, and the line's place. -/
structure Prefetch where
  id : Nat
  core : Nat
  place : Target
  deriving DecidableEq, Repr

/-- A unit's read of a piece of memory outside the part (14 R382, R383, R386; 17 R449): its request's number; the packet it is made
for, 0 for none; whether it is kept until the whole of an image is read; its tenant, address, place and size; and the answer once
it has come, a code and the bytes. -/
structure UnitRead where
  id : Nat
  packet : Nat
  kept : Bool
  tenant : Nat
  va : Nat
  place : Target
  size : Nat
  back : Option (Nat × List Byte)
  deriving DecidableEq, Repr

/-! ## Launches, gangs and placement (01, 13) -/

/-- A node of a launch's image as read at acceptance (02 R45, R72), with its register table's writers and readers
(02 R74) and its strand table (02 R73). -/
structure NodeEntry where
  warpGrain : Bool
  target : Nat
  maxDepth : Nat
  recordSize : Nat                   -- in 16-byte units
  timer : Nat
  warps : Nat                        -- per team
  teams : Nat                        -- per gang
  strands : List (Nat × Nat × Nat)   -- accumulator, entry offset, length
  cores : List Nat                   -- %vcore of each team
  regs : List (Nat × BitVec 16)      -- writer (255: unused) and readers of g0 to g63, then s0 to s31
  granules : List Nat                -- g granules of each cluster
  tiles : List Nat                   -- tile demand of each cluster
  racks : Nat
  points : Nat
  wGranules : Nat
  aGranules : Nat
  deriving DecidableEq, Repr

/-- A committed record waiting on a die (13 R353): index, address, depth, commit cycle, and for a record in cells the die
whose unit allocated it and whether it is on-chip (13 R360; none for seed records). -/
structure RecordRef where
  index : Nat
  addr : DWord
  depth : Nat
  since : Nat
  cells : Option (Nat × Bool)
  deriving DecidableEq, Repr

/-- A node's trough (13 R353). -/
structure Trough where
  home : Nat                         -- the L2 slice at which its records are committed: 48 of them on each die
  commits : Nat
  groups : Nat
  queues : List (List RecordRef)     -- one for each die, oldest first
  deriving DecidableEq, Repr

/-- A live launch (01 R15, R38; 13 R366). -/
structure Launch where
  uid : Nat
  number : BitVec 16                 -- %launch
  tenant : Nat
  privileged : Bool                  -- 15 R396
  die : Nat                          -- accepting die
  packet : Nat                       -- the packet it completes
  priority : Nat
  timeout : Option Nat               -- ns of global time
  image : DWord
  codeOff : Nat                      -- byte offset of the code from the image (02 R71)
  code : List Parcel                 -- parcels from the code offset, as accepted (02 R45)
  nodes : List NodeEntry
  trap : Option (NodeEntry)          -- the trap kernel's entry: its strand table and register table (02 R71)
  privBytes : Nat
  widths : List Nat                  -- w0 to w5 (01 R21)
  seeds : Nat
  seedNode : Nat
  seedAddr : DWord
  sregs : List Word                  -- the uniform registers of every warp at launch (05 R167)
  counter : Nat                      -- spawn-tree counter C (13 R366)
  troughs : List Trough
  faulted : Bool                     -- a gang was terminated by a fault (14 R387)
  timedOut : Bool                    -- 14 R383
  deriving DecidableEq, Repr

/-- A record allocation made by a gang (13 R362, R370). -/
structure Alloc where
  addr : DWord
  node : Nat
  depth : Nat
  size : Nat                         -- cells
  die : Nat
  onChip : Bool
  committed : Bool
  deriving DecidableEq, Repr

/-- What a gang is doing (01 R31, R33, R34; 15 R408, R415). -/
inductive GangPhase
  | queued (since : Nat) (ns : Nat) (saved : Bool) (eprio : Nat)   -- cycle and ns at which it entered the placement queue,
                                                      -- and its effective priority as last aged (01 R34)
  | placed
  | terminating (kind : Nat) (warp : Nat) (nested : Option TrapRec)
  | recording (job : Nat) (rest : Option (Nat × Nat))   -- its record is on its way; then the address and the sequence number
  | retired
  deriving DecidableEq, Repr

/-- A gang, which is a group from its start (01 R15, R26). -/
structure Gang where
  uid : Nat
  launch : Nat
  node : Nat
  index : Word                       -- group index (01 R26)
  die : Nat                          -- whose placement queue holds it
  records : List RecordRef           -- dealt in ascending index (01 R28)
  phase : GangPhase
  cores : List Nat                   -- physical core of each %vcore while placed
  teams : List Team
  save : DWord                       -- its save area (14 R390)
  allocs : List Alloc
  freed : List DWord                 -- addresses whose allocation was discarded
  compactSince : Nat                 -- cycle from which the fragmentation wait counts (05 R157)
  moved : List Nat                   -- gangs during whose present wait it was moved (05 R157)
  clearing : Option Nat              -- the yard that pre-emption clears for it while it waits (01 R34)
  compact : Bool                     -- being moved: it is restored at once on its cores (05 R157)
  wBase : List Nat                   -- first granule of its range of W on each %vcore (07 R207)
  aBase : List Nat                   -- and of A
  lastSave : Nat                     -- global time of the last save (14 R390)
  deriving DecidableEq, Repr

/-! ## Tenants, queues and packets (14) -/

/-- Queue states (14 R376). -/
inductive QueueState
  | idle | pending | mapped | error | disabled
  deriving DecidableEq, Repr

/-- A queue as the part holds it (14 R376, R377). -/
structure Queue where
  num : Nat
  state : QueueState
  privileged : Bool
  ring : DWord
  log2size : Nat
  base : Nat                         -- base priority
  die : Nat
  vector : Nat
  eprio : Nat
  error : Nat
  rindex : Word
  windex : Word
  ptime : Nat
  mappedAt : Nat                     -- ns at which it was mapped
  disabling : Bool
  resetTo : Option Word              -- a reset doorbell that waits (14 R378)
  deriving DecidableEq, Repr

/-- A replayable fault record that awaits its answer (10 R286): the access's addresses, which are walked again, and the
trap, or the copy's fault, that a cancel raises. -/
structure HeldAccess where
  seq : Nat
  owner : StrandRef
  copy : Nat                         -- the copy held as a whole (10 R286), 0 for a strand's access
  vas : List DWord
  trap : TrapRec
  job : Nat                          -- its record's write
  told : Bool                        -- the interrupt cause has been set, once the record was performed
  deriving DecidableEq, Repr

/-- The XCMD command in progress (14 R374): pages from a virtual address to forget, or a page that moves, with its
frames, its size as a power of two, the address of its leaf entry and the new leaf (10 R283, R287). -/
inductive XCommand
  | invalidate (va pages : Nat)
  | migrate (va old new bits leafAt : Nat) (leaf : DWord)
  deriving DecidableEq, Repr

/-- A tenant's context, virtual function and records (14 R373 to R375; 10 R280, R286; 13 R361; 15 R406; 16 R427). -/
structure Tenant where
  num : Nat
  enabled : Bool
  replay : Bool
  ptroot : DWord
  windows : List (DWord × DWord)     -- TWn.BASE, TWn.LIMIT
  rareaBase : DWord
  rareaSize : DWord
  rpool : DWord
  privBase : DWord
  privSize : DWord
  csaveBase : DWord
  csaveSize : DWord
  qtable : DWord
  xbusy : Option XCommand            -- the XCMD command in progress
  xerr : Bool
  frecBase : DWord
  frecSize : DWord
  frecSeq : Nat
  xleaf : List DWord
  rplqBase : DWord
  rplqSize : DWord
  rplSeq : Nat
  rplHeld : List HeldAccess
  trcBase : DWord
  trcCtl : DWord
  trcSeq : Nat
  trcErr : Bool
  events : BitVec 256
  icause : BitVec 5
  ivmap : BitVec 15
  queues : List Queue
  enabling : Option (Nat × Bool)     -- the enable in progress: a queue, and whether it becomes privileged (14 R377)
  dbgLaunch : BitVec 16              -- DBG [15:0] (15 R412)
  dbg : List Nat                     -- launches halted by a debugger, by uid (15 R412)
  regs : Table Nat                   -- registers of the block that only hold their value
  deriving DecidableEq, Repr

/-- The work of a started packet (14 R383, R384). -/
inductive PacketPhase
  | waiting (met : Bool)             -- read; whether its wait mask has been met (14 R385, R388)
  | started (ns : Nat)
  | polling (ns : Nat) (last : Nat)  -- WAITVAL
  | handed                           -- LAUNCH or INDIRECT with the front end (14 R379)
  | running                          -- a live launch, a COPY, or an array
  | ending (code : Nat)              -- its work has ended
  | writing (job : Nat) (code : Nat) -- its completion word is on its way
  | wordFailed                       -- which could not be written (14 R384)
  deriving DecidableEq, Repr

/-- A packet that a slot has read (14 R382). -/
structure Packet where
  id : Nat
  tenant : Nat
  queue : Nat
  position : Nat                     -- its index in the queue
  parent : Option Nat                -- the INDIRECT packet whose array it stands in
  bytes : List Byte
  phase : PacketPhase
  left : Nat                         -- INDIRECT: packets of the array not yet started
  next : DWord                       -- INDIRECT: address of the next one
  broken : Nat                       -- INDIRECT: 0, or the code its completion takes
  asked : List (Nat × Target)        -- COPY: lines outside the part asked for, as in a CopyJob
  got : List (Nat × List Byte)       -- COPY: lines that came back
  deriving DecidableEq, Repr

/-! ## Dies and front-end processors (14) -/

/-- A front-end processor (14 R392, R393): its general registers x1 to x31, pc, mode, its machine registers as RV64 has them
(PRESUMED, log entry 8), its reservation with the bytes of the reserved line, and what it holds for Xbrod. -/
structure FrontEnd where
  pc : DWord
  regs : List DWord
  machine : Bool
  mstatus : DWord
  mtvec : DWord
  mepc : DWord
  mcause : DWord
  mtval : DWord
  mie : DWord
  mscratch : DWord
  cycleBase : DWord                  -- mcycle less the cycles since reset, at 1.5 GHz (18 R453)
  instret : DWord
  resv : Option (Nat × List Byte)
  xtimer : DWord
  signals : BitVec 4
  waiting : Option XbrodF            -- in SIGWAIT
  ready : Bool                       -- it has an instruction to execute next (the model's own)
  deriving DecidableEq, Repr

/-- An entry of a die's packet buffer (14 R393): the packet it was handed over for (0: QFETCH), its tenant, whether it
comes from a privileged queue, and its 128 bytes. -/
structure BufEntry where
  packet : Nat
  tenant : Nat
  privileged : Bool
  bytes : List Byte
  deriving DecidableEq, Repr

/-- One die (14 R379, R381, R393; 01 R31). -/
structure Die where
  ageper : BitVec 20
  slots : List (Option (Nat × Nat))  -- tenant and queue mapped to each of the 32 slots
  entries : List (Option BufEntry)   -- the packet buffer
  pktq : List Nat                    -- entries handed over, oldest first
  fes : List FrontEnd
  emitting : List (StrandRef × Bool) -- EMITA requests, oldest first, and whether each holds its queue entry (13 R363)
  rulesDue : Bool                    -- the firmware's mapping rules are to be applied (14 R380)
  rulesAt : Nat                      -- ns of their last ageing step
  deriving DecidableEq, Repr

/-! ## Cores (04, 15, 16) and the rest of the part (12, 17, 18) -/

/-- A range entry's four quadwords (12 R323). -/
structure RangeEntry where
  q0 : DWord
  q1 : DWord
  q2 : DWord
  q3 : DWord
  deriving DecidableEq, Repr

/-- The control registers of a core and its TLB (04 R138; 15 R419; 16 R432, R436; 10 R282). -/
structure Core where
  eqlim : List (Nat × Nat)           -- cap and min of MX, CP, ST, EM
  wctl : Word
  widx : Word
  filter : Table Nat                 -- words of the watch filter that are not 0
  pcnt : List Word                   -- PCNT0 to PCNT7
  rcnt : Word
  xlo : Word
  xhi : Word
  xctl : Word
  xdelay : Word
  tlb : List TlbEntry
  entries : List (Nat × RangeEntry)  -- copies of range entries (12 R324)
  deriving DecidableEq, Repr

/-- A Shoil port (17 R443 to R445). -/
structure Port where
  up : Bool
  draining : Bool                    -- down, and requests sent on it are not all delivered or failed
  txSeq : BitVec 12
  rxSeq : BitVec 12                  -- last flit received intact
  unacked : List (List Byte × Nat)   -- replay buffer, oldest first, each with the times it has been replayed
  out : List Byte                    -- message bytes not yet in a flit
  retrains : Nat                     -- failed retrains in a row
  nak : Option (Nat × BitVec 12)     -- a NAK has gone for the flit that is missing: when, and the last seq discarded (17 R444)
  stream : List Byte                 -- message bytes received so far (17 R443)
  deriving DecidableEq, Repr

/-- What leaves the part: requests to peers and the host, answers to them, interrupts, flits. -/
inductive Sent
  | request (op : Nat) (target : Target) (tenant : Nat) (kind : AccessKind) (size : Nat) (data : List Byte)
      (atom : Option (Nat × Nat × Nat)) (tag : BitVec 16) (poison : Bool) (name : FullName)
  | answer (r : PeerRequest) (code : BitVec 8) (sub : BitVec 8) (data : List Byte) (tag : BitVec 16) (poison : Bool)
      (lease : Nat) (line : List Byte)
  | interrupt (tenant : Nat) (vector : Nat)
  | flit (port : Nat) (bytes : List Byte)
  | hostAnswer (line : Nat) (data : List Byte) (poison : Bool) (ok : Bool)
  | backInvalidate (line : Nat)      -- of a line of this part that the host holds (12 R345)
  deriving DecidableEq, Repr

/-- A host line in the bridge cache (17 R442; 03 R119): its bytes, tag and mark, whether the host has them not, when the last
lease on it ends, and whether the host has asked for it. -/
structure BridgeLine where
  line : Nat
  bytes : List Byte
  tag : BitVec 16
  poison : Bool
  dirty : Bool
  horizon : Nat
  snooped : Bool
  deriving DecidableEq, Repr

/-- The attestation state of a tenant (18 R459 to R462). -/
structure Attest where
  addr : DWord
  busy : Bool
  nonce : List DWord
  measure : List Byte
  images : List (DWord × Nat)
  leaf : Nat                         -- the leaf taken for the report in progress; 2^20 where none is left (18 R459)
  job : Option Nat                   -- the report's write, once it is on its way
  deriving DecidableEq, Repr

/-- The registers and stores of the package outside its cores and dies (12 R325; 17 R438 to R448; 18 R453 to R463). -/
structure Part where
  ranges : List (Nat × RangeEntry)   -- valid entries by index, ascending
  staging : List DWord               -- RTSTG0 to RTSTG3
  rtcode : Nat
  change : Option (Nat × Option RangeEntry)   -- a range change in progress (12 R349): index and new entry
  leaving : List Nat                 -- entries still to be invalidated after a teardown (14 R374)
  protos : List (Nat × List Word)    -- accepted tables of slots 8 to 15: 256 words each
  ptcode : Nat
  ptstate : Nat
  ptevent : Nat
  quotas : Table Nat                 -- RQUOTA of each tenant
  lock : Bool
  h5 : BitVec 5
  h6 : BitVec 5
  device : BitVec 9
  syncOk : Bool
  syncOffset : BitVec 16
  near : BitVec 512
  domain : BitVec 512
  routes : Table Nat                 -- ROUTE of each device
  hops : Table Nat                   -- discovered hop counts plus 1 (17 R447)
  duplicate : Bool
  ports : List Port
  firmware : List Byte               -- as loaded into the front-end processors (18 R457)
  cxl : Bool
  linkUp : Bool
  bridge : List BridgeLine           -- the bridge cache (17 R441, R442)
  bridgeQ : List Sent                -- accesses to its lines that it has yet to perform, oldest first
  fills : List (Nat × Nat)           -- lines it has asked of the host: the request's number and the line
  timeAt : Nat                       -- ns of the latest time flits (17 R446)
  pfEnabled : Bool
  ordering : Nat                     -- 0 HN-7P, 1 HN-7M, 2 HN-7M-S
  devnum : BitVec 9
  pcap : BitVec 12
  power : BitVec 16
  powerTarget : Nat                  -- in 100 MHz steps
  thermalTarget : Nat
  lowWindows : Nat
  coolSteps : Nat                    -- ms since the thermal target last rose
  lim : Bool
  trip : Bool
  boot : BitVec 3
  tdie : List (BitVec 16)
  tmem : List (BitVec 16)
  m0 : List Byte
  m1 : List Byte
  keyDigest : List Byte              -- fused digest of the public key (18 R457)
  rollback : Nat                     -- fused rollback counter
  leaf : Nat                         -- fused count of leaves used (18 R459)
  lost : Bool                        -- power is lost; the fused counters stay (18 R459)
  attests : List (Nat × Attest)      -- by tenant, ascending
  deriving DecidableEq, Repr

/-- One thing the outside world or the part's own timing brings about: an event of the opcode table, due at a cycle
and a global time. -/
structure Stimulus where
  cycle : Nat
  ns : Nat
  ev : Instr
  deriving DecidableEq, Repr

/-- The whole part. -/
structure State where
  cycles : Nat                       -- %cycles (05 R172)
  ns : Nat                           -- global time
  frac : Nat                         -- tenths of a cycle's ns not yet counted, below the clock
  agenda : List Stimulus             -- what is due next, first in order (the model's own)
  fresh : Nat                        -- counts the free values read (the model's own)
  nextId : Nat                       -- next number of an operation, warp, gang, launch or packet (the model's own)
  focus : Option StrandRef           -- the strand whose instruction is executing (the model's own)
  feTurn : Option Nat                -- the front-end processor that executes next, 4 for each die (the model's own)
  mem : Memory
  homes : List (Nat × HomeLine)      -- lines not at rest, ascending
  l1 : List L1Copy
  far : List FarCopy
  pend : List Pending                -- oldest first
  ops : List Op                      -- oldest first
  posted : List Posted
  awaiting : List Awaited            -- oldest first
  prefetches : List Prefetch
  unitReads : List UnitRead          -- oldest first
  warps : List Warp
  gangs : List Gang
  launches : List Launch
  tenants : List Tenant
  packets : List Packet
  dies : List Die
  cores : List Core
  yards : List (List TlbEntry)       -- the yard TLBs (10 R282)
  part : Part
  retries : List PeerRequest         -- requests of peers and the host that a home refused, to be sent again, oldest first
  again : List (Nat × HomeEvent)     -- the part's own events that a home refused, to be sent again, with their lines
  lineAnswers : List LineAnswer      -- answers to held events that their requesters have yet to take, oldest first
  waiting : List Sent                -- requests to peers whose port drains, oldest first (17 R445)
  outbox : List Sent                 -- oldest first
  deriving DecidableEq, Repr

/-! ## Reset -/

def Core.reset : Core :=
  { eqlim := [(160, 48), (160, 48), (160, 48), (160, 48)], wctl := 0, widx := 0, filter := [],
    pcnt := List.replicate 8 0, rcnt := 0, xlo := 0, xhi := 0, xctl := 0, xdelay := 0, tlb := [],
    entries := [] }

def Tenant.reset (n : Nat) : Tenant :=
  { num := n, enabled := false, replay := false, ptroot := 0, windows := List.replicate 16 (0, 0), rareaBase := 0,
    rareaSize := 0, rpool := 0, privBase := 0, privSize := 0, csaveBase := 0, csaveSize := 0, qtable := 0,
    xbusy := none, xerr := false, frecBase := 0, frecSize := 0, frecSeq := 0, xleaf := List.replicate 32 0, rplqBase := 0,
    rplqSize := 0, rplSeq := 0, rplHeld := [], trcBase := 0, trcCtl := 0, trcSeq := 0, trcErr := false,
    events := 0, icause := 0, ivmap := 0, queues := [], enabling := none, dbgLaunch := 0, dbg := [], regs := [] }

def FrontEnd.reset : FrontEnd :=
  { pc := 0, regs := List.replicate 31 0, machine := true, mstatus := 0, mtvec := 0, mepc := 0, mcause := 0, mtval := 0,
    mie := 0, mscratch := 0, cycleBase := 0, instret := 0, resv := none, xtimer := 0, signals := 0, waiting := none,
    ready := false }

def Die.reset : Die :=
  { ageper := 100, slots := List.replicate 32 none, entries := List.replicate 256 none, pktq := [],
    fes := List.replicate 4 FrontEnd.reset, emitting := [], rulesDue := false, rulesAt := 0 }

def Port.reset : Port :=
  { up := true, draining := false, txSeq := 0, rxSeq := 0, unacked := [], out := [], retrains := 0, nak := none, stream := [] }

def Part.reset : Part :=
  { ranges := [], staging := [0, 0, 0, 0], rtcode := 0, change := none, leaving := [], protos := [], ptcode := 0, ptstate := 0,
    ptevent := 0, quotas := [], lock := false, h5 := 0, h6 := 0, device := 0, syncOk := false, syncOffset := 0,
    near := 0, domain := 0, routes := [], hops := [], duplicate := false, ports := List.replicate 18 Port.reset,
    firmware := [], cxl := false, linkUp := false, bridge := [], bridgeQ := [], fills := [], timeAt := 0,
    pfEnabled := false, ordering := 1, devnum := 0, pcap := 0, power := 0,
    powerTarget := 30, thermalTarget := 30, lowWindows := 0, coolSteps := 0, lim := false, trip := false, boot := 0,
    tdie := [0, 0, 0, 0], tmem := List.replicate 8 0, m0 := List.replicate 32 0, m1 := List.replicate 32 0,
    keyDigest := List.replicate 32 0, rollback := 0, leaf := 0, lost := false, attests := [] }

/-- The part right after reset: every register at the value its table gives, nothing placed, memory unwritten. -/
def State.reset : State :=
  { cycles := 0, ns := 0, frac := 0, agenda := [], fresh := 0, nextId := 1, focus := none, feTurn := none,
    mem := { cells := [], tags := [], poison := [] }, homes := [], l1 := [], far := [], pend := [], ops := [], posted := [],
    awaiting := [], prefetches := [], unitReads := [],
    warps := [], gangs := [], launches := [], tenants := (List.range 64).map Tenant.reset, packets := [],
    dies := List.replicate 4 Die.reset, cores := List.replicate 336 Core.reset, yards := List.replicate 84 [],
    part := Part.reset, retries := [], again := [], lineAnswers := [], waiting := [], outbox := [] }

/-! ## How a run can stop -/

/-- The machine stops. Safe: the model stops where no part of the spec is left out. -/
inductive Fault
  /-- A strand instruction with no strand to execute it: no step of the model asks for it. Safe. -/
  | noStrand
  /-- A front-end instruction with no processor to execute it: no step of the model asks for it. Safe. -/
  | noFrontEnd
  deriving DecidableEq, Repr

/-- The machine rejects an instruction by its name. Safe: nothing can be proved of what it would do. -/
inductive Refusal
  /-- An instruction not modelled yet, by its mnemonic. Safe. -/
  | notModelled (mnemonic : String)
  deriving DecidableEq, Repr

end Sys2Proof.Machine
end

