-- ==== Sys2Proof/Machine/Base.lean ====
section
/-! DEFINITION. Tables, lane sets and lists: the small operations that the meanings share. -/

namespace Sys2Proof.Machine

/-- The outcome of an instruction, an event or a step. -/
abbrev Out := Host.Outcome State Fault Refusal

/-! ## Tables in canonical form -/

/-- What a table holds at a key; d for a key it does not list. -/
def tget {α : Type} (d : α) : Table α → Nat → α
  | [], _ => d
  | (k, v) :: t, i => if i = k then v else tget d t i

/-- A table with one key changed; an entry equal to d is not listed. -/
def tput {α : Type} [DecidableEq α] (d : α) : Table α → Nat → α → Table α
  | [], i, v => if v = d then [] else [(i, v)]
  | (k, w) :: t, i, v =>
    if i < k then (if v = d then (k, w) :: t else (i, v) :: (k, w) :: t)
    else if i = k then (if v = d then t else (i, v) :: t)
    else (k, w) :: tput d t i v

/-- Keys at or above lo, strictly rising, and no entry equal to d. -/
def twf {α : Type} [DecidableEq α] (d : α) : Nat → Table α → Bool
  | _, [] => true
  | lo, (k, v) :: t => decide (lo ≤ k) && decide (v ≠ d) && twf d (k + 1) t

/-! ## Lane sets -/

/-- The lanes 0 to 63. -/
def lanes64 : List Nat := List.range 64

/-- The set of lanes that satisfy p. -/
def maskOf (p : Nat → Bool) : Mask :=
  lanes64.foldl (fun m l => if p l then m ||| (1#64 <<< l) else m) 0
/-- The lanes of a set, ascending. -/
def lanesOf (m : Mask) : List Nat := lanes64.filter fun l => m.getLsbD l
/-- The lowest lane of a set. -/
def lowestLane (m : Mask) : Option Nat := lanes64.find? fun l => m.getLsbD l
/-- The set that lists these lanes. -/
def maskOfList (ls : List Nat) : Mask := ls.foldl (fun m l => m ||| (1#64 <<< l)) 0
/-- Number of lanes in a set. -/
def laneCount (m : Mask) : Nat := (lanesOf m).length

/-- A lane's value. -/
def lane {α : Type} (d : α) (v : Lanes α) (l : Nat) : α := v[l]?.getD d
/-- New values in the lanes of a set. -/
def setLanes {α : Type} (m : Mask) (f : Nat → α) (v : Lanes α) : Lanes α :=
  v.mapIdx fun l x => if m.getLsbD l then f l else x

/-! ## Lists -/

/-- The first element that satisfies p, changed by f. -/
def updFirst {α : Type} (p : α → Bool) (f : α → α) : List α → List α
  | [] => []
  | x :: xs => if p x then f x :: xs else x :: updFirst p f xs

/-- Removes the first element that satisfies p. -/
def dropFirst {α : Type} (p : α → Bool) : List α → List α
  | [] => []
  | x :: xs => if p x then xs else x :: dropFirst p xs

/-- The elements with their least key, first of equals. -/
def leastBy {α : Type} (key : α → Nat) : List α → Option α
  | [] => none
  | x :: xs =>
    match leastBy key xs with
    | none => some x
    | some y => if key y < key x then some y else some x

/-- n copies of consecutive pieces of a list. -/
def pieces {α : Type} (size : Nat) : Nat → List α → List (List α)
  | 0, _ => []
  | n + 1, xs => xs.take size :: pieces size n (xs.drop size)

/-- Bytes of 0, and a list cut or filled with them to n bytes. -/
def zeros (n : Nat) : List Byte := List.replicate n 0
def padTo (n : Nat) (bs : List Byte) : List Byte := (bs ++ zeros (n - bs.length)).take n

/-- Ceiling of a / b. -/
def ceilDiv (a b : Nat) : Nat := (a + b - 1) / b

/-- A bit field [hi:lo] of a register, as a number. -/
def field {w : Nat} (v : BitVec w) (hi lo : Nat) : Nat := v.toNat / 2 ^ lo % 2 ^ (hi + 1 - lo)

/-- A register with the bit field [hi:lo] replaced. -/
def withField {w : Nat} (v : BitVec w) (hi lo x : Nat) : BitVec w :=
  let m := 2 ^ (hi + 1 - lo)
  BitVec.ofNat w (v.toNat - v.toNat / 2 ^ lo % m * 2 ^ lo + x % m * 2 ^ lo)

end Sys2Proof.Machine
end

