-- ==== Sys2Proof/Machine/Mem.lean ====
section
/-! DEFINITION. Local memory with its tags and poison marks, the range table's fields, page walks, windows and TLBs,
and the checks of a global access (spec/03_numbers.md R119 to R122; spec/10_memory.md R275 to R284;
spec/12_protocols.md R322, R323). -/

namespace Sys2Proof.Machine

/-! ## Bytes, tags, poison -/

/-- What a byte of local memory reads as when nothing has written it. DESIGN CHOICE (log entry 1): 0. -/
def unwritten : Byte := 0

def Memory.byte (m : Memory) (a : Nat) : Byte := tget unwritten m.cells a
def Memory.setByte (m : Memory) (a : Nat) (b : Byte) : Memory := { m with cells := tput unwritten m.cells a b }
/-- n bytes from a upwards. -/
def Memory.read (m : Memory) (a : Nat) : Nat → List Byte
  | 0 => []
  | n + 1 => m.byte a :: m.read (a + 1) n
/-- Bytes written from a upwards. -/
def Memory.write (m : Memory) (a : Nat) : List Byte → Memory
  | [] => m
  | b :: bs => (m.setByte a b).write (a + 1) bs

/-- The line of a local address (03 R103). -/
def lineOf (pa : Nat) : Nat := pa / 64
def Memory.tag (m : Memory) (line : Nat) : Tag := BitVec.ofNat 16 (tget 0 m.tags line)
def Memory.setTag (m : Memory) (line : Nat) (t : Tag) : Memory := { m with tags := tput 0 m.tags line t.toNat }
def Memory.poisoned (m : Memory) (line : Nat) : Bool := m.poison.contains line
/-- Ascending insertion without repeats. -/
def insertNat (n : Nat) : List Nat → List Nat
  | [] => [n]
  | x :: xs => if n < x then n :: x :: xs else if n = x then x :: xs else x :: insertNat n xs
def Memory.mark (m : Memory) (line : Nat) : Memory := { m with poison := insertNat line m.poison }
def Memory.unmark (m : Memory) (line : Nat) : Memory := { m with poison := m.poison.filter (· != line) }

/-- Memory in its canonical form: cells and tags listed once, in order, none at its default; poisoned lines rising. -/
def risingFrom : Nat → List Nat → Bool
  | _, [] => true
  | lo, x :: xs => decide (lo ≤ x) && risingFrom (x + 1) xs
def Memory.wf (m : Memory) : Bool := twf unwritten 0 m.cells && twf 0 0 m.tags && risingFrom 0 m.poison

/-- Size of local memory, and the base and span of the tag window (10 R276; 03 R121). -/
def memSize : Nat := 512 * 2 ^ 30
def tagBase : Nat := 0x8000000000000
def tagSpan : Nat := 16 * 2 ^ 30

/-- One byte of the tag window: half of a line's tag, little-endian (03 R121). -/
def Memory.tagByte (m : Memory) (o : Nat) : Byte := BitVec.ofNat 8 ((m.tag (o / 2)).toNat / 256 ^ (o % 2))
def Memory.setTagByte (m : Memory) (o : Nat) (b : Byte) : Memory :=
  let t := (m.tag (o / 2)).toNat
  let (lo, hi) := (t % 256, t / 256)
  m.setTag (o / 2) (BitVec.ofNat 16 (if o % 2 = 0 then b.toNat + 256 * hi else lo + 256 * b.toNat))
def Memory.tagRead (m : Memory) (o : Nat) : Nat → List Byte
  | 0 => []
  | n + 1 => m.tagByte o :: m.tagRead (o + 1) n
def Memory.tagWrite (m : Memory) (o : Nat) : List Byte → Memory
  | [] => m
  | b :: bs => (m.setTagByte o b).tagWrite (o + 1) bs

/-- A write of bytes by a store: tags stay, and a poison mark goes only when the whole line is written (R119; 15
R421). -/
def Memory.store (m : Memory) (a : Nat) (bs : List Byte) : Memory :=
  let m' := m.write a bs
  if a % 64 = 0 ∧ bs.length ≥ 64 then m'.unmark (lineOf a) else m'

/-! ## The range table (12 R322, R323) -/

def RangeEntry.valid (r : RangeEntry) : Bool := r.q0.getLsbD 63
def RangeEntry.proto (r : RangeEntry) : Nat := field r.q0 59 56
def RangeEntry.tenant (r : RangeEntry) : Nat := field r.q0 53 48
def RangeEntry.limit (r : RangeEntry) : Nat := field r.q0 46 24
def RangeEntry.base (r : RangeEntry) : Nat := field r.q0 22 0
def RangeEntry.deftag (r : RangeEntry) : Tag := BitVec.ofNat 16 (field r.q1 63 48)
def RangeEntry.sealed (r : RangeEntry) : Bool := r.q1.getLsbD 47
def RangeEntry.bound (r : RangeEntry) : Bool := r.q1.getLsbD 17
/-- Lease length in ns; 0 selects 400. -/
def RangeEntry.lease (r : RangeEntry) : Nat := if field r.q1 16 0 = 0 then 400 else field r.q1 16 0
/-- Physical address of the bound sync word. -/
def RangeEntry.sync (r : RangeEntry) : Nat := field r.q2 51 3 * 8
def RangeEntry.covers (r : RangeEntry) (pa : Nat) : Bool :=
  decide (r.base ≤ pa / 65536) && decide (pa / 65536 ≤ r.limit)

/-- The valid entry that covers a local address. -/
def Part.rangeOf (p : Part) (pa : Nat) : Option (Nat × RangeEntry) := p.ranges.find? fun e => e.2.covers pa
/-- Whether the line lies in a sealed WRITEONCE range (12 R339). -/
def Part.sealedAt (p : Part) (pa : Nat) : Bool :=
  match p.rangeOf pa with
  | some (_, r) => r.proto == 2 && r.sealed
  | none => false

/-! ## The page table (10 R277 to R279) -/

def pteV (e : DWord) : Bool := e.getLsbD 0
def pteLeaf (e : DWord) : Bool := e.getLsbD 1
def pteW (e : DWord) : Bool := e.getLsbD 2
def pteP (e : DWord) : Bool := e.getLsbD 4
def pteAddr (e : DWord) : Nat := field e 51 12 * 4096
def pteDevice (e : DWord) : Nat := field e 61 53
def pteTarget (e : DWord) : Nat := field e 63 62
def pteReserved (e : DWord) : Bool := e.getLsbD 52 || field e 11 5 != 0 || e.getLsbD 3

/-- A walk's end: a leaf with its page size as a power of two, or a failure's XLATE subcode. -/
inductive Walk
  | leaf (e : DWord) (bits : Nat)
  | fail (sub : Nat)
  deriving DecidableEq, Repr

/-- Levels L0 to L3 as (shift, index bits). -/
def levels : List (Nat × Nat) := [(43, 13), (34, 9), (25, 9), (16, 9)]

/-- The walk from a table downwards. An entry beyond local memory, which R277 forbids software, reads as unwritten memory does
(DESIGN CHOICE, log entry 78). -/
def walkFrom (m : Memory) (va table : Nat) : List (Nat × Nat) → Walk
  | [] => .fail 1
  | (shift, bits) :: rest =>
    let e := BitVec.ofNat 64 (leNat (m.read (table + 8 * (va / 2 ^ shift % 2 ^ bits)) 8))
    if !pteV e then .fail 0
    else if pteReserved e || (pteLeaf e && shift = 43) || (!pteLeaf e && rest.isEmpty) then .fail 1
    else if pteLeaf e then
      if pteTarget e = 3 || (pteTarget e != 1 && pteDevice e != 0) || pteAddr e % 2 ^ shift != 0 then .fail 1
      else .leaf e shift
    else if pteTarget e != 0 || pteDevice e != 0 || pteP e || pteW e then .fail 1
    else walkFrom m va (pteAddr e) rest

def walk (m : Memory) (root va : Nat) : Walk := walkFrom m va root levels

/-! ## Windows (10 R280, R281) -/

/-- Whether a page of a target and device lies in an enabled window. -/
def windowHit (base limit : DWord) (target device page : Nat) : Bool :=
  base.getLsbD 63 && field base 62 61 == target && field base 60 52 == device &&
  decide (field base 51 16 ≤ page) && decide (page ≤ field limit 51 16)
/-- Whether an address of this part or of a peer lies in the tag window, which is outside every window (03 R121). -/
def inTagWindow (target pa : Nat) : Bool := decide (target < 2) && decide (tagBase ≤ pa) && decide (pa < tagBase + tagSpan)
/-- 0: inside a writable window; 1: inside read-only windows alone; 2: outside every window. -/
def windowCheck (ws : List (DWord × DWord)) (target device pa : Nat) : Nat :=
  let hits := ws.filter fun w => windowHit w.1 w.2 target device (pa / 65536)
  if hits.isEmpty || inTagWindow target pa then 2 else if hits.any fun w => w.2.getLsbD 0 then 0 else 1

/-! ## TLBs (10 R282) -/

def tenantOf (s : State) (t : Nat) : Tenant := (s.tenants[t]?).getD (Tenant.reset t)

/-- A translation made afresh: the walk, then the window check of its page. -/
def translateFresh (s : State) (t va : Nat) : Except Nat TlbEntry :=
  let tn := tenantOf s t
  match walk s.mem tn.ptroot.toNat va with
  | .fail sub => .error sub
  | .leaf e bits =>
    let pa := pteAddr e + va % 2 ^ bits
    .ok { tenant := t, page := va / 2 ^ bits, bits, leaf := e,
          window := if pteP e then 0 else windowCheck tn.windows (pteTarget e) (pteDevice e) pa }

def TlbEntry.matches (e : TlbEntry) (t va : Nat) : Bool := e.tenant == t && e.page == va / 2 ^ e.bits

/-- An entry added in front; the oldest leaves a full TLB. DESIGN CHOICE (log entry 12): which entry leaves. -/
def tlbAdd (cap : Nat) (e : TlbEntry) (l : List TlbEntry) : List TlbEntry := (e :: l).take cap

def coreOf (s : State) (c : Nat) : Core := (s.cores[c]?).getD Core.reset
def setCore (s : State) (c : Nat) (x : Core) : State := { s with cores := s.cores.set c x }

/-- The cached translation of an address on a core, or a fresh one, cached. For a leaf larger than 64 KiB the window
check is made for the page of the access. -/
def translate (s : State) (core t va : Nat) : State × Except Nat TlbEntry :=
  let c := coreOf s core
  match c.tlb.find? (·.matches t va) with
  | some e => (s, .ok (withWindow s t va e))
  | none =>
    let yard := (s.yards[core / 4]?).getD []
    match yard.find? (·.matches t va) with
    | some e => (setCore s core { c with tlb := tlbAdd 64 e c.tlb }, .ok (withWindow s t va e))
    | none =>
      match translateFresh s t va with
      | .error sub => (s, .error sub)
      | .ok e =>
        (setCore { s with yards := s.yards.set (core / 4) (tlbAdd 2048 e yard) } core
          { c with tlb := tlbAdd 64 e c.tlb }, .ok e)
where
  withWindow (s : State) (t va : Nat) (e : TlbEntry) : TlbEntry :=
    if e.bits = 16 || pteP e.leaf then e
    else { e with window := windowCheck (tenantOf s t).windows (pteTarget e.leaf) (pteDevice e.leaf)
                    (pteAddr e.leaf + va % 2 ^ e.bits) }

/-- The place a translated address names (10 R276), none outside both local ranges. -/
def placeOf (leaf : DWord) (bits va : Nat) : Option Target :=
  let pa := pteAddr leaf + va % 2 ^ bits
  let local_ (mk : Nat → Target) (win : Nat → Target) : Option Target :=
    if pa < memSize then some (mk pa)
    else if tagBase ≤ pa ∧ pa < tagBase + tagSpan then some (win (pa - tagBase)) else none
  match pteTarget leaf with
  | 0 => local_ .mem .tagWindow
  | 1 => some (.peer (pteDevice leaf) pa)
  | _ => some (.host pa)

/-! ## The checks of a global access (10 R284) -/

/-- Causes (15 R395). -/
def causeILLEGAL : Nat := 0x01
def causePRIV : Nat := 0x02
def causeREGBOUNDS : Nat := 0x03
def causeBUFBOUNDS : Nat := 0x04
def causeALIGN : Nat := 0x05
def causeXLATE : Nat := 0x06
def causePERM : Nat := 0x07
def causeWINDOW : Nat := 0x08
def causeFP : Nat := 0x09
def causePOISON : Nat := 0x0A
def causeREMOTE : Nat := 0x0B
def causeHOSTATOMIC : Nat := 0x0C
def causeRACK : Nat := 0x0D
def causeRV : Nat := 0x0E
def causePOOL : Nat := 0x0F
def causeDEPTH : Nat := 0x10
def causeMMAFORMAT : Nat := 0x11
def causeTAG : Nat := 0x12
def causeWATCH : Nat := 0x13
def causeBKPT : Nat := 0x14
def causeSWTRAP : Nat := 0x15
def causeHALT : Nat := 0x16
def causeSTACK : Nat := 0x17
def causeCOPY : Nat := 0x18
def causeMEETDEADLOCK : Nat := 0x19

/-- What an access asks: its size, whether it writes, whether it may reach the tag window (LD, ST, CPYL), and whether
it has privilege. -/
structure AccessReq where
  size : Nat
  write : Bool
  tagOk : Bool
  priv : Bool
  deriving DecidableEq, Repr

/-- A failed check: its place in the order of R284, cause and subcode. -/
structure Failure where
  order : Nat
  cause : Nat
  sub : Nat
  deriving DecidableEq, Repr

/-- Checks 4 to 10, on a translation; sealed says whether a local address lies in a sealed range. -/
def checkPlace (sealed : Nat → Bool) (r : AccessReq) (va : DWord) (e : TlbEntry) : Except Failure Target :=
  match placeOf e.leaf e.bits va.toNat with
  | none => .error ⟨4, causeXLATE, 3⟩
  | some t =>
    let tagged := match t with
      | .tagWindow _ => true
      | .peer _ pa => inTagWindow 1 pa
      | _ => false
    if tagged && r.size = 1 then .error ⟨5, causeALIGN, 3⟩
    else if tagged && !r.tagOk then .error ⟨6, causePERM, 3⟩
    else if pteP e.leaf && !r.priv then .error ⟨7, causePERM, 1⟩
    else if r.write && !pteW e.leaf then .error ⟨8, causePERM, 0⟩
    else if r.write && (match t with | .mem pa => sealed pa | _ => false) then .error ⟨9, causePERM, 2⟩
    else if e.window = 2 then .error ⟨10, causeWINDOW, 0⟩
    else if r.write && e.window = 1 then .error ⟨10, causeWINDOW, 1⟩
    else .ok t

/-- The seal of an address as a core finds it: in its copy of the entry, else in the range table (12 R324). -/
def coreSealed (s : State) (core pa : Nat) : Bool :=
  match (coreOf s core).entries.find? fun e => e.2.covers pa with
  | some (_, r) => r.proto == 2 && r.sealed
  | none => s.part.sealedAt pa
/-- A core takes a copy of the entry that covers an address it writes. -/
def keepEntry (s : State) (core : Nat) (t : Target) : State :=
  match t with
  | .mem pa =>
    let c := coreOf s core
    if c.entries.any fun e => e.2.covers pa then s
    else match s.part.rangeOf pa with
      | some e => setCore s core { c with entries := c.entries ++ [e] }
      | none => s
  | _ => s
/-- The cores' copies of the entries that p names are dropped. -/
def dropEntries (s : State) (p : Nat → Bool) : State :=
  { s with cores := s.cores.map fun c => { c with entries := c.entries.filter fun e => !p e.1 } }

/-- One lane's checks in order, through the core's TLB; the translation stays cached. -/
def checkLane (s : State) (core tenant : Nat) (r : AccessReq) (va : DWord) : State × Except Failure Target :=
  if va.toNat / 2 ^ 56 != 0 then (s, .error ⟨1, causeXLATE, 2⟩)
  else if va.toNat % r.size != 0 then (s, .error ⟨2, causeALIGN, 0⟩)
  else
    match translate s core tenant va.toNat with
    | (s', .error sub) => (s', .error ⟨3, causeXLATE, sub⟩)
    | (s', .ok e) =>
      match checkPlace (coreSealed s' core) r va e with
      | .ok t => (if r.write then keepEntry s' core t else s', .ok t)
      | .error f => (s', .error f)

/-- An access of the front end or a slot: the same checks, with a fresh walk. -/
def checkFront (s : State) (tenant : Nat) (r : AccessReq) (va : DWord) : Except Failure Target :=
  if va.toNat / 2 ^ 56 != 0 then .error ⟨1, causeXLATE, 2⟩
  else if va.toNat % r.size != 0 then .error ⟨2, causeALIGN, 0⟩
  else
    match translateFresh s tenant va.toNat with
    | .error sub => .error ⟨3, causeXLATE, sub⟩
    | .ok e => checkPlace s.part.sealedAt r va e

/-- All lanes: translated, or the first check that some lane fails, with its lanes, subcode and address (R284). -/
structure LaneFailure where
  cause : Nat
  sub : Nat
  order : Nat
  addr : DWord
  lanes : Mask
  deriving DecidableEq, Repr

def checkLanes (s : State) (core tenant : Nat) (r : AccessReq) :
    List (Nat × DWord) → State × List (Nat × DWord × Except Failure Target)
  | [] => (s, [])
  | (l, va) :: rest =>
    let (s', x) := checkLane s core tenant r va
    let (s'', xs) := checkLanes s' core tenant r rest
    (s'', (l, va, x) :: xs)

/-- The first check that fails; of the accesses that fail it the first, or with byAddr the one with the lowest address
(08 R249). -/
def firstFailure (byAddr : Bool) (xs : List (Nat × DWord × Except Failure Target)) : Option LaneFailure :=
  let fs := xs.filterMap fun (l, va, x) => match x with
    | .error f => some (l, va, f)
    | .ok _ => none
  match leastBy (fun x => x.2.2.order * 2 ^ 64 + (if byAddr then x.2.1.toNat else 0)) fs with
  | none => none
  | some (_, va, f) =>
    some { cause := f.cause, sub := f.sub, order := f.order, addr := va,
           lanes := maskOfList ((fs.filter fun x => x.2.2.order == f.order).map (·.1)) }

def accessesOf (xs : List (Nat × DWord × Except Failure Target)) : List (Nat × DWord × Target) :=
  xs.filterMap fun (l, va, x) => match x with
    | .error _ => none
    | .ok t => some (l, va, t)

end Sys2Proof.Machine
end

