-- ==== Sys2Proof/Machine/Fabric.lean ====
section
/-! DEFINITION. What leaves the part: links and routes, the port that a request takes, flits with their replay buffer, and
lines that the bridge is the home of (spec/17_links.md R440 to R445, R449; spec/11_ordering.md R308). -/

namespace Sys2Proof.Machine

/-- n numbers from a upwards. -/
def countFrom (a : Nat) : Nat → List Nat
  | 0 => []
  | n + 1 => a :: countFrom (a + 1) n

/-! ## Links (R440, R442, R445, R449) -/

def portUp (p : Part) (i : Nat) : Bool := match p.ports[i]? with
  | some x => x.up
  | none => false
def portDraining (p : Part) (i : Nat) : Bool := match p.ports[i]? with
  | some x => x.draining
  | none => false
def routeHas (p : Part) (device i : Nat) : Bool := (tget 0 p.routes device).testBit i
/-- The ports that are up among a device's route. -/
def upPorts (p : Part) (device : Nat) : List Nat := (List.range 18).filter fun i => routeHas p device i && portUp p i
/-- The port of the requests for a line: fixed by a hash that the spec does not give (log entry 66), over the ports of the route
that are up or still drain. -/
def chosenPort (p : Part) (device line : Nat) : Option Nat :=
  let ps := (List.range 18).filter fun i => routeHas p device i && (portUp p i || portDraining p i)
  ps[Config.portHash device line % max 1 ps.length]?

/-- The first enabled host window of a tenant that holds a page. -/
def hostWindow (s : State) (tenant pa : Nat) : Option Nat :=
  (List.range 16).find? fun i => match (tenantOf s tenant).windows[i]? with
    | some w => windowHit w.1 w.2 2 0 (pa / 65536)
    | none => false
def offHATOM : Nat := 0x2A0
/-- COH and CAS of a window in HATOM, and DX of its limit register. -/
def windowCoh (s : State) (tenant i : Nat) : Bool := (tget 0 (tenantOf s tenant).regs offHATOM).testBit (16 + i)
def windowCas (s : State) (tenant i : Nat) : Bool := (tget 0 (tenantOf s tenant).regs offHATOM).testBit i
def windowDx (s : State) (tenant i : Nat) : Bool :=
  match (tenantOf s tenant).windows[i]? with
  | some w => w.2.getLsbD 1
  | none => false
/-- Whether a place lies in a window with COH set. -/
def inCohWindow (s : State) (tenant : Nat) (t : Target) : Bool :=
  match t with
  | .host pa => (match hostWindow s tenant pa with
      | some i => windowCoh s tenant i
      | none => false)
  | _ => false
/-- A host place whose line the bridge holds, or takes before any access to it (R442). -/
def coherentHost (s : State) (tenant : Nat) (t : Target) : Bool := s.part.cxl && inCohWindow s tenant t

/-- Whether a request to a place fails at once with cause 0x0B, subcode 0. -/
def linkDown (s : State) (tenant : Nat) (t : Target) : Bool :=
  match t with
  | .peer d _ => !s.part.lock || (upPorts s.part d).isEmpty
  | .host _ => !s.part.cxl && inCohWindow s tenant t
  | _ => false

/-- The place of the line's first byte. -/
def Target.lineStart (t : Target) : Target :=
  match t with
  | .mem pa => .mem (pa / 64 * 64)
  | .tagWindow o => .tagWindow (o / 64 * 64)
  | .peer d pa => .peer d (pa / 64 * 64)
  | .host pa => .host (pa / 64 * 64)
def Target.plus (t : Target) (n : Nat) : Target :=
  match t with
  | .mem a => .mem (a + n)
  | .tagWindow a => .tagWindow (a + n)
  | .peer d a => .peer d (a + n)
  | .host a => .host (a + n)
def isRemote : Target → Bool
  | .peer _ _ => true
  | .host _ => true
  | _ => false
def isHost : Target → Bool
  | .host _ => true
  | _ => false

/-! ## Flits (R443, R444) -/

def setPart (s : State) (f : Part → Part) : State := { s with part := f s.part }
def updPort (s : State) (i : Nat) (f : Port → Port) : State := setPart s fun p => { p with ports := p.ports.modify i f }
def portAt (s : State) (i : Nat) : Option Port := s.part.ports[i]?
/-- A flit's CRC-64 over its first 248 bytes, bit by bit from the high end. -/
def crcPoly : BitVec 64 := 0x42F0E1EBA9EA3693#64
def crcBits : Nat → BitVec 64 → BitVec 64
  | 0, c => c
  | n + 1, c => crcBits n (if c.getLsbD 63 then (c <<< 1) ^^^ crcPoly else c <<< 1)
def crc64 (bs : List Byte) : BitVec 64 :=
  let step (c : BitVec 64) (b : Byte) : BitVec 64 := crcBits 8 (c ^^^ (BitVec.ofNat 64 (b.toNat * 2 ^ 56)))
  ~~~(bs.foldl step (BitVec.allOnes 64))
def formFlit (seq ack type : Nat) (payload : List Byte) : List Byte :=
  let b := leBytes 8 (seq % 4096 * 2 ^ 52 + ack % 4096 * 2 ^ 40 + type * 2 ^ 36) ++ padTo 240 payload
  b ++ leBytes 8 (crc64 b).toNat
/-- Flits that a port may hold unacknowledged. -/
def replayFlits : Nat := 512
/-- A flit sent on a port, kept until it is acknowledged; none is sent while the replay buffer is full. -/
def sendFlit (s : State) (i type : Nat) (payload : List Byte) : State :=
  match portAt s i with
  | some p =>
    if replayFlits ≤ p.unacked.length then s
    else
      let seq := p.txSeq + 1
      let b := formFlit seq.toNat p.rxSeq.toNat type payload
      let s := updPort s i fun p => { p with txSeq := seq, unacked := p.unacked ++ [(b, 0)] }
      { s with outbox := s.outbox ++ [.flit i b] }
  | none => s
/-- A NAK, for a flit of this seq, that names the last good sequence number: it is no flit that is replayed (R444; log entry 71). -/
def sendNak (s : State) (i : Nat) (seq : BitVec 12) : State :=
  match portAt s i with
  | some p =>
    let s := updPort s i fun p => { p with nak := some (s.ns, seq) }
    { s with outbox := s.outbox ++ [.flit i (formFlit p.txSeq.toNat p.rxSeq.toNat 2 [])] }
  | none => s
/-- Message bytes put in flits of type 1 as far as the replay buffer has room. -/
def flushPort (i : Nat) : Nat → State → State
  | 0, s => s
  | n + 1, s => match portAt s i with
    | some p =>
      if p.out.isEmpty || !p.up || decide (replayFlits ≤ p.unacked.length) then s
      else flushPort i n (updPort (sendFlit s i 1 (p.out.take 240)) i fun p => { p with out := p.out.drop 240 })
    | none => s

/-! ## Messages (R443, R449) -/

def kindCode : AccessKind → Nat
  | .read => 0
  | .acquire => 1
  | .write => 2
  | .atomic => 3
  | .reduce => 4
  | .release => 5
  | .copyData => 6
/-- What a message carries: the fields of its head, in an order and coding that the spec does not give (log entry 66), and its
data; a line travels with its tag and a poison byte. -/
def lineBody (data : List Byte) (tag : BitVec 16) (poison : Bool) : List Byte :=
  if data.length = 64 then data ++ leBytes 2 tag.toNat ++ [if poison then 1 else 0] else data
def nameFields (n : FullName) : List Nat := [n.short.toNat, n.group.toNat, n.strand.toNat]
def messageBytes : Sent → List Byte
  | .request op t tenant kind size data atom tag poison name =>
    let place : Nat := match t with
      | .peer _ pa => pa
      | _ => 0
    let at_ : List Nat := match atom with
      | some (o, ty, hm) => [o, ty, hm]
      | none => []
    Config.messageHead ([op, place, tenant, kindCode kind, size] ++ nameFields name ++ at_) ++ lineBody data tag poison
  | .answer r code sub data tag poison lease line =>
    Config.messageHead ([r.seq, r.addr.toNat, code.toNat, sub.toNat, lease] ++ nameFields r.name) ++
      lineBody data tag poison ++ lineBody line tag poison
  | _ => []
/-- The device and line of a message that travels over the fabric. -/
def Sent.route : Sent → Option (Nat × Nat)
  | .request _ (.peer d pa) .. => some (d, pa / 64)
  | .answer r .. => if r.src == 0x200#16 then none else some (r.src.toNat, r.addr.toNat / 64)
  | _ => none
/-- A request that leaves awaits its answer; one about which nobody waits has number 0. -/
def noteSent (s : State) (x : Sent) (port : Option Nat) : State :=
  match x with
  | .request op t .. =>
    if op = 0 then s else { s with awaiting := s.awaiting ++ [{ op, target := t, since := s.ns, port }] }
  | _ => s
/-- A message that leaves: to the host at once, to a peer in flits of a port. -/
def sendOn (s : State) (port : Option Nat) (x : Sent) : State :=
  let s := noteSent { s with outbox := s.outbox ++ [x] } x port
  match port with
  | some i =>
    let bs := messageBytes x
    flushPort i (bs.length + 1) (updPort s i fun p => { p with out := p.out ++ bs })
  | none => s
/-- The port of a message that travels over the fabric. -/
def Sent.port (x : Sent) (p : Part) : Option Nat := x.route.bind fun r => chosenPort p r.1 r.2
/-- Whether a request's port drains, or a request to its line is still out on another port (R445). -/
def Sent.portHeld (x : Sent) (s : State) : Bool :=
  match x with
  | .request _ t .. =>
    (match x.port s.part with
     | some i => portDraining s.part i || s.awaiting.any fun a => a.target.lineStart == t.lineStart && a.port != some i
     | none => false)
  | _ => (x.port s.part).any (portDraining s.part)
/-- Whether an operation keeps other accesses from a place's line between its steps: a plain read and write that the bridge
serialises (11 R318), and the steps of several lanes, one AtomicOp after another (11 R314). -/
def Op.serialises (o : Op) (t : Target) : Bool :=
  o.steps.any fun x => x.target.lineStart == t.lineStart && (match x.stage with
    | .reading cas => !cas
    | .writing _ => true
    | .trying .. => false
    | .each => true)
/-- Whether an operation is in the midst of an access in several steps to a place's line. -/
def Op.stepsOn (o : Op) (t : Target) : Bool := o.steps.any fun x => x.target.lineStart == t.lineStart
/-- Whether a message is a request of an operation, and to a place's line. -/
def Sent.asksFor (x : Sent) (op : Nat) : Bool := match x with
  | .request o .. => o == op
  | _ => false
def Sent.reaches (x : Sent) (t : Target) : Bool := match x with
  | .request _ t' .. => t'.lineStart == t.lineStart
  | _ => false
/-- Whether a request is of a crumb that has an older crumb of its tenant to follow: they are written in sequence order (16 R429). -/
def behindCrumb (s : State) (op : Nat) : Bool :=
  s.posted.any fun x => x.id == op && (match x.writer with
    | .crumb _ => s.pend.any (fun p => p.writer == x.writer && decide (p.op < op)) ||
        s.posted.any (fun y => y.writer == x.writer && decide (y.id < op))
    | _ => false)
/-- Whether a message must wait, behind those that already do (ahead) and before others (behind): behind one to its line; behind
an operation that serialises on its line, or an older one of its own strand that is in the midst of steps there, where that
has begun; behind an older crumb; or for its port. -/
def mustWait (s : State) (ahead behind : List Sent) (x : Sent) : Bool :=
  match x with
  | .request op t .. =>
    let owner := (s.ops.find? (·.id == op)).map (·.owner)
    let begun (o : Op) : Bool := !((ahead ++ behind).any fun y => y.asksFor o.id && y.reaches t)
    ahead.any (·.reaches t) || x.portHeld s || behindCrumb s op ||
    s.ops.any fun o => o.id != op && begun o &&
      (o.serialises t || (o.stepsOn t && some o.owner == owner && decide (o.id < op)))
  | _ => x.portHeld s
/-- A message sent on its way, or to wait. -/
def sendRouted (s : State) (x : Sent) : State :=
  if mustWait s s.waiting [] x then { s with waiting := s.waiting ++ [x] } else sendOn s (x.port s.part) x
/-- A request or answer leaves the part. No L1 keeps a leased line outside the part that this part writes. An access to a line
of which the bridge is the home goes there (R442). -/
def sendOut (s : State) (x : Sent) : State :=
  match x with
  | .request _ t tenant kind .. =>
    let s := match kind with
      | .read => s
      | .acquire => s
      | _ => { s with far := s.far.filter (·.place != t.lineStart) }
    if coherentHost s tenant t then setPart s fun p => { p with bridgeQ := p.bridgeQ ++ [x] } else sendRouted s x
  | _ => sendRouted s x
def sendAll (s : State) (xs : List Sent) : State := xs.foldl sendOut s
/-- A dirty line of the bridge written to the host, whose answer nothing awaits. -/
def writeBack (s : State) (tenant line : Nat) : State :=
  match s.part.bridge.find? (·.line == line) with
  | some b =>
    if !b.dirty then s
    else
      let name : FullName := { short := 0, group := 0, strand := 0 }
      let s := setPart s fun p => { p with bridge := p.bridge.map fun x => if x.line = line then { x with dirty := false } else x }
      { s with outbox := s.outbox ++ [.request 0 (.host (64 * line)) tenant .write 64 b.bytes none 0 b.poison name] }
  | none => s

end Sys2Proof.Machine
end

