-- ==== Sys2Proof/Machine/Places.lean ====
section
/-! DEFINITION. Reads and writes that the part's own units make for a tenant (frames, records, packets, crumbs), and
the places they reach (spec/10_memory.md R276, R284; spec/15_traps.md R399, R408; spec/16_observe.md R429). -/

namespace Sys2Proof.Machine

/-- n bytes of a place of this part; what lies outside it has to be asked for. -/
def readPlace (s : State) (t : Target) (n : Nat) : List Byte :=
  match t with
  | .mem pa => s.mem.read pa n
  | .tagWindow o => s.mem.tagRead o n
  | _ => []

/-- New bytes in a part of a list. -/
def overwrite (xs : List Byte) (at_ : Nat) (bs : List Byte) : List Byte :=
  xs.take at_ ++ bs ++ xs.drop (at_ + bs.length)

/-- The pieces of va to va + n - 1 that lie within one line each: address and length. -/
def lineSpans (va : Nat) : Nat → Nat → List (Nat × Nat)
  | 0, _ => []
  | _, 0 => []
  | fuel + 1, n =>
    let k := min n (64 - va % 64)
    (va, k) :: lineSpans (va + k) fuel (n - k)
def spansOf (va n : Nat) : List (Nat × Nat) := lineSpans va (n / 64 + 2) n

/-- The checks of one address for a unit of the part, alignment apart, with a fresh walk. -/
def checkUnit (s : State) (tenant : Nat) (r : AccessReq) (va : Nat) : Except Failure Target :=
  if 2 ^ 56 ≤ va then .error ⟨1, causeXLATE, 2⟩
  else match translateFresh s tenant va with
    | .error sub => .error ⟨3, causeXLATE, sub⟩
    | .ok e => checkPlace s.part.sealedAt r (BitVec.ofNat 64 va) e

/-- Pieces checked in order and placed; a place that no link reaches fails with 0x0B, 0 (17 R440, R449). -/
def checkSpans (s : State) (tenant : Nat) (r : AccessReq) : List (Nat × Nat) → Except (Failure × Nat) (List (Target × Nat))
  | [] => .ok []
  | (va, n) :: rest =>
    match checkUnit s tenant r va with
    | .error f => .error (f, va)
    | .ok t =>
      if linkDown s tenant t then .error (⟨11, causeREMOTE, 0⟩, va)
      else match checkSpans s tenant r rest with
        | .error f => .error f
        | .ok ts => .ok ((t, n) :: ts)

/-- A unit's request: 8-byte accesses, away from the tag window. -/
def unitReq (write priv : Bool) : AccessReq := { size := 8, write, tagOk := false, priv }

/-! ## Reads of a unit outside the part (17 R442, R449) -/

def noName : FullName := { short := 0, group := 0, strand := 0 }

/-- Who reads, for which packet or warp (0: none) and tenant, and whether what comes from outside the part is kept after it is read. -/
structure UnitReader where
  packet : Nat
  tenant : Nat
  kept : Bool
/-- A reader's request for a piece outside the part. -/
def UnitReader.asked (u : UnitReader) (s : State) (t : Target × Nat) : Option UnitRead :=
  s.unitReads.find? fun x => x.packet == u.packet && x.tenant == u.tenant && x.place == t.1 && x.size == t.2
/-- A piece outside the part, at an address, asked of its peer, of the host or of the bridge, unless it is already (17 R442, R449). -/
def UnitReader.ask (u : UnitReader) (scope : Nat) (s : State) (x : Nat × Target × Nat) : State :=
  if !isRemote x.2.1 || (u.asked s x.2).isSome then s
  else
    let r : UnitRead := { id := s.nextId, packet := u.packet, kept := u.kept, tenant := u.tenant, va := x.1, place := x.2.1,
                          size := x.2.2, back := none }
    sendOut { s with nextId := s.nextId + 1, unitReads := s.unitReads ++ [r] }
      (.request s.nextId x.2.1 u.tenant (if scope ≤ 1 then .read else .acquire) x.2.2 [] none 0 false noName)
/-- What has come of a piece outside the part: nothing yet, a failure's code, or its bytes. -/
def UnitReader.came (u : UnitReader) (s : State) (t : Target × Nat) : Option (Nat × List Byte) := (u.asked s t).bind (·.back)
/-- A piece as it has come, or as local memory has it. -/
def UnitReader.piece (u : UnitReader) (s : State) (t : Target × Nat) : List Byte :=
  if isRemote t.1 then ((u.came s t).map (·.2)).getD [] else readPlace s t.1 t.2
/-- Pieces that a reader has done with. -/
def UnitReader.drop (u : UnitReader) (s : State) (ts : List (Target × Nat)) : State :=
  if u.kept then s else { s with unitReads := s.unitReads.filter fun x =>
    !(x.packet == u.packet && x.tenant == u.tenant && ts.contains (x.place, x.size)) }
/-- Reads of a tenant's packet, or of its queues (0), given up. -/
def dropReads (s : State) (tenant packet : Nat) : State :=
  { s with unitReads := s.unitReads.filter fun x => !(x.tenant == tenant && x.packet == packet) }

/-! ## Writes of a unit (12 R331; 15 R399, R408; 16 R429) -/

/-- The number under which a unit of the part, which is no core, writes; and the strand that owns such a write: none. -/
def unitCore : Nat := 336
def unitOwner : StrandRef := { warp := 0, no := 0 }

/-- The pieces of a job's write from an address: each line goes to its home, to a peer or to the host. -/
def putUnit (job tenant core : Nat) (w : Writer) (rel : Bool) : List (Target × Nat) → DWord → List Byte → State → State
  | [], _, _, s => s
  | (t, n) :: rest, va, bs, s =>
    let data := bs.take n
    let pend (pa : Nat) (window : Bool) : State :=
      { s with nextId := s.nextId + 1, pend := s.pend ++ [
        { id := s.nextId, op := job, writer := w, rel, window, tag := none, poison := false, value := 0, va, lanes := 0,
          core, owner := unitOwner, pa, bytes := data }] }
    let s := match t with
      | .mem pa => pend pa false
      | .tagWindow o => pend o true
      | t =>
        sendOut { s with posted := s.posted ++ [{ id := job, writer := w, owner := unitOwner, lane := 0, va, target := t }] }
          (.request job t tenant (if rel then .release else .write) n data none 0 false noName)
    putUnit job tenant core w rel rest (va + BitVec.ofNat 64 n) (bs.drop n) s
/-- Bytes written to a tenant's memory as part of a job, all or none. -/
def writeAs (s : State) (job tenant : Nat) (priv : Bool) (core : Nat) (w : Writer) (rel : Bool) (va : Nat) (bs : List Byte) :
    Option State :=
  match checkSpans s tenant (unitReq true priv) (spansOf va bs.length) with
  | .error _ => none
  | .ok ts => some (putUnit job tenant core w rel ts (BitVec.ofNat 64 va) bs s)
/-- A job of one write; its number is nextId. -/
def unitWrite (s : State) (tenant : Nat) (priv : Bool) (core : Nat) (w : Writer) (rel : Bool) (va : Nat) (bs : List Byte) :
    Option State :=
  writeAs { s with nextId := s.nextId + 1 } s.nextId tenant priv core w rel va bs
/-- A write that is dropped where it fails. -/
def unitStore (s : State) (tenant : Nat) (priv : Bool) (w : Writer) (va : Nat) (bs : List Byte) : State :=
  (unitWrite s tenant priv unitCore w false va bs).getD s
/-- Whether everything that a job wrote is performed. -/
def jobDone (s : State) (job : Nat) : Bool := !(s.pend.any (·.op == job)) && !(s.posted.any (·.id == job))

/-! ## Changes of one record -/

def updTenant (s : State) (t : Nat) (f : Tenant → Tenant) : State :=
  { s with tenants := updFirst (·.num == t) f s.tenants }
def updGang (s : State) (g : Nat) (f : Gang → Gang) : State :=
  { s with gangs := updFirst (·.uid == g) f s.gangs }
def updLaunch (s : State) (l : Nat) (f : Launch → Launch) : State :=
  { s with launches := updFirst (·.uid == l) f s.launches }
def updWarp (s : State) (w : Nat) (f : Warp → Warp) : State :=
  { s with warps := updFirst (·.uid == w) f s.warps }
def updOp (s : State) (o : Nat) (f : Op → Op) : State :=
  { s with ops := updFirst (·.id == o) f s.ops }

def warpOf (s : State) (w : Nat) : Option Warp := s.warps.find? (·.uid == w)
def gangOf (s : State) (g : Nat) : Option Gang := s.gangs.find? (·.uid == g)
def launchOf (s : State) (l : Nat) : Option Launch := s.launches.find? (·.uid == l)
def opOf (s : State) (o : Nat) : Option Op := s.ops.find? (·.id == o)
def dieOf (s : State) (d : Nat) : Die := (s.dies[d]?).getD Die.reset
def setDie (s : State) (d : Nat) (x : Die) : State := { s with dies := s.dies.set d x }

/-! ## Interrupt causes and queues in error (14 R376, R378, R384, R389) -/

/-- Sets an ICAUSE bit; a bit that was 0 signals its vector. -/
def raiseCause (s : State) (tenant bit vector : Nat) : State :=
  let tn := tenantOf s tenant
  if tn.icause.getLsbD bit then s
  else
    let s := updTenant s tenant fun t => { t with icause := t.icause ||| (1#5 <<< bit) }
    { s with outbox := s.outbox ++ [.interrupt tenant vector] }
/-- The vector of causes 1 to 4 in IVMAP. -/
def causeVector (s : State) (tenant bit : Nat) : Nat := field (tenantOf s tenant).ivmap (3 * bit + 2) (3 * bit)

def Queue.blank (q : Nat) : Queue :=
  { num := q, state := .disabled, privileged := false, ring := 0, log2size := 6, base := 0, die := 0, vector := 0, eprio := 0,
    error := 0, rindex := 0, windex := 0, ptime := 0, mappedAt := 0, disabling := false, resetTo := none }
/-- A tenant's queue; one that was never enabled is disabled. -/
def queueOf (s : State) (t q : Nat) : Queue := ((tenantOf s t).queues.find? (·.num == q)).getD (Queue.blank q)
/-- Ascending insertion of a queue's record. -/
def putQueue (x : Queue) : List Queue → List Queue
  | [] => [x]
  | y :: ys => if x.num < y.num then x :: y :: ys else if x.num = y.num then x :: ys else y :: putQueue x ys
def setQueue (s : State) (t : Nat) (x : Queue) : State := updTenant s t fun tn => { tn with queues := putQueue x tn.queues }
def updQueue (s : State) (t q : Nat) (f : Queue → Queue) : State := setQueue s t (f (queueOf s t q))
/-- The slot that holds a queue on its home die, freed. -/
def freeSlotOf (s : State) (t q : Nat) : State :=
  { s with dies := s.dies.map fun d => { d with slots := d.slots.map fun x => if x = some (t, q) then none else x } }
/-- A queue enters error (R376), and its slot is freed (log entry 31). An overrun sets error 1 whatever the state was (R378);
another error of a queue in error leaves its first. -/
def queueError (s : State) (t q code : Nat) : State :=
  let s := if (queueOf s t q).state == .error && code != 1 then s
    else freeSlotOf (updQueue s t q fun x => { x with state := .error, error := code }) t q
  let bit := if code = 1 then 1 else 2
  raiseCause s t bit (causeVector s t bit)

/-! ## Names and crumbs (16 R425 to R430) -/

/-- Short logical name. -/
def shortName (launch node team group warp lane : Nat) : DWord :=
  BitVec.ofNat 64 (launch % 65536 * 2 ^ 48 + node % 64 * 2 ^ 42 + team % 8 * 2 ^ 39 + group % 2 ^ 29 * 2 ^ 10 +
    warp % 16 * 64 + lane % 64)

def nameIn (l : Launch) (g : Gang) (w : Warp) (lane : Nat) : DWord :=
  shortName l.number.toNat g.node w.team g.index.toNat w.num lane

/-- The full name of a lane of a strand; the trap kernel's is 0 (R426). -/
def fullName (l : Launch) (g : Gang) (w : Warp) (lane strand : Nat) : FullName :=
  { short := nameIn l g w lane, group := g.index, strand := BitVec.ofNat 4 strand }

/-- Sequence number of a tenant and its address in the trace ring. -/
def crumbBytes (seq ns group launch node team warp : Nat) (k : Bool) (die lane strand kind mark payload : Nat) : List Byte :=
  leBytes 8 seq ++ leBytes 8 ns ++ leBytes 4 group ++
  leBytes 4 (launch % 65536 * 65536 + node % 64 * 1024 + team % 8 * 128 + warp % 16 * 8 + (if k then 4 else 0) + die % 4) ++
  leBytes 2 (lane % 64 * 1024 + strand % 16 * 64 + kind % 64) ++ leBytes 1 mark ++ [0] ++ leBytes 4 payload

/-- Whether a tenant's crumbs of a kind are produced. -/
def crumbsOn (tn : Tenant) (kind : Nat) : Bool := tn.trcBase.getLsbD 0 && tn.trcCtl.getLsbD kind

/-- One crumb accepted and written; a failed write sets ERR and keeps the number used. -/
def crumb (s : State) (l : Launch) (g : Gang) (team warp : Nat) (k : Bool) (die lane strand kind mark payload : Nat) : State :=
  let tn := tenantOf s l.tenant
  if !crumbsOn tn kind then s
  else
    let q := tn.trcSeq
    let s := updTenant s l.tenant fun t => { t with trcSeq := t.trcSeq + 1 }
    let va := field tn.trcBase 55 16 * 65536 + 32 * (q % 2 ^ (field tn.trcCtl 23 20 + 8))
    match unitWrite s l.tenant false unitCore (.crumb l.tenant) false va
      (crumbBytes q s.ns g.index.toNat l.number.toNat g.node team warp k die lane strand kind mark payload) with
    | some s' => s'
    | none => updTenant s l.tenant fun t => { t with trcErr := true }

/-- Die of a core and of a yard. -/
def dieOfCore (core : Nat) : Nat := core / 84
def yardOfCore (core : Nat) : Nat := core / 4

end Sys2Proof.Machine
end

