-- ==== Sys2Proof/Machine/Ops.lean ====
section
/-! DEFINITION. What every strand instruction shares: the strand in focus and its Exec, slots, predicates, general and
uniform registers with presence, counters and engine queues, retiring, waiting, and TAKING A TRAP (spec/04_issue.md,
spec/05_registers.md, spec/15_traps.md R396 to R408). -/

namespace Sys2Proof.Machine

/-! ## Strands of a warp -/

/-- The number by which a trap kernel's strand is referred to. -/
def kernelNo : Nat := 16

/-- A strand by its reference number. -/
def Warp.strandAt (w : Warp) (no : Nat) : Option Strand :=
  if no = kernelNo then w.kernel else w.strands.find? (·.no == no)
def Warp.updStrand (w : Warp) (no : Nat) (f : Strand → Strand) : Warp :=
  if no = kernelNo then { w with kernel := w.kernel.map f }
  else { w with strands := updFirst (·.no == no) f w.strands }
def updStrand (s : State) (r : StrandRef) (f : Strand → Strand) : State :=
  updWarp s r.warp fun w => w.updStrand r.no f
def strandOf (s : State) (r : StrandRef) : Option Strand := (warpOf s r.warp).bind (·.strandAt r.no)

/-- Lanes that are neither exited nor never launched. -/
def Strand.live (launched : Mask) (k : Strand) : Mask := launched &&& ~~~k.exited
/-- R123: every lane is exited or never launched. -/
def Strand.isDone (launched : Mask) (k : Strand) : Bool := k.live launched == 0

/-- The issue address (R130): the least LPC over the live lanes. -/
def Strand.issueAddress (launched : Mask) (k : Strand) : Word :=
  BitVec.ofNat 32 (((leastBy id ((lanesOf (k.live launched)).map fun l => (lane 0 k.lpc l).toNat))).getD 0)
/-- The lanes at an address. -/
def Strand.lanesAt (launched : Mask) (k : Strand) (a : Word) : Mask :=
  maskOf fun l => (k.live launched).getLsbD l && lane 0 k.lpc l == a

/-- Register storage as the running code declares it: under a trap kernel its own tables on the warp's cluster-0
block (15 R403). -/
def tablesFor (l : Launch) (n : NodeEntry) (no : Nat) : NodeEntry :=
  match l.trap with
  | some t => if no = kernelNo then { n with strands := t.strands, regs := t.regs } else n
  | none => n

/-! ## The context of an instruction -/

/-- An instruction about to take effect: the state and strand it found (s, w0, k0), the warp and strand as it leaves
them (w, k), its address, the lanes at it, and Exec. -/
structure Ctx where
  s : State
  ref : StrandRef
  w0 : Warp
  k0 : Strand
  w : Warp
  k : Strand
  g : Gang
  l : Launch
  n : NodeEntry
  addr : Word
  here : Mask
  exec : Mask
  len : Nat
  value : DWord
  deriving DecidableEq, Repr

/-- P[l][d] of a strand. -/
def Strand.pred (k : Strand) (d l : Nat) : Bool := (lane 0 k.preds l).getLsbD d

/-- Lanes that a guard admits (R52). -/
def Strand.admits (k : Strand) (g : Option Guard) (l : Nat) : Bool :=
  match g with
  | none => true
  | some g => !g.e || (k.pred g.p.toNat l != g.n)

/-- The context of the strand in focus, for an instruction of a length and value. -/
def focusCtx (s : State) (g : Option Guard) (len : Nat) (value : DWord) : Option Ctx := do
  let r ← s.focus
  let w ← warpOf s r.warp
  let k ← w.strandAt r.no
  let gang ← gangOf s w.gang
  let l ← launchOf s gang.launch
  let n ← l.nodes[gang.node]?
  let addr := k.issueAddress w.launched
  let here := k.lanesAt w.launched addr
  some { s, ref := r, w0 := w, k0 := k, w, k, g := gang, l, n := tablesFor l n r.no, addr, here,
         exec := here &&& maskOf (k.admits g), len, value }

/-- A strand instruction: f on its context. -/
def withStrand (i : Instr) (g : Option Guard) (s : State) (f : Ctx → Out) : Out :=
  match focusCtx s g (encode i).length (instrValue (encode i)) with
  | some c => f c
  | none => .fault .noStrand

def Ctx.no (c : Ctx) : Nat := c.k0.no
def Ctx.cluster (c : Ctx) : Nat := c.k0.no % 8
def Ctx.handler (c : Ctx) : Bool := c.ref.no == kernelNo
def Ctx.lanes (c : Ctx) : List Nat := lanesOf c.exec
/-- The leader lane: the lowest lane of Exec. -/
def Ctx.leader (c : Ctx) : Option Nat := lowestLane c.exec
def Ctx.tenant (c : Ctx) : Nat := c.l.tenant

/-- The state with the instruction's warp and strand in place. -/
def Ctx.commit (c : Ctx) : State :=
  let w := c.w.updStrand c.ref.no fun _ => c.k
  updWarp c.s c.w.uid fun _ => w

/-- A change of the whole part in the middle of an instruction, which may reach other strands of its warp: what the
instruction has done so far is put in place, and it goes on from what it then finds. -/
def Ctx.through (c : Ctx) (f : State → State) : Ctx :=
  let s := f c.commit
  match warpOf s c.w.uid with
  | some w =>
    (match w.strandAt c.ref.no with
     | some k => { c with s, w0 := w, k0 := k, w, k }
     | none => { c with s })
  | none => { c with s }

/-- The same of a change before the instruction has done more than read registers: the strand and warp as the change left
them, with the presence bits that the reads leave. -/
def Ctx.onTo (c : Ctx) (s : State) : Ctx :=
  match warpOf s c.w.uid with
  | some w =>
    (match w.strandAt c.ref.no with
     | some k => { c with s, w0 := w, k0 := k, w := { w with full := c.w.full, seen := c.w.seen }, k }
     | none => { c with s })
  | none => { c with s }

/-! ## Slots and predicates -/

def Strand.slot (k : Strand) (i : Nat) : Lanes Word := (k.slots[i]?).getD (List.replicate 64 0)
/-- Slot[N][i][l] as the instruction found it. -/
def Ctx.slot (c : Ctx) (i l : Nat) : Word := lane 0 (c.k0.slot i) l
/-- The pair that starts at slot i. -/
def Ctx.pair (c : Ctx) (i l : Nat) : DWord := DWord.ofPair (c.slot i l) (c.slot (i + 1) l)
def Strand.setSlotIn (k : Strand) (m : Mask) (i : Nat) (f : Nat → Word) : Strand :=
  { k with slots := k.slots.set i (setLanes m f (k.slot i)) }
/-- Slot i written in the lanes of Exec. -/
def Ctx.setSlot (c : Ctx) (i : Nat) (f : Nat → Word) : Ctx := { c with k := c.k.setSlotIn c.exec i f }
def Ctx.setPair (c : Ctx) (i : Nat) (f : Nat → DWord) : Ctx :=
  (c.setSlot i fun l => (f l).lo).setSlot (i + 1) fun l => (f l).hi

/-- A push of v (R132). -/
def pushBit (p : BitVec 8) (v : Bool) : BitVec 8 := (p <<< 1) ||| (if v then 1 else 0)
/-- A pop of n. -/
def popBits (p : BitVec 8) (n : Nat) : BitVec 8 := p >>> n
def Ctx.setPreds (c : Ctx) (f : Nat → BitVec 8 → BitVec 8) : Ctx :=
  { c with k := { c.k with preds := setLanes c.exec (fun l => f l (lane 0 c.k.preds l)) c.k.preds } }
/-- A push in each lane of Exec. -/
def Ctx.push (c : Ctx) (v : Nat → Bool) : Ctx := c.setPreds fun l p => pushBit p (v l)

/-! ## Ending an instruction -/

/-- The strand past an instruction: every lane at its address advances, excluded lanes too (R52, R130). -/
def Ctx.passed (c : Ctx) : Strand :=
  { c.k with lpc := setLanes c.here (fun _ => c.addr + BitVec.ofNat 32 c.len) c.k.lpc, wait := none,
             lastIssue := c.s.cycles, skipWatch := false, cancelled := none, em := none, arrivedAt := none }

/-- The instruction retires. -/
def Ctx.retire (c : Ctx) : Out := .next { c with k := c.passed }.commit

/-- A wait on presence (05 R159, R161): its subcode and register (05 R164). -/
def presenceOf : Wait → Option (Nat × Nat)
  | .readReg n => some (0, n)
  | .publish n => some (1, n)
  | .publishUniform n => some (2, 64 + n)
  | _ => none
/-- Cycle from which a wait counts: an instruction that goes on waiting, for the same or from one register to the next,
keeps the one at which it began (05 R164). -/
def Strand.waitsFrom (k : Strand) (w : Wait) (cycles : Nat) : Nat :=
  match k.wait with
  | some v => if v = w ∨ ((presenceOf v).isSome ∧ (presenceOf w).isSome) then k.waitSince else cycles
  | none => cycles
/-- The strand is not ready (R126): nothing of the instruction happens, and it issues again. -/
def Ctx.stall (c : Ctx) (w : Wait) : Out :=
  .next { c with w := c.w0, k := { c.k0 with wait := some w, waitSince := c.k0.waitsFrom w c.s.cycles } }.commit

/-- The strand waits with what it has read read: going on, the instruction keeps those values (05 R161). -/
def Ctx.stallRead (c : Ctx) (w : Wait) : Out :=
  .next { c with k := { c.k0 with wait := some w, waitSince := c.k0.waitsFrom w c.s.cycles } }.commit

/-! ## Taking a trap (15 R397 to R408) -/

/-- Whether a strand waits for the values of an operation. -/
def Strand.waitsFor (k : Strand) (op : Nat) : Bool :=
  match k.wait with
  | some (.value o) => o == op
  | some (.values o _ _) => o == op
  | _ => false
/-- A strand that waits no longer, before its instruction: a word ACQ has its slots as they were. -/
def Strand.undone (k : Strand) : Strand :=
  match k.wait with
  | some (.values _ slot old) => { k with slots := k.slots.take slot ++ old ++ k.slots.drop (slot + old.length), wait := none }
  | _ => { k with wait := none }
/-- Whether a strand's CALL or RET has issued and waits for the private word at a peer or the host: no wait of R126. -/
def inCall (s : State) (k : Strand) : Bool :=
  match k.wait with
  | some (.value op) => (opOf s op).any fun o => match o.body with
      | .callWrite .. => true
      | .retRead .. => true
      | _ => false
  | _ => false
/-- A strand as a stop of its warp leaves it: before the instruction that waited. What has issued goes on: a CALL or RET
retires, and an atomic's acquire still ends before the next instruction (R397 step 2; 11 R314). -/
def Strand.stopped (s : State) (k : Strand) : Strand :=
  match k.wait with
  | some (.acquired _) => k
  | _ => if inCall s k then k else { k.undone with em := none, cancelled := none }

/-- The loads of a warp's word ACQs that still wait for them. -/
def fetchesWord (s : State) (warp : Nat) (o : Op) : Bool :=
  o.owner.warp == warp && (match o.body with | .load _ _ _ _ => true | _ => false) &&
    (strandOf s o.owner).any fun k => k.waitsFor o.id
/-- What the waiting instructions of a warp that stops have asked for is given up, since they issue again (15 R397): EMITA's
requests to the record units (13 R364), and the loads of a word ACQ. -/
def dropAsked (s : State) (warp : Nat) : State :=
  let s := if s.ops.any (fetchesWord s warp) then { s with ops := s.ops.filter fun o => !fetchesWord s warp o } else s
  if s.dies.any fun d => d.emitting.any (·.1.warp == warp) then
    { s with dies := s.dies.map fun d => { d with emitting := d.emitting.filter (·.1.warp != warp) } }
  else s

/-- A warp at its strands' instruction boundaries (15 R397 step 2). -/
def Warp.stopped (s : State) (w : Warp) : Warp := { w with strands := w.strands.map (·.stopped s) }

/-- A gang that holds its resources on its cores. -/
def Gang.resident (g : Gang) : Bool :=
  match g.phase with
  | .queued _ _ _ _ => false
  | .retired => false
  | _ => true

/-- A gang that is to end by a fault (15 R408): its running warps stop, each before what its strands wait for, and FRAME_WRITE
forms their frames; the record is written by FAULT_RECORD_WRITE. -/
def terminate (s : State) (gang kind warp : Nat) (nested : Option TrapRec) : State :=
  match gangOf s gang with
  | none => s
  | some g =>
    match g.phase with
    | .terminating _ _ _ => s
    | .recording _ _ => s
    | .retired => s
    | _ =>
      let s := updGang s gang fun g => { g with phase := .terminating kind warp nested }
      let s := ((s.warps.filter fun w => w.gang = gang ∧ w.mode = .running).map (·.uid)).foldl dropAsked s
      { s with warps := s.warps.map fun w =>
          if w.gang = gang then
            match w.mode with
            | .running => { w.stopped s with mode := .ending }
            | _ => w
          else w }

/-- The warp stops with its trap recorded: its strands stand where they are, before what they waited for. An instruction that
issued and trapped is its strand's most recent issue (04 R127), and exempt from the watch check no longer (16 R435). -/
def Warp.stopFor (s : State) (w : Warp) (t : TrapRec) : Warp :=
  { w with mode := .stopping t, forced := false, strands := w.strands.map fun k =>
      let k := k.stopped s
      if k.no = t.strand ∧ t.issued then { k with skipWatch := false, lastIssue := s.cycles } else k }

/-- A trap is taken. In the trap kernel it ends the gang with kind 1 (R405), POISON too (DESIGN CHOICE, log entry 80); elsewhere POISON
ends it with kind 3 (R421); any other stops the warp, whose frame FRAME_WRITE writes (R397). -/
def takeTrap (s : State) (l : Launch) (g : Gang) (w : Warp) (t : TrapRec) : State :=
  let s := crumb s l g w.team w.num w.kernel.isSome (dieOfCore w.core)
    ((lowestLane t.lanes).getD 0) t.strand 1 t.cause t.sub
  if w.kernel.isSome then terminate s g.uid 1 w.uid (some t)
  else
    let s := updWarp (dropAsked s w.uid) w.uid fun w => w.stopFor s t
    if t.cause = causePOISON then terminate s g.uid 3 w.uid none else s

/-- The record of a trap of this instruction. -/
def Ctx.record (c : Ctx) (cause sub : Nat) (addr : DWord) (lanes : Mask) : TrapRec :=
  { strand := c.no, cause, sub, addr, lanes, value := c.value, remote := false,
    name := nameIn c.l c.g c.w0 ((lowestLane lanes).getD 0) }

/-- The instruction traps: it retires in no lane. -/
def Ctx.trap (c : Ctx) (cause sub : Nat) (addr : DWord) (lanes : Mask) : Out :=
  .next (takeTrap c.s c.l c.g c.w0 (c.record cause sub addr lanes))
/-- A strand's wait ends in a trap: its instruction has not issued. -/
def Ctx.waitTraps (c : Ctx) (cause sub : Nat) (addr : DWord) (lanes : Mask) : Out :=
  .next (takeTrap c.s c.l c.g c.w0 { c.record cause sub addr lanes with issued := false })

/-- A trap whose fault address the spec does not lay down: a free value (log entry 10). -/
def Ctx.trapFree (c : Ctx) (cause sub : Nat) (lanes : Mask) : Out :=
  c.trap cause sub (Config.freeAddress c.s.fresh) lanes

/-- A decode trap or PRIV (R70). -/
def Ctx.decodeTrap (c : Ctx) (cause sub : Nat) : Out :=
  c.trap cause sub (c.addr.setWidth 64) c.here

/-- Instructions that a trap kernel may not use (R403). -/
def Ctx.notInKernel (c : Ctx) (f : Out) : Out := if c.handler then c.decodeTrap causeILLEGAL 2 else f
/-- Instructions for the trap kernel alone (R411). -/
def Ctx.onlyInKernel (c : Ctx) (f : Out) : Out := if c.handler then f else c.decodeTrap causeILLEGAL 2

/-! ## General and uniform registers (05 R156, R159 to R163) -/

def bit16 (m : BitVec 16) (i : Nat) : Bool := m.getLsbD i

/-- Writer (255: unused) and readers of a register: gn is n, sn is 64 + n. -/
def NodeEntry.reg (n : NodeEntry) (r : Nat) : Nat × BitVec 16 := (n.regs[r]?).getD (255, 0)

/-- Whether a register is declared for a strand of the cluster. -/
def usesCluster (cluster : Nat) (r : Nat × BitVec 16) : Bool :=
  (decide (r.1 ≠ 255) && decide (r.1 % 8 = cluster)) || bit16 r.2 cluster || bit16 r.2 (cluster + 8)
/-- Whether register group j is a used group on the cluster. -/
def NodeEntry.groupUsed (n : NodeEntry) (cluster j : Nat) : Bool :=
  (n.regs.drop (8 * j)).take 8 |>.any (usesCluster cluster)
/-- Whether gr has a copy on the cluster (R156). -/
def NodeEntry.hasCopy (n : NodeEntry) (cluster r : Nat) : Bool :=
  n.groupUsed cluster (r / 8) &&
    decide (((List.range (r / 8)).filter (n.groupUsed cluster)).length < (n.granules[cluster]?).getD 0)

/-- A broken register access: place in R163's order, subcode, fault address. -/
structure RegFault where
  order : Nat
  sub : Nat
  addr : Nat
  deriving DecidableEq, Repr

def Ctx.gFault (c : Ctx) (write : Bool) (r : Nat) : Option RegFault :=
  let d := c.n.reg r
  if 64 ≤ r then some ⟨1, 0, r⟩
  else if write && d.1 != c.no then some ⟨2, 2, r⟩
  else if !write && !bit16 d.2 c.no then some ⟨2, 1, r⟩
  else if !c.n.hasCopy c.cluster r then some ⟨3, 0, r⟩
  else none
def Ctx.sFault (c : Ctx) (write : Bool) (r : Nat) : Option RegFault :=
  let d := c.n.reg (64 + r)
  if write && d.1 != c.no then some ⟨2, 2, 64 + r⟩
  else if !write && !bit16 d.2 c.no then some ⟨2, 1, 64 + r⟩
  else none

/-- Full[r][strand], Seen[r][strand]. -/
def Warp.isFull (w : Warp) (r strand : Nat) : Bool := bit16 ((w.full[r]?).getD 0) strand
def Warp.hasSeen (w : Warp) (r strand : Nat) : Bool := bit16 ((w.seen[r]?).getD 0) strand
def bitMask16 (i : Nat) : BitVec 16 := 1#16 <<< i

/-- A last-use read empties the reader's copy; the writer's own bit stays (R159). -/
def Warp.consume (w : Warp) (r strand writer : Nat) : Warp :=
  if strand = writer then w
  else { w with full := w.full.set r ((w.full[r]?).getD 0 &&& ~~~bitMask16 strand) }
def Warp.see (w : Warp) (r strand : Nat) : Warp :=
  { w with seen := w.seen.set r ((w.seen[r]?).getD 0 ||| bitMask16 strand) }

/-- G[r][l] and S[r] as the instruction found them. -/
def Ctx.gReg (c : Ctx) (r : Nat) : Lanes Word := (c.w0.gregs[r]?).getD (List.replicate 64 0)
def Ctx.gLane (c : Ctx) (r l : Nat) : Word := lane 0 (c.gReg r) l
def Ctx.sReg (c : Ctx) (r : Nat) : Word := (c.w0.sregs[r]?).getD 0
/-- The 64-bit value of the uniform pair that sb names (R64). -/
def Ctx.sPair (c : Ctx) (sb : Nat) : DWord := DWord.ofPair (c.sReg (2 * sb)) (c.sReg (2 * sb + 1))

/-- Reads of general registers (with last use) and uniform registers: the declarations and copies of all of them are
checked, then all wait to be full, then the bits change (R159, R161, R163). Of several registers that fail the same check the
general ones are named before the uniform ones, and each in the order listed (DESIGN CHOICE, log entry 55). -/
def Ctx.access (c : Ctx) (gs : List (Nat × Bool)) (ss : List Nat) (f : Ctx → Out) : Out :=
  match leastBy RegFault.order (gs.filterMap (fun g => c.gFault false g.1) ++ ss.filterMap (c.sFault false)) with
  | some x => c.trap causeREGBOUNDS x.sub (BitVec.ofNat 64 x.addr) c.exec
  | none =>
    match gs.find? fun g => !c.w0.isFull g.1 c.no with
    | some g => c.stall (.readReg g.1)
    | none =>
      let w := gs.foldl (fun w g => if g.2 then w.consume g.1 c.no (c.n.reg g.1).1 else w) c.w
      f { c with w := ss.foldl (fun w r => w.see r c.no) w }

/-- The strands among a register's readers. -/
def readersOf (m : BitVec 16) : List Nat := (List.range 16).filter (bit16 m)
/-- Whether a strand of the warp no longer waits to be read by (R145). -/
def Warp.readerDone (w : Warp) (r : Nat) : Bool :=
  match w.strands.find? (·.no == r) with
  | some k => k.isDone w.launched
  | none => true
/-- A reader that a publish need not wait for: a done strand, or under a trap kernel any strand but its own. -/
def Ctx.ignores (c : Ctx) (q : Nat) : Bool := if c.handler then q != 0 else c.w0.readerDone q

/-- PUT's wait holds: every reader's copy is empty, other than the writer's and done strands' (R159). -/
def Ctx.canPublish (c : Ctx) (r : Nat) : Bool :=
  (readersOf (c.n.reg r).2).all fun q => q == c.no || c.ignores q || !c.w0.isFull r q
/-- PUTS's wait holds (R161). -/
def Ctx.canPublishUniform (c : Ctx) (r : Nat) : Bool :=
  (readersOf (c.n.reg (64 + r)).2).all fun q => c.ignores q || c.w0.hasSeen r q

/-! ## Counters (04 R133, R134) -/

inductive CounterClass
  | ld | st | cp | mx
  deriving DecidableEq, Repr

def Strand.counter (k : Strand) : CounterClass → List Counted
  | .ld => k.ld
  | .st => k.st
  | .cp => k.cp
  | .mx => k.mx
def Strand.setCounter (k : Strand) (cl : CounterClass) (v : List Counted) : Strand :=
  match cl with
  | .ld => { k with ld := v }
  | .st => { k with st := v }
  | .cp => { k with cp := v }
  | .mx => { k with mx := v }
def CounterClass.max : CounterClass → Nat
  | .ld => 63
  | .st => 63
  | .cp => 15
  | .mx => 7
def Strand.count (k : Strand) (cl : CounterClass) : Nat := (k.counter cl).length

/-- Marks an operation complete; the counter falls past its completed oldest entries. -/
def countDone (op : Nat) (l : List Counted) : List Counted :=
  (l.map fun e => if e.op = op then { e with done := true } else e).dropWhile (·.done)
def Strand.complete (k : Strand) (op : Nat) : Strand :=
  { k with ld := countDone op k.ld, st := countDone op k.st, cp := countDone op k.cp, mx := countDone op k.mx }
/-- The bounds of a WAITC hold (R150). -/
def Strand.countersWithin (k : Strand) (ld st cp mx : Nat) : Bool :=
  decide (k.ld.length ≤ ld) && decide (k.st.length ≤ st) && decide (k.cp.length ≤ cp) && decide (k.mx.length ≤ mx)
/-- The counters word (R135). -/
def Strand.counterWord (k : Strand) : Nat :=
  k.ld.length + 64 * k.st.length + 4096 * k.cp.length + 65536 * k.mx.length

/-! ## Engine queues (04 R136 to R139) -/

def coreOfWarp (s : State) (w : Nat) : Option Nat := (warpOf s w).map (·.core)

/-- Entries that a queue of a core holds. -/
def occupancy (s : State) (core : Nat) (q : EngineQueue) : Nat :=
  match q with
  | .em => ((dieOf s (dieOfCore core)).emitting.filter fun e =>
      e.2 && coreOfWarp s e.1.warp == some core && (strandOf s e.1).any fun k => k.wait == some .records).length +
      ((s.warps.filter (·.core == core)).map fun w =>
        ((w.strands ++ w.kernel.toList).filter (·.em == some true)).length).foldl (· + ·) 0
  | _ => (s.ops.filter fun o => o.queued == some q && coreOfWarp s o.owner.warp == some core).length

def queueIndex : EngineQueue → Nat
  | .mx => 0
  | .cp => 1
  | .st => 2
  | .em => 3
def allQueues : List EngineQueue := [.mx, .cp, .st, .em]
def queueLimit (s : State) (core : Nat) (q : EngineQueue) : Nat × Nat :=
  ((coreOf s core).eqlim[queueIndex q]?).getD (160, 48)

/-- R137: whether a request of queue q is granted. -/
def queueGrants (s : State) (core : Nat) (q : EngineQueue) : Bool :=
  let occ := occupancy s core
  let cap := (queueLimit s core q).1
  let min_ := (queueLimit s core q).2
  let used := (allQueues.map occ).foldl (· + ·) 0
  let short := ((allQueues.filter (· != q)).map fun r => (queueLimit s core r).2 - occ r).foldl (· + ·) 0
  decide (occ q < min_) || (decide (occ q < cap) && decide (short < 256 - used))

/-- Whether an instruction may raise a counter and take a queue entry: else what it waits for. -/
def Ctx.grantWait (c : Ctx) (cl : Option CounterClass) (q : Option EngineQueue) : Option Wait :=
  if (match cl with | some cl => decide (cl.max ≤ c.k0.count cl) | none => false) then some .counterMax
  else match q with
    | some q => if queueGrants c.s c.w0.core q then none else some (.engineQueue q)
    | none => none

/-- A new operation of the strand, counted in a class, with the queue entry it holds. -/
def Ctx.start (c : Ctx) (cl : Option CounterClass) (q : Option EngineQueue) (body : OpBody) : Ctx :=
  let id := c.s.nextId
  let k := match cl with
    | some cl => c.k.setCounter cl (c.k.counter cl ++ [{ op := id, done := false }])
    | none => c.k
  { c with
    k
    s := { c.s with nextId := id + 1, ops := c.s.ops ++ [
      { id, owner := c.ref, value := c.value, exec := c.exec, queued := q, cancelled := none, steps := [], body }] } }

/-- An engine operation: the waits of R126, then f with it started. -/
def Ctx.issue (c : Ctx) (cl : CounterClass) (q : Option EngineQueue) (body : OpBody) : Out :=
  match c.grantWait (some cl) q with
  | some w => c.stall w
  | none => (c.start (some cl) q body).retire

/-! ## Special registers of the lane (05 R172) -/

def stackOf (l : Launch) (w : Warp) (i : Nat) : DWord := w.stack + BitVec.ofNat 64 (i * l.privBytes)

/-- The lane's work identifier (01 R21). -/
def widOf (l : Launch) (w : Warp) (i : Nat) : Nat :=
  let b j := (l.widths.take j).foldl (· + ·) 0
  let free := lane 0 w.free i % 2 ^ (b 6 - b 3)
  i + w.num * 2 ^ b 1 + w.team * 2 ^ b 2 + free * 2 ^ b 3
/-- Field j of the work identifier. -/
def fieldOf (l : Launch) (w : Warp) (i j : Nat) : Nat :=
  let b j := (l.widths.take j).foldl (· + ·) 0
  widOf l w i / 2 ^ b j % 2 ^ ((l.widths[j]?).getD 0)

/-- The constant of R97. -/
def seedConstant : DWord := 0x9E3779B97F4A7C15#64
def seedFor (l : Launch) (w : Warp) (strand : Nat) : DWord :=
  seedConstant ^^^ (l.number.setWidth 64 <<< 48) ^^^ (BitVec.ofNat 64 (widOf l w 0) <<< 4) ^^^ BitVec.ofNat 64 strand

end Sys2Proof.Machine
end

