-- ==== Sys2Proof/Machine/Flags.lean ====
section
/-! DEFINITION. Floating-point status of a strand: rounding mode, flush to zero, the stochastic generator, sticky flags
and trap enables, and the frame every floating-point instruction runs in (spec/03_numbers.md R93 to R100;
spec/06_slot_arith.md R185, R194). -/

namespace Sys2Proof.Machine

/-- The rounding mode of an instruction whose rounding field is code (R55, R93). -/
def Ctx.rounding (c : Ctx) (code : Nat) : Rm := if code = 0 then Rm.ofCode c.k0.mode.toNat else Rm.ofCode code
/-- Rounding and flush fields of an LR form's m (R55). -/
def lrRound (f : LR) : Nat := f.m.toNat / 2
def Ctx.lrFtz (c : Ctx) (f : LR) : Bool := f.m.getLsbD 0 || c.k0.ftz

/-- n draws from a generator state, in order, and the state after them (R96). -/
def drawList : Nat → DWord → List Nat × DWord
  | 0, x => ([], x)
  | n + 1, x =>
    let x' := rngStep x
    let (us, x'') := drawList n x'
    (rngDraw x' :: us, x'')

/-- The draws of each lane, ascending, n for each lane of the set. -/
def laneDraws (m : Mask) (n : Nat) : List Nat → DWord → List (List Nat) × DWord
  | [], x => ([], x)
  | l :: ls, x =>
    if m.getLsbD l then
      let (us, x') := drawList n x
      let (rest, x'') := laneDraws m n ls x'
      (us :: rest, x'')
    else
      let (rest, x') := laneDraws m n ls x
      ([] :: rest, x')

/-- Draws for an instruction with n result elements a lane: a generator step for each under .rs, else none (R96). -/
def Ctx.draws (c : Ctx) (rm : Rm) (n : Nat) : Lanes (List Nat) × DWord :=
  if rm = .rs then laneDraws c.exec n lanes64 c.k0.rseed else (List.replicate 64 [], c.k0.rseed)

/-- Lanes of a list of flags that hold one exception. -/
def flagLanes (fl : Lanes Flags) (e : Nat) : Mask := maskOf fun l => (lane 0 fl l).getLsbD e
/-- All exceptions raised. -/
def flagUnion (fl : Lanes Flags) : Flags := fl.foldl (· ||| ·) 0
/-- The exception that traps first: the lowest enabled bit. -/
def firstTrap (raised enabled : Flags) : Option Nat := (List.range 5).find? fun e => (raised &&& enabled).getLsbD e

/-- R100: the exceptions of an instruction's lanes, and what follows when none of them traps. FP carries no fault address, which is
then 0 (19 R466). -/
def Ctx.exceptions (c : Ctx) (fl : Lanes Flags) (f : Ctx → Out) : Out :=
  match firstTrap (flagUnion fl) c.k0.excmask with
  | some e => c.trap causeFP e 0 (flagLanes fl e)
  | none => f { c with k := { c.k with fpflags := c.k.fpflags ||| flagUnion fl } }

/-- The floating-point frame: each lane of Exec computes a value from its draws; then R100; then the values are
written and the generator keeps its steps. -/
def Ctx.fpFrame (c : Ctx) (rm : Rm) (n : Nat) (op : Nat → List Nat → Nat × Flags) (write : Ctx → (Nat → Nat) → Ctx) : Out :=
  let (us, seed) := c.draws rm n
  let res : Lanes (Nat × Flags) := lanes64.map fun l => if c.exec.getLsbD l then op l (lane [] us l) else (0, 0)
  c.exceptions (res.map (·.2)) fun c =>
    let c := write c fun l => (lane (0, 0) res l).1
    { c with k := { c.k with rseed := seed } }.retire

/-- A slot written with 32-bit results. -/
def writeWord (i : Nat) (c : Ctx) (v : Nat → Nat) : Ctx := c.setSlot i fun l => BitVec.ofNat 32 (v l)
def writePair (i : Nat) (c : Ctx) (v : Nat → Nat) : Ctx := c.setPair i fun l => BitVec.ofNat 64 (v l)

/-- One FP32 result a lane, rounded from the exact result of its operation (R185). -/
def Ctx.fp32Op (c : Ctx) (rm : Rm) (ftz : Bool) (d : Nat) (op : Nat → Exact) : Out :=
  c.fpFrame rm 1 (fun l us => fp32.result rm ((us[0]?).getD 0) ftz (op l)) (writeWord d)

/-- An FP32 input, flushed where flush to zero is in force (R91). -/
def fpIn (ftz : Bool) (w : Word) : Val := unpackFlush ftz fp32 w.toNat

/-- The two halves of a packed pair, each rounded in a 16-bit format with subnormals kept (R194). -/
def Ctx.packedOp (c : Ctx) (fm : Fmt) (rm : Rm) (d : Nat) (op : Nat → Nat → Exact) : Out :=
  c.fpFrame rm 2
    (fun l us =>
      let lo := fm.result rm ((us[0]?).getD 0) false (op l 0)
      let hi := fm.result rm ((us[1]?).getD 0) false (op l 1)
      (lo.1 + 65536 * hi.1, lo.2 ||| hi.2))
    (writeWord d)

/-- Half h of a word. -/
def half (w : Word) (h : Nat) : Nat := w.toNat / 65536 ^ h % 65536
def halfIn (fm : Fmt) (w : Word) (h : Nat) : Val := fm.unpack (half w h)

end Sys2Proof.Machine
end

