-- ==== Sys2Proof/Machine/Operands.lean ====
section
/-! DEFINITION. Operand forms: how each instruction format names its registers and immediates (spec/02_encoding.md
R47 to R67), and the arithmetic shapes built on them (spec/06_slot_arith.md R175). -/

namespace Sys2Proof.Machine

/-- The general register of an LR or LC form: g, or g + ix with X = 1 (R50). -/
def Ctx.lrReg (c : Ctx) (f : LR) : Nat := if f.x then f.g.toNat + c.k0.ix.toNat else f.g.toNat

/-- An S16 form that reads gG. -/
def withShort (i : Instr) (f : S16) (s : State) (body : Ctx → Out) : Out :=
  withStrand i none s fun c => c.access [(f.g.toNat, false)] [] body
/-- An S16 form that reads sS in [4:0]. -/
def withShortU (i : Instr) (f : S16) (s : State) (body : Ctx → Out) : Out :=
  withStrand i none s fun c => c.access [] [f.g.toNat % 32] body
/-- An LR or LC form that reads its general register. -/
def withLR (i : Instr) (f : LR) (s : State) (body : Ctx → (Nat → Word) → Out) : Out :=
  withStrand i (some f.gd) s fun c => c.access [(c.lrReg f, f.l)] [] fun c => body c (c.gLane (c.lrReg f))
/-- An LR form that reads the register pair gN:gN+1. -/
def withLRPair (i : Instr) (f : LR) (s : State) (body : Ctx → (Nat → DWord) → Out) : Out :=
  withStrand i (some f.gd) s fun c => c.access [(f.g.toNat, f.l), (f.g.toNat + 1, f.l)] [] fun c =>
    body c fun l => DWord.ofPair (c.gLane f.g.toNat l) (c.gLane (f.g.toNat + 1) l)
/-- An LR or LC form that reads no general register. -/
def withLR0 (i : Instr) (f : LR) (s : State) (body : Ctx → Out) : Out := withStrand i (some f.gd) s body
/-- The guard of an LS form (R52). -/
def lsGuard (f : LS) : Guard := { p := 0, n := f.n, e := f.e }
/-- An LS form that reads sS, and gG where reg says so. -/
def withLS (i : Instr) (f : LS) (reg : Bool) (s : State) (body : Ctx → Out) : Out :=
  withStrand i (some (lsGuard f)) s fun c => c.access (if reg then [(f.g.toNat, false)] else []) [f.u.toNat] body
/-- An LI form. -/
def withLI (i : Instr) (s : State) (body : Ctx → Out) : Out := withStrand i none s body

/-! ## Shapes -/

/-- Slot d from slots a and d and gG, lane by lane: S16. -/
def shortOp (i : Instr) (f : S16) (s : State) (op : Word → Word → Word → Word) : Out :=
  withShort i f s fun c =>
    (c.setSlot f.d.toNat fun l => op (c.slot f.d.toNat l) (c.slot f.a.toNat l) (c.gLane f.g.toNat l)).retire
/-- The same in LR form. -/
def longOp (i : Instr) (f : LR) (s : State) (op : Word → Word → Word → Word) : Out :=
  withLR i f s fun c g =>
    (c.setSlot f.d.toNat fun l => op (c.slot f.d.toNat l) (c.slot f.a.toNat l) (g l)).retire
/-- Slot d from slot a alone, in LR form (R182). -/
def unaryOp (i : Instr) (f : LR) (s : State) (op : Word → Word) : Out :=
  withLR0 i f s fun c => (c.setSlot f.d.toNat fun l => op (c.slot f.a.toNat l)).retire
/-- Slot d from slot a and an immediate. -/
def immOp (i : Instr) (f : LI) (s : State) (op : Word → Word) : Out :=
  withLI i s fun c => (c.setSlot f.d.toNat fun l => op (c.slot f.a.toNat l)).retire

/-- Immediates of LI and S16 forms. -/
def liSext (f : LI) : Word := f.imm.signExtend 32
def liZext (f : LI) : Word := f.imm.setWidth 32
def shortImm (f : S16) : Word := f.g.signExtend 32

/-- FP32 forms: d, a and gG as inputs of an exact operation, in S16 form. -/
def shortFp (i : Instr) (f : S16) (s : State) (op : Rm → Val → Val → Val → Exact) : Out :=
  withShort i f s fun c =>
    let rm := c.rounding 0
    c.fp32Op rm c.k0.ftz f.d.toNat fun l =>
      op rm (fpIn c.k0.ftz (c.slot f.d.toNat l)) (fpIn c.k0.ftz (c.slot f.a.toNat l)) (fpIn c.k0.ftz (c.gLane f.g.toNat l))
/-- The same with a uniform operand. -/
def shortFpU (i : Instr) (f : S16) (s : State) (op : Rm → Val → Val → Val → Exact) : Out :=
  withShortU i f s fun c =>
    let rm := c.rounding 0
    let u := fpIn c.k0.ftz (c.sReg (f.g.toNat % 32))
    c.fp32Op rm c.k0.ftz f.d.toNat fun l =>
      op rm (fpIn c.k0.ftz (c.slot f.d.toNat l)) (fpIn c.k0.ftz (c.slot f.a.toNat l)) u
/-- LR form. -/
def longFp (i : Instr) (f : LR) (s : State) (op : Rm → Val → Val → Val → Exact) : Out :=
  withLR i f s fun c g =>
    let rm := c.rounding (lrRound f)
    let z := c.lrFtz f
    c.fp32Op rm z f.d.toNat fun l => op rm (fpIn z (c.slot f.d.toNat l)) (fpIn z (c.slot f.a.toNat l)) (fpIn z (g l))
/-- LR form with one operand. -/
def unaryFp (i : Instr) (f : LR) (s : State) (op : Val → Exact) : Out :=
  withLR0 i f s fun c =>
    let z := c.lrFtz f
    c.fp32Op (c.rounding (lrRound f)) z f.d.toNat fun l => op (fpIn z (c.slot f.a.toNat l))
/-- LS form: gG read where reg says so, else its value is not used. -/
def uniformFp (i : Instr) (f : LS) (reg : Bool) (s : State) (op : Rm → Val → Val → Val → Val → Exact) : Out :=
  withLS i f reg s fun c =>
    let rm := c.rounding f.m.toNat
    let z := c.k0.ftz
    let u := fpIn z (c.sReg f.u.toNat)
    c.fp32Op rm z f.d.toNat fun l =>
      op rm (fpIn z (c.slot f.d.toNat l)) (fpIn z (c.slot f.a.toNat l)) (fpIn z (c.gLane f.g.toNat l)) u
/-- LI form with a BF16 immediate widened to FP32 (R63). -/
def immFp (i : Instr) (f : LI) (s : State) (op : Rm → Val → Val → Val → Exact) : Out :=
  withLI i s fun c =>
    let rm := c.rounding 0
    let z := c.k0.ftz
    let v := fpIn z (f.imm ++ 0#16)
    c.fp32Op rm z f.d.toNat fun l => op rm (fpIn z (c.slot f.d.toNat l)) (fpIn z (c.slot f.a.toNat l)) v

/-- Packed pairs in a format, LR and S16. -/
def longPacked (i : Instr) (f : LR) (fm : Fmt) (s : State) (op : Rm → Val → Val → Val → Exact) : Out :=
  withLR i f s fun c g =>
    let rm := c.rounding (lrRound f)
    c.packedOp fm rm f.d.toNat fun l h =>
      op rm (halfIn fm (c.slot f.d.toNat l) h) (halfIn fm (c.slot f.a.toNat l) h) (halfIn fm (g l) h)
def shortPacked (i : Instr) (f : S16) (fm : Fmt) (s : State) (op : Rm → Val → Val → Val → Exact) : Out :=
  withShort i f s fun c =>
    let rm := c.rounding 0
    c.packedOp fm rm f.d.toNat fun l h =>
      op rm (halfIn fm (c.slot f.d.toNat l) h) (halfIn fm (c.slot f.a.toNat l) h) (halfIn fm (c.gLane f.g.toNat l) h)

/-- FMIN and FMAX (R188), and a comparison's push with its exceptions (R146). -/
def Ctx.minMaxOp (c : Ctx) (max ftz : Bool) (d a : Nat) (g : Nat → Word) : Out :=
  c.fpFrame .rn 1 (fun l _ => fp32.minMax max ftz (c.slot a l).toNat (g l).toNat) (writeWord d)
def Ctx.comparePush (c : Ctx) (cond : Nat) (ftz : Bool) (a : Nat) (g : Nat → Word) : Out :=
  let va l := fpIn ftz (c.slot a l)
  let vb l := fpIn ftz (g l)
  c.exceptions (lanes64.map fun l => if c.exec.getLsbD l && ((va l).isSNaN || (vb l).isSNaN) then flagNV else 0) fun c =>
    (c.push fun l => fcmpHolds cond (va l) (vb l)).retire

/-- Integer conditions (02 R58): signed for codes 2 to 5, unsigned for 6 to 9. -/
def icmpHolds (cond : Nat) (a b : Word) : Bool :=
  match cond with
  | 0 => a == b
  | 1 => a != b
  | 2 => a.slt b
  | 3 => a.sle b
  | 4 => b.slt a
  | 5 => b.sle a
  | 6 => a.ult b
  | 7 => a.ule b
  | 8 => b.ult a
  | _ => b.ule a

/-! ## Addresses of memory operands -/

/-- The effective address of lane l: base pair + zext(G[g][l]) + offset, modulo 2^64 (R64, 10 R294). -/
def Ctx.address (c : Ctx) (sb g off l : Nat) : DWord :=
  c.sPair sb + (c.gLane g l).setWidth 64 + BitVec.ofNat 64 off
/-- The registers of an address: gG and the base pair. -/
def Ctx.withAddress (c : Ctx) (sb g : Nat) (f : Ctx → Out) : Out := c.access [(g, false)] [2 * sb, 2 * sb + 1] f

end Sys2Proof.Machine
end

