-- ==== Sys2Proof/Machine/AtomicOps.lean ====
section
/-! DEFINITION. The arithmetic of atomics: one step on a location, and the merge of lanes that share one
(spec/03_numbers.md R118; spec/11_ordering.md R313, R314, R316). -/

namespace Sys2Proof.Machine

/-- Access size of a type code: 8 bytes for types 2 and 3 (R313). -/
def atomBytes (ty : Nat) : Nat := if ty = 2 ∨ ty = 3 then 8 else 4

/-- A floating-point step in a format: subnormals kept, canonical NaNs, no flags. -/
def floatStep (f : Fmt) (op o v : Nat) : Nat :=
  match op with
  | 9 => (f.result .rn 0 false ((f.unpack o).add .rn (f.unpack v))).1
  | 10 => (f.minMax false false o v).1
  | _ => (f.minMax true false o v).1

/-- An integer step of a width and signedness, on values below 2^w (R313). -/
def intStep (w : Nat) (signed : Bool) (op o v cmp : Nat) : Nat :=
  let flip (x : Nat) : Nat := if signed then (x + 2 ^ (w - 1)) % 2 ^ w else x
  match op with
  | 0 => (o + v) % 2 ^ w
  | 1 => if flip v < flip o then v else o
  | 2 => if flip o < flip v then v else o
  | 3 => o &&& v
  | 4 => o ||| v
  | 5 => o ^^^ v
  | 6 => v
  | 7 => if v ≤ o then 0 else (o + 1) % 2 ^ w
  | 8 => if o = 0 ∨ v < o then v else o - 1
  | _ => if o = cmp then v else o

/-- One half of a pair type: exch replaces it, the floating-point operations step it. -/
def halfStep (f : Fmt) (op o v : Nat) : Nat := if op = 6 then v else floatStep f op o v

/-- One step on a location: old value o, operand v, compare value cmp; hm names the halves of a pair type,
whose steps are taken together (R316; DEDUCED, log entry 69). -/
def atomStep (op ty hm o v cmp : Nat) : Nat :=
  match ty with
  | 0 => intStep 32 true op o v cmp
  | 1 => intStep 32 false op o v cmp
  | 2 => intStep 64 true op o v cmp
  | 3 => intStep 64 false op o v cmp
  | 4 => if op = 6 then v else if op = 12 then (if o = cmp then v else o) else floatStep fp32 op o v
  | t =>
    let f := if t = 5 then bf16 else fp16
    let lo := if hm % 2 = 1 then halfStep f op (o % 65536) (v % 65536) else o % 65536
    let hi := if hm / 2 % 2 = 1 then halfStep f op (o / 65536) (v / 65536) else o / 65536
    lo + 65536 * hi

/-- Operations whose lanes merge (R118); the others apply lane by lane. -/
def atomMerges (op : Nat) : Bool := decide (op ≤ 5) || (decide (9 ≤ op) && decide (op ≤ 11))

/-- The lanes of one address applied to its old value: the new value, and what each lane returns, ascending. Lanes
are (operand, compare value). -/
def atomLanes (op ty hm o : Nat) (vs : List (Nat × Nat)) : Nat × List Nat :=
  if atomMerges op then
    match vs with
    | [] => (o, [])
    | (v0, _) :: rest =>
      let (m, rets) := rest.foldl (fun (acc : Nat × List Nat) v =>
        (atomStep op ty hm acc.1 v.1 0, acc.2 ++ [atomStep op ty hm o acc.1 0])) (v0, [o])
      (atomStep op ty hm o m 0, rets)
  else
    vs.foldl (fun (acc : Nat × List Nat) v => (atomStep op ty hm acc.1 v.1 v.2, acc.2 ++ [acc.1])) (o, [])

/-- The class of an operation in an UP word's opmask (12 R332). -/
def opmaskBit (op : Nat) : Nat :=
  match op with
  | 0 => 0
  | 1 => 2
  | 2 => 2
  | 3 => 1
  | 4 => 1
  | 5 => 1
  | 7 => 5
  | 8 => 5
  | 9 => 3
  | _ => 4

end Sys2Proof.Machine
end

