-- ==== Sys2Proof/Machine/Engine.lean ====
section
/-! DEFINITION. Buffers and tiles as data, and what the matrix engine's outstanding operations and the writes made meanwhile do
to a tile (spec/07_buffers.md R207; spec/08_matrix.md R228 to R231, R237, R239 to R241; spec/15_traps.md R420). -/

namespace Sys2Proof.Machine

/-! ## A team's buffers (07 R207) -/

def Buffer.byte (b : Buffer) (o : Nat) : Byte := BitVec.ofNat 8 (tget 0 b.bytes o)
def Buffer.read (b : Buffer) (o n : Nat) : List Byte := (countFrom o n).map b.byte
def Buffer.write (b : Buffer) (o : Nat) (bs : List Byte) : Buffer :=
  { b with bytes := (bs.zipIdx).foldl (fun t x => tput 0 t (o + x.2) x.1.toNat) b.bytes }
def Buffer.poisoned (b : Buffer) (o : Nat) : Bool := b.poison.contains (o / 64)
/-- A whole line written, with its tag and its poison mark. -/
def Buffer.setMark (b : Buffer) (o : Nat) (p : Bool) : Buffer :=
  { b with poison := if p then insertNat (o / 64) b.poison else b.poison.filter (· != o / 64) }
/-- Tag of the line that holds an offset. -/
def Buffer.tag (b : Buffer) (o : Nat) : Tag := BitVec.ofNat 16 (tget 0 b.tags (o / 64))
def Buffer.setTag (b : Buffer) (o : Nat) (t : Tag) : Buffer := { b with tags := tput 0 b.tags (o / 64) t.toNat }

/-- A team's W (wbuf) or A. -/
def Team.buf (t : Team) (wbuf : Bool) : Buffer := if wbuf then t.w else t.a
def Team.setBuf (t : Team) (wbuf : Bool) (b : Buffer) : Team := if wbuf then { t with w := b } else { t with a := b }
def updTeam (s : State) (gang team : Nat) (f : Team → Team) : State :=
  updGang s gang fun g => { g with teams := g.teams.modify team f }

/-! ## Tiles (R228 to R231) -/

/-- A tile's elements by 64 r + c, those that are not 0. -/
abbrev Tile := Table Nat
def Tile.at (t : Tile) (r c : Nat) : Nat := tget 0 t (64 * r + c)
def Tile.put (t : Tile) (r c v : Nat) : Tile := tput 0 t (64 * r + c) (v % 2 ^ 32)

/-- Place f of a warp's allotment on a cluster. -/
def Warp.tile (w : Warp) (cluster f : Nat) : Tile :=
  match (w.tiles.filter (·.1 == cluster))[f]? with
  | some (_, t) => t
  | none => []
def setTileIn (cluster : Nat) (t : Tile) : Nat → List (Nat × Tile) → List (Nat × Tile)
  | _, [] => []
  | f, (k, x) :: r =>
    if k = cluster then
      match f with
      | 0 => (k, t) :: r
      | f + 1 => (k, x) :: setTileIn cluster t f r
    else (k, x) :: setTileIn cluster t f r
def Warp.setTile (w : Warp) (cluster f : Nat) (t : Tile) : Warp := { w with tiles := setTileIn cluster t f w.tiles }
/-- A frame's place in the list. -/
def tileIndex (cluster : Nat) : Nat → List (Nat × Tile) → Nat
  | _, [] => 0
  | f, (k, _) :: r => if k = cluster then (match f with | 0 => 0 | f + 1 => tileIndex cluster f r + 1) else tileIndex cluster f r + 1
def Warp.place (w : Warp) (cluster f : Nat) : Nat := tileIndex cluster f w.tiles
/-- A line of a tile: 16 elements of a row. -/
def tileLine (r c : Nat) : Nat := 4 * r + c / 16
/-- Marks of a frame's lines that go as whole lines are written (15 R421): columns of each row. -/
def Warp.clearTile (w : Warp) (cluster f : Nat) (rows cols : List Nat) : Warp :=
  if w.tilePoison.isEmpty then w
  else
    let p := w.place cluster f
    let whole (q : Nat) : Bool := (countFrom (16 * q) 16).all cols.contains
    { w with tilePoison := w.tilePoison.filter fun x => !(x.1 == p && rows.contains (x.2 / 4) && whole (x.2 % 4)) }
/-- Rows with a marked line. -/
def Warp.markedRows (w : Warp) (cluster f : Nat) (rows : List Nat) : List Nat :=
  if w.tilePoison.isEmpty then []
  else rows.filter fun r => w.tilePoison.any fun x => x.1 == w.place cluster f && x.2 / 4 == r

/-! ## Operands as the engine reads them (R115, R117, R232, R236, R241) -/

/-- Bytes of k elements of a format. -/
def spanOf (fmt k : Nat) : Nat := k * fmtBits fmt / 8

def kOf (f : MmaF) : Nat := 32 * f.kn.toNat
/-- Elements in bytes from an offset, each with its block's scale exponent, under the tags read at issue. -/
def operand (fmt : Nat) (tags : List (Nat × Nat)) (off : Nat) (bs : List Byte) : List (Val × Int) :=
  (List.range (bs.length / 64)).flatMap fun j =>
    let t : Tag := match tags.find? (·.1 == off / 64 + j) with
      | some (_, t) => BitVec.ofNat 16 t
      | none => 0
    (elemsOf fmt ((bs.drop (64 * j)).take 64)).map fun e => (elemVal fmt e, t.scaleExp)

/-- A row of A or a column of W as an MMA finds it: its bytes at issue and now, and its elements where they agree. -/
structure Strip where
  wbuf : Bool
  fmt : Nat
  tags : List (Nat × Nat)
  off : Nat
  old : List Byte
  new : List Byte
  shared : Option (List (Val × Int))
  deriving DecidableEq
def stripOf (wbuf : Bool) (fmt : Nat) (tags : List (Nat × Nat)) (off k : Nat) (b b' : Buffer) : Strip :=
  let old := b.read off (spanOf fmt k)
  let new := b'.read off (spanOf fmt k)
  { wbuf, fmt, tags, off, old, new, shared := if old = new then some (operand fmt tags off old) else none }
/-- Its elements as they are read for one element of the tile: each word is the old or the new one (R241), a free choice (log
entry 68). -/
def Strip.elems (x : Strip) (op elem : Nat) : List (Val × Int) :=
  match x.shared with
  | some es => es
  | none =>
    let side := if x.wbuf then 1 else 0
    operand x.fmt x.tags x.off ((x.old.zip x.new).zipIdx.map fun (b, i) =>
      if Config.engineReads op elem (2 * ((x.off + i) / 4) + side) then b.2 else b.1)
def mmaRow (f : MmaF) (atags : List (Nat × Nat)) (off : Nat) (a a' : Buffer) : Strip :=
  stripOf false f.fa.toNat atags off (kOf f) a a'
def mmaCol (f : MmaF) (tags : List (Nat × Nat)) (j : Nat) (w w' : Buffer) : Strip :=
  stripOf true f.fb.toNat tags (64 * (f.woff.toNat + f.wpitch.toNat * j)) (kOf f) w w'
/-- The values an element takes under an MMA, after each group. -/
def mmaElem (f : MmaF) (op elem : Nat) (x y : Strip) (v : Nat) : List Nat :=
  mmaSteps (f.fa.toNat == 7) (min (fmtGroup f.fa.toNat) (fmtGroup f.fb.toNat)) (kOf f) (x.elems op elem) (y.elems op elem) v
/-- The tile after an MMA. -/
def mmaTile (f : MmaF) (op : Nat) (rows tags atags : List (Nat × Nat)) (a w a' w' : Buffer) (t : Tile) : Tile :=
  let cols := (List.range 64).map fun j => mmaCol f tags j w w'
  rows.foldl (fun t' (r, off) =>
    let x := mmaRow f atags off a a'
    cols.zipIdx.foldl (fun t' (y, j) =>
      let v := t.at r j
      Tile.put t' r j (((mmaElem f op (64 * r + j) x y v).getLast?).getD v)) t') t

/-! ## The sequence on a tile (R239, R240) -/

def EngineAct.isOp : EngineAct → Bool
  | .set _ => false
  | _ => true
def EngineAct.isTodo : EngineAct → Bool
  | .todo _ => true
  | _ => false
/-- The values that an element takes under one act, v before it. -/
def EngineAct.values (a : EngineAct) (elem v : Nat) : List Nat :=
  match a with
  | .mma op f rows tags atags a w a' w' =>
    (match rows.find? (·.1 == elem / 64) with
     | some (_, off) => mmaElem f op elem (mmaRow f atags off a a') (mmaCol f tags (elem % 64) w w') v
     | none => [])
  | .load _ ws => ((ws.find? (·.1 == elem)).map (·.2)).toList
  | .set ws => ((ws.find? (·.1 == elem)).map (·.2)).toList
  | .todo _ => []
  | .still _ => []
def putWords (ws : List (Nat × Nat)) (t : Tile) : Tile := ws.foldl (fun t x => tput 0 t x.1 (x.2 % 2 ^ 32)) t
/-- A tile after one act. -/
def EngineAct.apply (a : EngineAct) (t : Tile) : Tile :=
  match a with
  | .mma op f rows tags atags a w a' w' => mmaTile f op rows tags atags a w a' w' t
  | .load _ ws => putWords ws t
  | .set ws => putWords ws t
  | .todo _ => t
  | .still _ => t
/-- The values that an element takes under a sequence, v first. -/
def valuesOf (elem : Nat) : List EngineAct → Nat → List Nat
  | [], v => [v]
  | a :: r, v =>
    let vs := a.values elem v
    v :: vs.dropLast ++ valuesOf elem r ((vs.getLast?).getD v)
/-- What has been performed. -/
def performed (as : List EngineAct) : List EngineAct := as.takeWhile (!·.isTodo)
/-- A write placed after the first p operations. -/
def insertSet (ws : List (Nat × Nat)) : Nat → List EngineAct → List EngineAct
  | _, [] => [.set ws]
  | p, .set x :: r => .set x :: insertSet ws p r
  | 0, a :: r => .set ws :: a :: r
  | p + 1, a :: r => a :: insertSet ws p r

/-- An engine operation issues on the strand's tile (R239). -/
def Strand.outstanding (k : Strand) (op : Nat) (t : Tile) : Strand :=
  if k.acts.isEmpty then { k with tileBase := t, acts := [.todo op] } else { k with acts := k.acts ++ [.todo op] }
/-- The operations that a WAITC's bound covers are outstanding no longer. -/
def coverActs (n : Nat) : List EngineAct → Tile → List EngineAct × Tile
  | [], t => ([], t)
  | a :: r, t =>
    if ((a :: r).filter (·.isOp)).length ≤ n then (a :: r, t)
    else coverActs n r (a.apply t)
def Strand.cover (k : Strand) (n : Nat) : Strand :=
  if k.acts.isEmpty then k
  else
    let (as, t) := if n = 0 then ([], []) else coverActs n k.acts k.tileBase
    if as.any (·.isOp) then { k with acts := as, tileBase := t } else { k with acts := [], tileBase := [] }

/-- An operation's place in the sequence takes what it did. -/
def fillAct (op : Nat) (x : EngineAct) : List EngineAct → List EngineAct
  | [] => []
  | .todo o :: r => if o = op then x :: r else .todo o :: fillAct op x r
  | a :: r => a :: fillAct op x r
/-- The writes that fall between an operation and the next one. -/
def setsAfter (op : Nat) : List EngineAct → List EngineAct
  | [] => []
  | .todo o :: r => if o = op then r.takeWhile (!·.isOp) else setsAfter op r
  | _ :: r => setsAfter op r
/-- An operation has been performed: what it did takes its place in the sequence of the strand, if it has one, and the tile
becomes what it and the writes that fall before the next one make of it. -/
def Warp.engine (w : Warp) (op : Nat) (x : EngineAct) (k : Strand) : Warp :=
  match k.bind with
  | some b =>
    if k.acts.contains (.todo op) then
      let cl := k.no % 8
      let t := (setsAfter op k.acts).foldl (fun t a => a.apply t) (x.apply (w.tile cl b.frame))
      (w.setTile cl b.frame t).updStrand k.no fun k => { k with acts := fillAct op x k.acts }
    else w
  | none => w

/-! ## Slots of a rack (R217) -/

def Rack.n (r : Rack) : Nat := r.count.toNat + 1
def Rack.slot (r : Rack) (j : Nat) : RackSlot × BitVec 8 := (r.slots[j]?).getD (.free, 0)
def Rack.setSlot (r : Rack) (j : Nat) (x : RackSlot) (owner : BitVec 8) : Rack := { r with slots := r.slots.set j (x, owner) }
/-- The byte offset of slot j in A, and the bytes of a slot. -/
def Rack.slotBytes (r : Rack) : Nat := 64 * (r.size.toNat + 1)
def Rack.offset (r : Rack) (j : Nat) : Nat := 64 * r.base.toNat + j * r.slotBytes

end Sys2Proof.Machine
end

