-- ==== Sys2Proof/Machine/Home.lean ====
section
/-! DEFINITION. Home slices: the protocol tables, the dispatch of an event to a line, and what each action of a word
does (spec/12_protocols.md R326 to R345, R352; spec/11_ordering.md R305 to R307). A line's bytes in `Memory` are its
coherent value wherever its latest copy stands, so recalls move no data here; only push copies (HALO) and update
partials (REDUCE) hold values of their own (log entry 5). -/

namespace Sys2Proof.Machine

/-! ## Action words (R332) -/

def bitWT : Nat := 27
def bitGL : Nat := 26
def bitGP : Nat := 25
def bitWD : Nat := 24
def bitFO : Nat := 23
def bitRC : Nat := 22
def bitPH : Nat := 21
def bitWB : Nat := 20
def bitBI : Nat := 19
def bitRY : Nat := 18
def bitER : Nat := 17
def bitPG : Nat := 16
def bitUP : Nat := 15
def bitOW : Nat := 14
def bitNC : Nat := 13

def wordNext (w : Word) : Nat := field w 31 28
def wordHas (w : Word) (b : Nat) : Bool := w.getLsbD b
def wordEcode (w : Word) : Nat := field w 12 10
def wordTsel (w : Word) : Nat := field w 9 6
def wordOpmask (w : Word) : Nat := field w 5 0

/-- A word of actions and a next state. -/
def act (next : Nat) (bits : List Nat) : Word :=
  BitVec.ofNat 32 (bits.foldl (fun a b => a + 2 ^ b) (next * 2 ^ 28))
/-- A WT word of the built-in tables: tsel 7 (R336). -/
def wait7 (next : Nat) : Word := act next [bitWT] + 0x1C0#32
/-- UP with opmask 0x1F. -/
def update5 (next : Nat) : Word := act next [bitUP] + 0x1F#32

/-! ## Events by number (R331) -/

def evRD : Nat := 0
def evWR : Nat := 1
def evAT : Nat := 2
def evRE : Nat := 3
def evLX : Nat := 4
def evAQ : Nat := 5
def evRL : Nat := 6
def evEV : Nat := 7
def evRR : Nat := 8
def evRW : Nat := 9
def evHS : Nat := 10
def evPN : Nat := 11
def evUN : Nat := 12
def evFL : Nat := 13
def evTO : Nat := 14
def evMG : Nat := 15

/-! ## The built-in tables (R336 to R345) -/

/-- State P of LEASE under the number given (R338). -/
def pinWord (pinned e : Nat) : Word :=
  if e = evUN then act 0 [bitWD]
  else if e = evEV then act 0 [bitWB]
  else if e = evLX ∨ e = evTO then act pinned []
  else act pinned [bitRY]

/-- The states I, S, W and P of LEASE, P under the number given (R338). -/
def leaseWord (pinned : Nat) (st e : Nat) : Word :=
  if st = 0 then
    if e = evRD ∨ e = evRR then act 1 [bitGL]
    else if e = evWR ∨ e = evAT ∨ e = evRE ∨ e = evRW ∨ e = evRL then act 0 [bitWD]
    else if e = evAQ ∨ e = evHS then act 0 [bitNC]
    else if e = evPN then act pinned [bitPG]
    else if e = evEV ∨ e = evFL then act 0 [bitWB]
    else act 0 []
  else if st = 1 then
    if e = evRD ∨ e = evRR then act 1 [bitGL]
    else if e = evAQ ∨ e = evHS then act 1 [bitNC]
    else if e = evLX then act 0 []
    else if e = evEV then act 0 [bitWB]
    else if e = evFL then act 1 [bitWB]
    else if e = evUN ∨ e = evTO then act 1 []
    else wait7 2
  else if st = 2 then
    if e = evRD ∨ e = evRR ∨ e = evAQ ∨ e = evHS then act 2 [bitNC]
    else if e = evLX ∨ e = evTO then act 0 []
    else if e = evEV then act 0 [bitWB]
    else if e = evFL then act 2 [bitWB]
    else if e = evUN then act 2 []
    else wait7 2
  else pinWord pinned e

def builtinWord (proto st e : Nat) : Word :=
  match proto with
  | 0 =>
    if e = evRD ∨ e = evRR ∨ e = evAQ ∨ e = evHS then act 0 [bitNC]
    else if e = evWR ∨ e = evAT ∨ e = evRE ∨ e = evRW ∨ e = evRL then act 0 [bitWD] else act 0 []
  | 2 =>
    if st = 3 then
      if e = evRD ∨ e = evRR then act 3 [bitGL]
      else if e = evAQ ∨ e = evHS then act 3 [bitNC]
      else if e = evWR ∨ e = evAT ∨ e = evRE ∨ e = evRW ∨ e = evRL then act 3 [bitER]
      else if e = evEV then act 0 []
      else if e = evMG then wait7 2 else act 3 []
    else if e = evPN then act st [] else leaseWord 0 st e
  | 3 =>
    if st = 3 then
      if e = evRD ∨ e = evRR then act 1 [bitRC, bitGL]
      else if e = evAQ ∨ e = evHS then act 0 [bitRC, bitNC]
      else if e = evWR ∨ e = evAT ∨ e = evRW ∨ e = evRL then act 0 [bitRC, bitWD]
      else if e = evRE then update5 3
      else if e = evEV ∨ e = evFL ∨ e = evMG then act 0 [bitRC, bitWB] else act 3 []
    else if e = evPN then act st []
    else if st = 0 ∧ e = evRE then update5 3
    else leaseWord 0 st e
  | 4 =>
    if st = 0 then
      if e = evRD ∨ e = evWR ∨ e = evAT then act 1 [bitOW]
      else if e = evRE ∨ e = evRW ∨ e = evRL then act 0 [bitWD]
      else if e = evRR ∨ e = evAQ ∨ e = evHS then act 0 [bitNC]
      else if e = evPN then act 2 [bitPG]
      else if e = evEV ∨ e = evFL then act 0 [bitWB] else act 0 []
    else if st = 1 then
      if e = evRD ∨ e = evWR ∨ e = evAT then act 1 [bitFO, bitOW]
      else if e = evRE ∨ e = evRW ∨ e = evRL then act 0 [bitFO, bitWD]
      else if e = evRR ∨ e = evAQ ∨ e = evHS then act 0 [bitFO, bitNC]
      else if e = evPN then act 2 [bitFO, bitPG]
      else if e = evEV ∨ e = evFL ∨ e = evMG then act 0 [bitFO, bitWB] else act 1 []
    else pinWord 2 e
  | 5 =>
    if e = evRD then act (max st 1) [bitGP]
    else if e = evRR ∨ e = evAQ ∨ e = evHS then act st [bitNC]
    else if e = evWR ∨ e = evAT ∨ e = evRE ∨ e = evRW then act (if st = 0 then 0 else 2) [bitWD]
    else if e = evRL ∧ st = 2 then act 1 [bitWB, bitPH]
    else if e = evEV then act 0 [bitWB]
    else if e = evFL then act st [bitWB]
    else if e = evMG ∧ st ≠ 0 then act 0 [bitWB] else act st []
  | 6 =>
    if st = 4 then
      if e = evRD ∨ e = evRR then act 1 [bitBI, bitGL]
      else if e = evAQ then act 0 [bitBI, bitNC]
      else if e = evWR ∨ e = evAT ∨ e = evRE ∨ e = evRW ∨ e = evRL then act 0 [bitBI, bitWD]
      else if e = evPN then act 3 [bitBI, bitPG]
      else if e = evHS then act 4 [bitNC]
      else if e = evEV ∨ e = evFL ∨ e = evMG then act 0 [bitBI, bitWB] else act 4 []
    else if e = evHS then
      (if st = 0 then act 4 [bitNC] else if st = 3 then act 3 [bitRY] else wait7 2)
    else leaseWord 3 st e
  | _ => leaseWord 3 st e

/-- The word of a protocol (R330): built in, or of an accepted table. -/
def protocolWord (p : Part) (proto st e : Nat) : Word :=
  if proto < 8 then builtinWord proto st e
  else match p.protos.find? (·.1 == proto) with
    | some (_, ws) => (ws[16 * st + e]?).getD 0xFFFFFFFF#32
    | none => leaseWord 3 st e

/-! ## The record of a line -/

def HomeLine.rest : HomeLine :=
  { state := 0, horizon := none, held := [], owner := none, writers := [], hostCopy := false, partials := [] }
def homeOf (s : State) (line : Nat) : HomeLine :=
  match s.homes.find? (·.1 == line) with
  | some (_, h) => h
  | none => HomeLine.rest
/-- Ascending insertion of a line's record. -/
def putRecord (line : Nat) (h : HomeLine) : List (Nat × HomeLine) → List (Nat × HomeLine)
  | [] => if h = HomeLine.rest then [] else [(line, h)]
  | (k, x) :: t =>
    if line < k then (if h = HomeLine.rest then (k, x) :: t else (line, h) :: (k, x) :: t)
    else if line = k then (if h = HomeLine.rest then t else (line, h) :: t)
    else (k, x) :: putRecord line h t
def setHome (s : State) (line : Nat) (h : HomeLine) : State := { s with homes := putRecord line h s.homes }

def lineBase (line : Nat) : Nat := 64 * line

/-- Whether a line of a HALO range is a strip line (R343). -/
def stripLine (r : RangeEntry) (line : Nat) : Bool :=
  let tlines := field r.q3 55 32
  let plines := field r.q3 31 16
  let w := field r.q3 1 0 + 1
  let q := (line - r.base * 1024) % tlines
  let i := q / plines
  let j := q % plines
  decide (i < w) || decide (tlines / plines ≤ i + w) || decide (j < w) || decide (plines ≤ j + w)

/-- The protocol a line follows: the entry's, LEASE off the strips of a HALO range and where no entry covers (R322). -/
def protoOf (s : State) (line : Nat) : Nat :=
  match s.part.rangeOf (lineBase line) with
  | some (_, r) => if r.proto = 5 ∧ !stripLine r line then 1 else r.proto
  | none => 1
def leaseOf (s : State) (line : Nat) : Nat :=
  match s.part.rangeOf (lineBase line) with
  | some (_, r) => r.lease
  | none => 400
def deftagOf (s : State) (line : Nat) : Tag :=
  match s.part.rangeOf (lineBase line) with
  | some (_, r) => r.deftag
  | none => 0

/-! ## L1 copies -/

def Expiry.passed (e : Expiry) (ns : Nat) : Bool :=
  match e with
  | .at t => decide (t ≤ ns)
  | .never => false
def Expiry.later (a b : Expiry) : Expiry :=
  match a, b with
  | .at x, .at y => .at (max x y)
  | _, _ => .never

def copyOf (s : State) (core line : Nat) : Option CopyKind :=
  (s.l1.find? fun c => c.core == core && c.line == line).map (·.kind)
def dropCopy (s : State) (core line : Nat) : State :=
  { s with l1 := s.l1.filter fun c => !(c.core == core && c.line == line) }
/-- Lines of an L1 of 192 KiB (00 R4). -/
def l1Lines : Nat := 3072
/-- A core drops a copy itself: an owner returns the line to its home, which takes state 0 with no event (R334); an update copy's
partials return to it (R340). -/
def returnCopy (s : State) (c : L1Copy) : State :=
  let h := homeOf s c.line
  let s := match c.kind with
    | .own => setHome s c.line { h with state := 0, owner := none }
    | .update ps => setHome s c.line { h with partials := h.partials ++ ps.map fun p => (c.core, p) }
    | _ => s
  dropCopy s c.core c.line
/-- Lines that a core's L1 holds, of the part and from outside it. -/
def l1Used (s : State) (core : Nat) : Nat :=
  (s.l1.filter fun c => c.core == core).length + (s.far.filter fun c => c.core == core).length
def isPin : CopyKind → Bool
  | .pin .. => true
  | _ => false
/-- A full L1 makes room: its oldest line that a streaming access brought, else its oldest that is no pin, goes (log entry 65). -/
def makeRoom (s : State) (core : Nat) : State :=
  if l1Used s core < l1Lines then s
  else
    let near := s.l1.filter fun c => c.core == core && !isPin c.kind
    let far := s.far.filter fun c => c.core == core
    let dropFar (c : FarCopy) : State := { s with far := dropFirst (· == c) s.far }
    match near.find? (·.stream), far.find? (·.stream), near, far with
    | some c, _, _, _ => returnCopy s c
    | none, some c, _, _ => dropFar c
    | none, none, c :: _, _ => returnCopy s c
    | none, none, [], c :: _ => dropFar c
    | none, none, [], [] => s
/-- A copy of a line put in an L1. -/
def putCopy (s : State) (core line : Nat) (k : CopyKind) : State :=
  let s := makeRoom (dropCopy s core line) core
  { s with l1 := s.l1 ++ [{ core, line, kind := k }] }
/-- A copy that a streaming access has just brought, marked so. -/
def markStream (s : State) (core line : Nat) : State :=
  { s with l1 := s.l1.map fun c => if c.core = core ∧ c.line = line then { c with stream := true } else c }
def isPush : CopyKind → Bool
  | .push _ => true
  | _ => false
def isUpdate : CopyKind → Bool
  | .update _ => true
  | _ => false
def isLease : CopyKind → Bool
  | .lease _ => true
  | _ => false
/-- Whether a copy answers a load of its core now (R327, R344; R305, R334). -/
def CopyKind.readable (k : CopyKind) (ns : Nat) : Bool :=
  match k with
  | .lease e => !e.passed ns
  | .push _ => true
  | .own => true
  | .pin .. => true
  | .update _ => false

/-- Whether a core holds a pin on a line. -/
def hasPin (s : State) (core line : Nat) : Bool := (copyOf s core line).any isPin
/-- Whether a core performs its accesses to a line in its L1 copy: a pin or ownership (R305, R334). -/
def holdsLine (s : State) (core line : Nat) : Bool :=
  match copyOf s core line with
  | some (.pin ..) => true
  | some .own => true
  | _ => false

def lineBytes (s : State) (line : Nat) : List Byte := s.mem.read (lineBase line) 64

/-! ## Combining update partials (R340, R341) -/

def wordBytes (ty : Nat) : Nat := atomBytes ty
def partialHm (p : Partial) : Nat := (if p.lo then 1 else 0) + (if p.hi then 2 else 0)
def applyPartial (m : Memory) (line : Nat) (p : Partial) : Memory :=
  let a := lineBase line + p.off
  let o := leNat (m.read a (wordBytes p.ty))
  m.write a (leBytes (wordBytes p.ty) (atomStep p.op p.ty (partialHm p) o p.value.toNat 0))

/-- Insertion by core, stable. -/
def byCore : List (Nat × Partial) → List (Nat × Partial)
  | [] => []
  | x :: xs => insert x (byCore xs)
where
  insert (x : Nat × Partial) : List (Nat × Partial) → List (Nat × Partial)
    | [] => [x]
    | y :: ys => if x.1 ≤ y.1 then x :: y :: ys else y :: insert x ys

/-- Partials that cores hold of a line. -/
def heldPartials (s : State) (line : Nat) : List (Nat × Partial) :=
  s.l1.flatMap fun c => if c.line = line then
    (match c.kind with | .update ps => ps.map fun p => (c.core, p) | _ => []) else []
/-- RC: every partial combined in ascending core order; the update copies end. -/
def combine (s : State) (line : Nat) : State :=
  let h := homeOf s line
  let m := (byCore (h.partials ++ heldPartials s line)).foldl (fun m p => applyPartial m line p.2) s.mem
  let s := { s with mem := m, l1 := s.l1.filter fun c => !(c.line == line && isUpdate c.kind) }
  setHome s line { h with partials := [] }

/-- A RED's operand joined to a core's update copy of its line; a partial of another operation or type returns the
whole copy to the home first (R340). -/
def gather (s : State) (core line : Nat) (p : Partial) : State :=
  let ps := match copyOf s core line with
    | some (.update ps) => ps
    | _ => []
  match ps.find? (·.off == p.off) with
  | none =>
    if ps.any fun q => q.off < p.off + wordBytes p.ty && p.off < q.off + wordBytes q.ty then
      let h := homeOf s line
      putCopy (setHome s line { h with partials := h.partials ++ ps.map fun q => (core, q) }) core line (.update [p])
    else putCopy s core line (.update (ps ++ [p]))
  | some q =>
    if q.op = p.op ∧ q.ty = p.ty then
      -- halves named for the first time take the operand; halves named before take a step
      let halfVal (hm : Nat) (named : Bool) (sh : Nat) : Nat :=
        if partialHm p / hm % 2 = 1 then
          (if named then atomStep p.op p.ty hm q.value.toNat p.value.toNat 0 else p.value.toNat) / 2 ^ sh % 65536
        else q.value.toNat / 2 ^ sh % 65536
      let v : DWord :=
        if 5 ≤ p.ty then BitVec.ofNat 64 (halfVal 1 q.lo 0 + 65536 * halfVal 2 q.hi 16)
        else BitVec.ofNat 64 (atomStep p.op p.ty 3 q.value.toNat p.value.toNat 0)
      let q' := { q with value := v, lo := q.lo || p.lo, hi := q.hi || p.hi }
      putCopy s core line (.update (ps.map fun x => if x.off = p.off then q' else x))
    else
      let h := homeOf s line
      putCopy (setHome s line { h with partials := h.partials ++ ps.map fun q => (core, q) }) core line (.update [p])

/-! ## Faults of an access that reach its strand (R335; 09 R273; 10 R293) -/

/-- Ends the gang of a done strand whose fault has been recorded (kind 2). -/
def faultDone (s : State) (r : StrandRef) : State :=
  match warpOf s r.warp, strandOf s r with
  | some w, some k => if k.isDone w.launched then terminate s w.gang 2 w.uid none else s
  | _, _ => s

/-- A fault recorded on a strand; the operation numbered op has ended. -/
def holdFault (s : State) (r : StrandRef) (f : HeldFault) : State :=
  faultDone (updStrand s r fun k => { k with faults := k.faults ++ [f] }) r

/-- An engine operation has been performed on its tile (08 R237). -/
def engineDone (s : State) (o : Op) (x : EngineAct) : State :=
  match strandOf s o.owner with
  | some k => if k.acts.isEmpty then s else updWarp s o.owner.warp fun w => w.engine o.id x k
  | none => s
/-- An operation that has completed: the counter falls as R134 says, and the operation is gone; one of the matrix engine that
has not been performed changes no element. -/
def finishOp (s : State) (o : Op) : State :=
  let s := engineDone s o (.still o.id)
  let s := { s with ops := s.ops.filter (·.id != o.id) }
  updStrand s o.owner fun k => k.complete o.id

/-! ## Performing at the home -/

/-! ## Answers to held events (R333) -/

/-- Operations number below this; a strand asks under codes above it before its instruction is one. -/
def firstCode : Nat := 2 ^ 64
/-- ns for which an answer stands that no operation is sure to take. -/
def answerLife : Nat := 65536
/-- Whether an answer may still be taken. -/
def LineAnswer.stands (a : LineAnswer) (s : State) : Bool :=
  if a.core.isSome && decide (a.op < firstCode) then (opOf s a.op).isSome else decide (s.ns ≤ a.since + answerLife)
/-- The answer to a held event, kept for the one who asked. -/
def noteAnswer (s : State) (line : Nat) (e : HomeEvent) (error : Option Nat) : State :=
  if e.req.isNone && (e.ev == evRD || e.ev == evAQ || e.ev == evFL) then
    let a : LineAnswer := { line, core := e.core, ev := e.ev, op := e.op, since := s.ns, error, bytes := lineBytes s line,
                            tag := s.mem.tag line, poison := s.mem.poisoned line }
    { s with lineAnswers := s.lineAnswers.filter (·.stands s) ++ [a] }
  else s
def answerOf (s : State) (line : Nat) (core : Option Nat) (ev op : Nat) : Option LineAnswer :=
  s.lineAnswers.find? fun a => a.line == line && a.core == core && a.ev == ev && a.op == op && a.stands s
/-- Answers taken, for lines. -/
def dropAnswers (s : State) (core : Option Nat) (op : Nat) (lines : List Nat) : State :=
  { s with lineAnswers := s.lineAnswers.filter fun a => !(a.core == core && a.op == op && lines.contains a.line) }
/-- Memory as it was answered to one who asked for lines of it. -/
def answeredMem (s : State) (core : Option Nat) (op : Nat) : Memory :=
  (s.lineAnswers.filter fun a => a.core == core && a.op == op && a.stands s).foldl (fun m a =>
    let m := (m.write (lineBase a.line) a.bytes).setTag a.line a.tag
    if a.poison then m.mark a.line else m.unmark a.line) s.mem
def asAnswered (s : State) (core : Option Nat) (op : Nat) : State := { s with mem := answeredMem s core op }
/-- What a core's own writes make of the answers that it has yet to take. -/
def refreshAnswers (s : State) (core line : Nat) : State :=
  { s with lineAnswers := s.lineAnswers.map fun a => if a.core = some core ∧ a.line = line then
      { a with bytes := lineBytes s line, tag := s.mem.tag line, poison := s.mem.poisoned line } else a }

/-- Bytes that a core has written in a line: its own push copy takes them, and no other store (R344). -/
def patchPush (s : State) (core pa n : Nat) : State :=
  let s := refreshAnswers s core (lineOf pa)
  match copyOf s core (lineOf pa) with
  | some (.push bs) => putCopy s core (lineOf pa) (.push (overwrite bs (pa % 64) (s.mem.read pa n)))
  | _ => s
/-- A strand's access to a line that its core has pinned (11 R301). -/
def touchPin (s : State) (core line : Nat) (r : StrandRef) (stores loads : Bool) : State :=
  let add (p : Bool) (l : List StrandRef) : List StrandRef := if p && !l.contains r then l ++ [r] else l
  { s with l1 := s.l1.map fun c => if c.core = core ∧ c.line = line then
      (match c.kind with
       | .pin h t st ld => { c with kind := .pin h t (add stores st) (add loads ld) }
       | _ => c) else c }
/-- The line of a write, whether of its data or of its tag (03 R121). -/
def Pending.line (p : Pending) : Nat := if p.window then p.pa / 2 else lineOf p.pa
/-- The bytes of a pending write put in memory, with the tag and mark of a copy's whole line. -/
def Memory.perform (m : Memory) (p : Pending) : Memory :=
  if p.window then m.tagWrite p.pa p.bytes
  else
    let m := m.store p.pa p.bytes
    let m := match p.tag with
      | some t => m.setTag p.line t
      | none => m
    if p.poison then m.mark p.line else m
def performStore (s : State) (id : Nat) : State :=
  match s.pend.find? (·.id == id) with
  | none => s
  | some p =>
    let s := touchPin { s with mem := s.mem.perform p, pend := s.pend.filter (·.id != id) } p.core p.line p.owner true false
    if p.window then refreshAnswers s p.core p.line else patchPush s p.core p.pa p.bytes.length

/-- The core of an operation's warp. -/
def opCore (s : State) (o : Op) : Nat := (coreOfWarp s o.owner.warp).getD unitCore

/-- Local lanes of an operation on a line: index and lane. -/
def onLine (line : Nat) (a : LaneAccess) : Bool :=
  match a.target with
  | .mem pa => lineOf pa == line
  | _ => false
def placeAddr (a : LaneAccess) : Nat :=
  match a.target with
  | .mem pa => pa
  | .tagWindow o => o
  | .peer _ pa => pa
  | .host pa => pa

/-- A value delivered to a lane of a destination slot or pair. -/
def deliver (s : State) (r : StrandRef) (l slot count : Nat) (v : DWord) : State :=
  updStrand s r fun k =>
    let k := k.setSlotIn (1#64 <<< l) slot fun _ => v.lo
    if count = 2 then k.setSlotIn (1#64 <<< l) (slot + 1) fun _ => v.hi else k

/-- Groups lanes by address, in order of first appearance. -/
def addressesOf (ls : List (LaneAccess × DWord × DWord)) : List Nat :=
  (ls.map fun x => placeAddr x.1).eraseDups

/-- The halves that lanes on a line have still to step: those named, less the one already stepped. -/
def halvesLeft (f : AtomF) (ls : List (LaneAccess × DWord × DWord)) : Nat :=
  match (ls.head?).bind fun x => x.1.back with
  | some bs => 3 - sliceNat bs 0 1
  | none => f.hm.toNat
/-- What the home steps of a pair atomic now: the halves named (R316), of which each is a location of its own; or where the two
are taken apart, the first now and the second later. -/
def halvesNow (s : State) (o : Op) (f : AtomF) (ls : List (LaneAccess × DWord × DWord)) : Nat :=
  let hm := halvesLeft f ls
  if f.ty.toNat < 5 || hm != 3 then hm else match Config.halvesApart s.fresh o.id with
    | 0 => 3
    | 1 => 1
    | _ => 2
/-- A lane whose first half has been stepped keeps which it was and the word found. -/
def keepHalf (half : Nat) (x : LaneAccess × DWord × DWord) (old : Nat) : LaneAccess × DWord × DWord :=
  ({ x.1 with back := some (leBytes 1 half ++ leBytes 4 old) }, x.2)
/-- The old word of a lane: each half as its own step found it. -/
def joinHalves (x : LaneAccess × DWord × DWord) (old : Nat) : Nat :=
  match x.1.back with
  | some bs =>
    let first := sliceNat bs 1 4
    if sliceNat bs 0 1 = 1 then first % 65536 + old / 65536 * 65536 else old % 65536 + first / 65536 * 65536
  | none => old

/-- The lanes of one address applied to memory, and their values delivered. -/
def atomAddress (s : State) (o : Op) (f : AtomF) (returns : Bool) (hm : Nat) (ls : List (LaneAccess × DWord × DWord)) (pa : Nat) :
    State :=
  let ty := f.ty.toNat
  let n := atomBytes ty
  let mine := ls.filter fun x => placeAddr x.1 == pa
  let old := leNat (s.mem.read pa n)
  let (new, rets) := atomLanes f.op.toNat ty hm old (mine.map fun x => (x.2.1.toNat, x.2.2.toNat))
  let s := patchPush { s with mem := s.mem.write pa (leBytes n new) } (opCore s o) pa n
  if hm ≠ f.hm.toNat ∧ (mine.all fun x => x.1.back.isNone) then
    -- the first half: what each lane found is kept until the second
    updOp s o.id fun o => { o with body := match o.body with
      | .atomic f r all => .atomic f r (all.map fun x =>
          match (mine.zip rets).find? fun y => y.1 == x with
          | some (_, v) => keepHalf hm x v
          | none => x)
      | b => b }
  else if returns then
    (mine.zip rets).foldl (fun s x =>
      deliver s o.owner x.1.1.lane f.d.toNat (if n = 8 then 2 else 1) (BitVec.ofNat 64 (joinHalves x.1 x.2))) s
  else s

/-- The lanes of an atomic that still wait. -/
def setAtomLanes (s : State) (o : Op) (f : AtomF) (returns : Bool) (rest : List (LaneAccess × DWord × DWord)) : State :=
  if rest.isEmpty then finishOp s o else updOp s o.id fun o => { o with body := .atomic f returns rest }

/-- Step 2 of 09 R267: a copy's rack slot published. -/
def publishSlot (s : State) (o : Op) (j : CopyJob) : State :=
  match warpOf s o.owner.warp, j.f.rk with
  | some w, true => updTeam s w.gang w.team fun t =>
    let q := j.f.rack.toNat
    match t.racks[q]? with
    | none => t
    | some r =>
      match (r.slot j.slotNo).1 with
      | .pending => { t with racks := t.racks.set q (r.setSlot j.slotNo .filled 0) }
      | .droppedPending => { t with racks := t.racks.set q (r.setSlot j.slotNo .free 0) }
      | _ => t
  | _, _ => s
/-- A copy's slot published, and its completion word incremented (09 R267). A poisoned line drops the step, as it does for RED, and
the copy completes (R315 does not say which atomic it acts as: DESIGN CHOICE, log entry 75). -/
def bumpAt (s : State) (o : Op) (j : CopyJob) : State :=
  let s := publishSlot s o j
  let pa := j.wordPa
  let s := if s.mem.poisoned (lineOf pa) then s
    else patchPush { s with mem := s.mem.write pa (leBytes 8 (leNat (s.mem.read pa 8) + 1)) } (opCore s o) pa 8
  updOp (touchPin s (opCore s o) (lineOf pa) o.owner true false) o.id fun o => { o with body := .copy { j with phase := 5 } }

/-- The lanes of an atomic on one line, performed (11 R314, R315), or of a pair's two halves the first (R316). A poisoned line gives no value and changes nothing:
ATOM and ATOMC raise POISON, RED drops its step. -/
def performAtomic (s : State) (opId line : Nat) : State :=
  match opOf s opId with
  | some o =>
    match o.body with
    | .atomic f returns ls =>
      let here := ls.filter fun x => onLine line x.1
      let rest := ls.filter fun x => !onLine line x.1
      if here.isEmpty then s
      else if s.mem.poisoned line then
        let s := if returns then
          holdFault s o.owner { op := o.id, cause := causePOISON, sub := 0, addr := ((here.head?).map (·.1.va)).getD 0,
                                lanes := maskOfList (here.map (·.1.lane)), remote := false, value := o.value }
          else s
        setAtomLanes s o f returns rest
      else
        let hm := halvesNow s o f here
        let s := (addressesOf here).foldl (fun s pa => atomAddress s o f returns hm here pa) s
        let s := touchPin s (opCore s o) line o.owner true returns
        if hm ≠ f.hm.toNat ∧ (here.all fun x => x.1.back.isNone) then s else setAtomLanes s o f returns rest
    | .copy j => if lineOf j.wordPa = line ∧ j.phase = 3 then bumpAt s o j else s
    | _ => s
  | none => s

/-- The operands of an address's lanes merged, in ascending lane order (03 R118). -/
def mergeOperands (f : AtomF) (vs : List Nat) : Nat :=
  match vs with
  | [] => 0
  | v :: rest => rest.foldl (fun m v => atomStep f.op.toNat f.ty.toNat f.hm.toNat m v 0) v
/-- A RED's lanes on a line, merged for each address and gathered in the core's update copy (11 R314). -/
def gatherRed (s : State) (core opId line : Nat) : State :=
  match opOf s opId with
  | some o =>
    match o.body with
    | .atomic f returns ls =>
      let here := ls.filter fun x => onLine line x.1
      let s := (addressesOf here).foldl (fun s pa =>
        let hm := halvesLeft f here
        let vs := (here.filter fun x => placeAddr x.1 == pa).map fun x => x.2.1.toNat
        gather s core line
          { off := pa % 64, op := f.op.toNat, ty := f.ty.toNat, lo := f.ty.toNat < 5 || hm.testBit 0,
            hi := f.ty.toNat < 5 || hm.testBit 1, value := BitVec.ofNat 64 (mergeOperands f vs) }) s
      setAtomLanes s o f returns (ls.filter fun x => !onLine line x.1)
    | _ => s
  | none => s

/-- An answer sent to a peer or the host. -/
def answer (s : State) (r : PeerRequest) (code sub : Nat) (data : List Byte) (tag : BitVec 16) : State :=
  sendOut s (.answer r (BitVec.ofNat 8 code) (BitVec.ofNat 8 sub) data tag false 0 [])

def fromHost (r : PeerRequest) : Bool := r.src == 0x200#16
def readsOnly : AccessKind → Bool
  | .read => true
  | .acquire => true
  | _ => false

/-- A read answered, with a lease's expiry (0: none). A peer's line travels with its tag and mark, and a poisoned line that is
read in part is a failure (17 R449); the host's data come without tags (17 R439). -/
def answerData (s : State) (r : PeerRequest) (lease : Nat) : State :=
  let pa := r.addr.toNat
  let line := lineOf pa
  let bad := s.mem.poisoned line
  if bad && r.size != 64 && !fromHost r then answer s r causePOISON 0 [] 0
  else sendOut s (.answer r 0 0 (s.mem.read pa r.size) (if fromHost r then 0 else s.mem.tag line) bad lease
    (if lease = 0 then [] else lineBytes s line))

/-- The operands of an atomic's lanes as one request carries them, each with its compare value for cas (11 R314). -/
def carriedOperands (op ty : Nat) (data : List Byte) : List (Nat × Nat) :=
  let n := atomBytes ty
  let k := if op = 12 then 2 * n else n
  (pieces k (data.length / max 1 k) data).map fun bs => (leNat (bs.take n), leNat (bs.drop n))
/-- The steps of a request's lanes, one after another with nothing between them. -/
def carriedSteps (op ty hm : Nat) (data : List Byte) (old : Nat) : Nat :=
  (carriedOperands op ty data).foldl (fun v x => atomStep op ty hm v x.1 x.2) old
def requestSteps (r : PeerRequest) (old : Nat) : Nat := carriedSteps r.op.toNat r.ty.toNat r.hm.toNat r.data old

/-- A peer's or the host's write or atomic performed on local memory, and answered. A host write gives each line its default
tag (03 R119); a whole line of a peer's copy brings its tag. A poison mark comes with either. -/
def performRequest (s : State) (r : PeerRequest) : State :=
  let pa := r.addr.toNat
  let line := lineOf pa
  let n := atomBytes r.ty.toNat
  let step (s : State) : State := { s with mem := s.mem.write pa (leBytes n (requestSteps r (leNat (s.mem.read pa n)))) }
  match r.kind with
  | .read => answerData s r 0
  | .acquire => answerData s r 0
  | .release => answer { s with mem := s.mem.store pa r.data } r 0 0 [] 0
  | .atomic =>
    if s.mem.poisoned line then answer s r causePOISON 0 [] 0
    else answer (step s) r 0 0 (s.mem.read pa n) 0
  | .reduce => answer (if s.mem.poisoned line then s else step s) r 0 0 [] 0
  | _ =>
    let m := s.mem.store pa r.data
    let m := if fromHost r then m.setTag line (deftagOf s line)
      else if r.kind == .copyData && r.data.length == 64 then m.setTag line r.tag else m
    answer { s with mem := if r.poison then m.mark line else m } r 0 0 [] 0

/-- Seals a WRITEONCE range once the release of its sync word is performed (11 R307, R339). -/
def sealRange (s : State) (pa : Nat) : State :=
  match s.part.rangeOf pa with
  | some (i, r) =>
    if r.proto = 2 then
      let s := dropEntries s (· == i)
      { s with part := { s.part with ranges := s.part.ranges.map fun e =>
          if e.1 = i then (i, { r with q1 := r.q1 ||| (1#64 <<< 47) }) else e } }
    else s
  | none => s

/-- WD: what the event's requester asked is performed at the home; a REL of a bound sync word then seals its range. -/
def perform (s : State) (line : Nat) (e : HomeEvent) : State :=
  match e.req with
  | some r =>
    let s := performRequest s r
    if e.ev = evRL then sealRange s (lineBase line) else s
  | none =>
    if e.ev = evWR then performStore s e.op
    else if e.ev = evRL then
      (if s.pend.any (·.id == e.op) then sealRange (performStore s e.op) (lineBase line) else s)
    else if e.ev = evAT ∨ e.ev = evRE then performAtomic s e.op line
    else s

/-! ## Dispatch (R333) -/

/-- What became of an event. -/
inductive HomeResult
  | done
  | held
  | retry
  | error (ecode : Nat)
  deriving DecidableEq, Repr

/-- The home's horizon after a lease. -/
def raiseHorizon (s : State) (line : Nat) (until_ : Expiry) : State :=
  let h := homeOf s line
  setHome s line { h with horizon := some (match h.horizon with | some x => x.later until_ | none => until_) }
/-- A lease granted to a core, or to a peer with its answer. A peer gets none while SYNC.OK is 0, nor one of 100 ns or less
(R352; 17 R446); a unit of the part keeps no copy. -/
def grantLease (s : State) (line : Nat) (e : HomeEvent) : State :=
  let inf := s.part.sealedAt (lineBase line)
  let len := leaseOf s line
  let until_ : Expiry := if inf then .never else .at (s.ns + len)
  match e.core, e.req with
  | some c, _ => putCopy (raiseHorizon s line until_) c line (.lease until_)
  | none, some r =>
    if !s.part.syncOk || len ≤ 100 then answerData s r 0
    else answerData (raiseHorizon s line until_) r (if inf then 2 ^ 64 - 1 else s.ns + len)
  | none, none => s

/-- PH: every push copy takes the line's present bytes; the writer set is cleared. -/
def pushLine (s : State) (line : Nat) : State :=
  let bs := lineBytes s line
  let s := { s with l1 := s.l1.map fun c => if c.line = line ∧ isPush c.kind then { c with kind := .push bs } else c }
  setHome s line { homeOf s line with writers := [] }

/-- Removes a line's copies of a kind from every L1. -/
def dropCopies (s : State) (line : Nat) (p : CopyKind → Bool) : State :=
  { s with l1 := s.l1.filter fun c => !(c.line == line && p c.kind) }

/-- An answer that performs nothing: what a peer's or the host's read brings; a write is only acknowledged. -/
def answerOnly (s : State) (e : HomeEvent) : State :=
  match e.req with
  | some r => if readsOnly r.kind then answerData s r 0 else answer s r 0 0 [] 0
  | none => s

/-- The strand that asks for a pin. -/
def pinOwner (e : HomeEvent) : StrandRef := { warp := e.op / 32, no := e.op % 32 }
def pinCode (r : StrandRef) : Nat := 32 * r.warp + r.no

/-- BI: a host that holds the line is told, and what it returns is written back as a host write (R332, R345). -/
def backInvalidate (s : State) (line : Nat) : State :=
  let h := homeOf s line
  let s := if h.hostCopy then sendOut s (.backInvalidate line) else s
  let s := if h.hostCopy && Config.hostReturns s.fresh line then
      { s with mem := ((s.mem.write (lineBase line) ((List.range 64).map (Config.hostByte s.fresh line))).setTag line
        (deftagOf s line)).unmark line } else s
  setHome s line { h with hostCopy := false }

/-- The pins of a core, oldest first. -/
def pinsOf (s : State) (core : Nat) : List L1Copy := s.l1.filter fun c => c.core == core && isPin c.kind

/-- FO: the owner's copy recalled; its data are the line's already. -/
def recallOwner (s : State) (line : Nat) : State :=
  setHome (dropCopies s line (· == .own)) line { homeOf s line with owner := none }
/-- The line takes a word's next state: in I it keeps no push copy, and no horizon but one that has not passed (R333, R349). -/
def takeNext (s : State) (line next : Nat) : State :=
  let s := setHome s line { homeOf s line with state := next }
  if next = 0 then
    let s := dropCopies s line isPush
    let h := homeOf s line
    setHome s line { h with horizon := match h.horizon with
      | some (.at t) => if s.ns < t then some (.at t) else none
      | _ => none }
  else s
/-- WD, with HALO's writer set (R344). -/
def writeData (s : State) (line : Nat) (e : HomeEvent) : State :=
  let s := perform s line e
  match e.core with
  | some c =>
    if protoOf s line = 5 ∧ (homeOf s line).state ≠ 0 then
      let h := homeOf s line
      setHome s line { h with writers := if h.writers.contains c then h.writers else h.writers ++ [c] }
    else s
  | none => s
/-- OW: the requesting core owns the line, and its access is performed; a requester that is no core owns nothing. -/
def grantOwner (s : State) (line : Nat) (e : HomeEvent) : State :=
  match e.core with
  | some c => perform (setHome (putCopy s c line .own) line { homeOf s line with owner := some c }) line e
  | none => perform s line e
/-- NC: the answer, with which a host read under HOSTINV lets the host keep the line, through CXL.mem alone (R338, R345; 17 R441). -/
def answerHere (s : State) (line : Nat) (e : HomeEvent) (w : Word) : State :=
  let s := if wordHas w bitWD then s else answerOnly s e
  if e.ev = evHS ∧ wordNext w = 4 ∧ protoOf s line = 6 ∧ s.part.cxl then setHome s line { homeOf s line with hostCopy := true } else s
/-- The actions of a word without WT or ER, in the order of R333; gathers: UP takes the RED. One with RY refuses its requester: it serves it in nothing, and
acts on the line alone (log entry 63). -/
def runActions (s : State) (line : Nat) (e : HomeEvent) (w : Word) (gathers : Bool) : State :=
  let serves := !wordHas w bitRY
  let s := if wordHas w bitFO then recallOwner s line else s
  let s := if wordHas w bitRC then combine s line else s
  let s := if wordHas w bitBI then backInvalidate s line else s
  let s := if serves && wordHas w bitWD then writeData s line e else s
  let s := if wordHas w bitPH then pushLine s line else s
  let s := if serves && wordHas w bitGL then
      (match e.req with
       | some r => if readsOnly r.kind then grantLease s line e else if wordHas w bitWD then s else answerOnly s e
       | none => grantLease s line e) else s
  let s := match e.core with
    | some c =>
      let s := if serves && wordHas w bitGP then putCopy s c line (.push (lineBytes s line)) else s
      if serves && wordHas w bitPG then putCopy s c line (.pin (pinOwner e) s.cycles [] []) else s
    | none => s
  let s := if serves && gathers then gatherRed s (e.core.getD 0) e.op line else s
  let s := if serves && wordHas w bitOW then grantOwner s line e else s
  let s := if serves && wordHas w bitNC then answerHere s line e w else s
  let s := if e.ev = evUN then dropCopies s line isPin else s
  takeNext s line (wordNext w)

/-- The state a sealed range puts a line in before an event other than EV, LX, TO and MG (R339). -/
def sealedState (s : State) (line st e : Nat) : Nat :=
  if s.part.sealedAt (lineBase line) ∧ st < 2 ∧ e ≠ evEV ∧ e ≠ evLX ∧ e ≠ evTO ∧ e ≠ evMG then 3 else st

/-- The word that an event meets: a RED whose operation the UP word leaves out is dispatched as AT (R333). -/
def meetsWord (s : State) (line : Nat) (e : HomeEvent) : Word × Bool :=
  let st := sealedState s line (homeOf s line).state e.ev
  let w := protocolWord s.part (protoOf s line) st e.ev
  let red := e.ev = evRE ∧ wordHas w bitUP
  let opOk := e.core.isSome && (match opOf s e.op with
    | some o => (match o.body with
        | .atomic f _ _ => (wordOpmask w).testBit (opmaskBit f.op.toNat)
        | _ => false)
    | none => false)
  (if red ∧ !opOk then protocolWord s.part (protoOf s line) st evAT else w, red ∧ opOk)
/-- The time for which a WT word holds an event (R332). -/
def holdTime (w : Word) : Nat := 2 ^ (wordTsel w + 10)
/-- Whether a held event's time is up. -/
def timeUp (h : HomeLine) (ns : Nat) : Bool := h.held.any fun e => decide (e.due ≤ ns)
/-- An event held again: its time runs on from when it was first held, and anew once TO has run for it (log entry 70). -/
def holdAgain (e f : HomeEvent) (ns : Nat) : HomeEvent :=
  if e.due ≤ ns then f else { f with since := e.since, due := e.since + (f.due - f.since) }
/-- One event dispatched to a line. A WT word holds it; a hold behind infinite leases drops the line from every L1,
which counts as LX. -/
def dispatchEvent (s : State) (line : Nat) (e : HomeEvent) : State × HomeResult :=
  let (w, gathers) := meetsWord s line e
  let h := homeOf s line
  let st := sealedState s line h.state e.ev
  let s := if st = h.state then s else setHome s line { h with state := st }
  if wordHas w bitWT then
    let h := homeOf s line
    let h := { h with state := wordNext w, held := h.held ++ [{ e with since := s.ns, due := s.ns + holdTime w }] }
    let h := if h.horizon = some .never then { h with horizon := some (.at s.ns) } else h
    let s := setHome s line h
    (if s.part.sealedAt (lineBase line) then dropCopies s line isLease else s, .held)
  else if wordHas w bitER then (takeNext s line (wordNext w), .error (wordEcode w))
  else
    (runActions s line e w gathers, if wordHas w bitRY then .retry else .done)

/-- What an ER word reports: the subcode of PERM (R332, R335). -/
def ecodeSub (ecode : Nat) : Nat := if ecode = 0 then 2 else 0

/-- A copy that ends in a fault: it counts as complete, and its rack slot and completion word stay as they are; what it has
written goes on to its home (09 R272, R273). -/
def endCopyFault (s : State) (o : Op) (cause sub : Nat) (addr : DWord) (lanes : Mask) (remote : Bool) : State :=
  finishOp (holdFault { s with posted := s.posted.filter (·.id != o.id) } o.owner
    { op := o.id, cause, sub, addr, lanes, remote, value := o.value }) o
/-- A packet's write failed: its completion word, or data of its copy (14 R384, R387). -/
def failPacket (s : State) (id : Nat) : State :=
  { s with packets := s.packets.map fun x => if x.id = id then
      { x with asked := [], phase := match x.phase with
          | .writing .. => .wordFailed
          | .wordFailed => .wordFailed
          | _ => .ending 0x0A } else x }
/-- A held access answered with cancel: its strand, if it still waits there, raises the held cause in place of its
instruction, or its copy ends in the held fault (10 R285). -/
def cancelAccess (s : State) (h : HeldAccess) : State :=
  if h.copy = 0 then
    updStrand s h.owner fun k => if k.wait = some (.held h.seq) then { k with cancelled := some h.trap } else k
  else updOp s h.copy fun o => { o with cancelled := some (h.trap.sub, h.trap.addr, h.trap.lanes) }
def dropHeld (s : State) (t seq : Nat) : State :=
  updTenant s t fun tn => { tn with rplHeld := tn.rplHeld.filter (·.seq != seq) }
/-- The failure of a unit's write, as the unit answers it (15 R399; 16 R429; 10 R286; 14 R384). -/
def failUnit (s : State) (w : Writer) : State :=
  match w with
  | .frame w => (match warpOf s w with
      | some x => terminate s x.gang 4 w none
      | none => s)
  | .crumb t => updTenant s t fun t => { t with trcErr := true }
  | .packet id => failPacket s id
  | .block t q => queueError s t q 4
  | .replay t seq =>
    -- R286: the held cause is raised at once, as it would be without replay
    ((tenantOf s t).rplHeld.filter (·.seq == seq)).foldl cancelAccess (dropHeld s t seq)
  | _ => s
/-- The failure of a write at its home, as its writer answers it (R335; 09 R274; 15 R399; 16 R429; 14 R384). -/
def failWrite (s : State) (p : Pending) (ecode : Nat) : State :=
  let s := { s with pend := s.pend.filter (·.id != p.id) }
  match p.writer with
  | .strand =>
    holdFault s p.owner { op := p.op, cause := causePERM, sub := ecodeSub ecode, addr := p.va, lanes := p.lanes,
                          remote := false, value := p.value }
  | .copy => (match opOf s p.op with
      | some o => endCopyFault s o causeCOPY 4 p.va p.lanes false
      | none => s)
  | w => failUnit s w
/-- The failure of an event's access, raised where R335 says. -/
def failAccess (s : State) (line : Nat) (e : HomeEvent) (ecode : Nat) : State :=
  match e.req with
  | some r => if fromHost r then answer s r 0x0B 4 [] 0 else answer s r causePERM (ecodeSub ecode) [] 0
  | none =>
    if e.ev = evWR ∨ e.ev = evRL then
      match s.pend.find? (·.id == e.op) with
      | some p => failWrite s p ecode
      | none => s
    else
      match opOf s e.op, decide (e.ev = evAT ∨ e.ev = evRE) with
      | some o, true =>
        match o.body with
        | .atomic f returns ls =>
          let here := ls.filter fun x => onLine line x.1
          let s := holdFault s o.owner
            { op := o.id, cause := causePERM, sub := ecodeSub ecode, addr := ((here.head?).map (·.1.va)).getD 0,
              lanes := maskOfList (here.map (·.1.lane)), remote := false, value := o.value }
          setAtomLanes s o f returns (ls.filter fun x => !onLine line x.1)
        | .copy j => endCopyFault s o causeCOPY 8 j.word (1#64 <<< j.leader) false
        | _ => s
      | _, _ => s

/-- A pin published (11 R306): UN at the home. -/
def partEvent (s : State) (ev : Nat) : HomeEvent := { ev, core := none, op := 0, since := s.ns, req := none }
def publishPin (s : State) (line : Nat) : State := (dispatchEvent s line (partEvent s evUN)).1
/-- Pins that a core may hold. -/
def pinLimit : Nat := 32
/-- A PN that is to be granted to a core with 32 pins publishes its oldest first (11 R306). -/
def roomForPin (s : State) (line : Nat) (e : HomeEvent) : State :=
  let w := (meetsWord s line e).1
  match e.core, decide (e.ev = evPN) && wordHas w bitPG && !wordHas w bitWT && !wordHas w bitER && !wordHas w bitRY with
  | some c, true =>
    if pinLimit ≤ (pinsOf s c).length then
      (match pinsOf s c with
       | x :: _ => publishPin s x.line
       | [] => s)
    else s
  | _, _ => s
/-- An event dispatched, with its failure raised. -/
def dispatchOnce (s : State) (line : Nat) (e : HomeEvent) : State × HomeResult :=
  match dispatchEvent (roomForPin s line e) line e with
  | (s, .error c) => (failAccess s line e c, .error c)
  | x => x
/-- The event by which the store of a releasing one follows, where RL's word performs none: a HALO strip line's, whose push comes
first (log entry 73). -/
def storeAfter (s : State) (line : Nat) (e : HomeEvent) : Option HomeEvent :=
  if e.ev = evRL ∧ !wordHas (meetsWord s line e).1 bitWD ∧ (e.req.isSome ∨ e.op ≠ 0) then
    some { e with ev := if e.req.isSome then evRW else evWR } else none
def dispatch (s : State) (line : Nat) (e : HomeEvent) : State × HomeResult :=
  match dispatchOnce s line e, storeAfter s line e with
  | (s, .done), some e => dispatchOnce s line e
  | x, _ => x

/-- The code under which a strand asks for a line before its instruction is an operation. -/
def readCode (r : StrandRef) : Nat := firstCode + pinCode r
/-- A request that its home refuses is sent again: a peer's, the host's or a migration's by the part; the others by those who
ask, as they find neither an answer nor their event held. -/
def refuse (s : State) (line : Nat) (e : HomeEvent) : State :=
  match e.req with
  | some r => { s with retries := s.retries ++ [r] }
  | none => if e.ev = evMG then { s with again := s.again ++ [(line, e)] } else s
/-- An event of a page migration. -/
def drainLine (s : State) (line : Nat) (e : HomeEvent) : State :=
  match dispatch s line e with
  | (s, .retry) => refuse s line e
  | (s, _) => s
/-- Held events dispatched again, oldest first, each answered; one that meets WT again goes back to the head with those behind
it. -/
def redispatch (s : State) (line : Nat) : List HomeEvent → State
  | [] => s
  | e :: rest =>
    match dispatch s line e with
    | (s, .held) =>
      let h := homeOf s line
      setHome s line { h with held := h.held.map (holdAgain e · s.ns) ++ rest }
    | (s, .retry) => redispatch (refuse s line e) line rest
    | (s, .error c) => redispatch (noteAnswer s line e (some c)) line rest
    | (s, .done) => redispatch (noteAnswer s line e none) line rest

/-- LX or TO: its word, then the held events (R333); a line in I only forgets the horizon (R327). -/
def expire (s : State) (line ev : Nat) : State :=
  let h := homeOf s line
  if ev = evLX ∧ h.state = 0 ∧ h.held.isEmpty then setHome s line { h with horizon := none }
  else
    let s := setHome s line { h with held := [] }
    let s := (dispatch s line (partEvent s ev)).1
    let s := setHome s line { homeOf s line with horizon := if ev = evLX then none else (homeOf s line).horizon }
    redispatch s line h.held

/-- Whether a line's horizon has passed (R327). -/
def horizonPassed (s : State) (line : Nat) : Bool :=
  match (homeOf s line).horizon with
  | some e => e.passed s.ns
  | none => false

def publishPins (s : State) (p : L1Copy → Bool) : State :=
  (s.l1.filter fun c => isPin c.kind && p c).foldl (fun s c => publishPin s c.line) s
/-- The pins that strands of a warp set hold. -/
def heldBy (ws : List Nat) (c : L1Copy) : Bool :=
  match c.kind with
  | .pin r .. => ws.contains r.warp
  | _ => false

/-- A pin asked for by a strand. -/
def askPin (s : State) (r : StrandRef) (core line : Nat) : State :=
  (dispatch s line { ev := evPN, core := some core, op := pinCode r, since := s.ns, req := none }).1

end Sys2Proof.Machine
end

