-- ==== Sys2Proof/Machine/Gangs.lean ====
section
/-! DEFINITION. How warps, gangs and launches end (spec/01_work.md R20, R39, R40; spec/13_nodes.md R362, R366, R367;
spec/16_observe.md R428, R436). -/

namespace Sys2Proof.Machine

/-- Whether a strand still has operations outstanding (04 R134). -/
def Strand.busy (k : Strand) : Bool := !(k.ld.isEmpty && k.st.isEmpty && k.cp.isEmpty && k.mx.isEmpty)

/-- The strands that wait in EMITA count afresh once a cell is freed (13 R364). -/
def restartEmita (s : State) (tenant : Nat) : State :=
  let mine (w : Warp) : Bool := match gangOf s w.gang with
    | some g => (match launchOf s g.launch with | some l => l.tenant == tenant | none => false)
    | none => false
  { s with warps := s.warps.map fun w =>
      if mine w then
        { w with strands := w.strands.map fun k => if k.wait = some .records then { k with waitSince := s.cycles } else k }
      else w }

/-- A launch whose counter is 0 has ended: its packet's work ends, with code 0x09 after a fault (R367, 14 R387),
and 0x08 after its timeout. -/
def endLaunch (s : State) (l : Launch) : State :=
  let code := if l.timedOut then 0x08 else if l.faulted then 0x09 else 0x00
  { s with launches := s.launches.filter (·.uid != l.uid),
           packets := s.packets.map fun p => if p.id = l.packet then
             (match p.phase with
              | .ending _ => p
              | _ => { p with phase := .ending code }) else p }

/-- A change of the spawn-tree counter (R366), which may end the launch. -/
def changeCounter (s : State) (launch : Nat) (f : Nat → Nat) : State :=
  match launchOf s launch with
  | none => s
  | some l =>
    let l := { l with counter := f l.counter }
    let s := updLaunch s launch fun _ => l
    if l.counter = 0 then endLaunch s l else s

/-- Whether a gang's end frees record cells: those of its records and of the allocations that are discarded (13 R362). -/
def Gang.freesCells (g : Gang) : Bool := (g.records.any (·.cells.isSome)) || g.allocs.any fun a => !a.committed

/-- A gang retires (R20) or, terminated, counts as retired (R40): pins published, resources and records given back,
uncommitted allocations discarded. The bytes of its records keep their last values (DESIGN CHOICE, log entry 74).
Its crumb has team and warp 0, as those of its saves and resumptions have (DESIGN CHOICE, log entry 80). -/
def retireGang (s : State) (gang : Nat) (terminated : Bool) : State :=
  match gangOf s gang with
  | none => s
  | some g =>
    match launchOf s g.launch with
    | none => { s with gangs := s.gangs.filter (·.uid != gang), warps := s.warps.filter (·.gang != gang) }
    | some l =>
      let ws := (s.warps.filter (·.gang == gang)).map (·.uid)
      let s := publishPins s (heldBy ws)
      let s := crumb s l g 0 0 false g.die 0 0 3 0 (if terminated then 1 else 0)
      let core := (g.cores[0]?).getD 0
      let s := if terminated then s else
        setCore s core { coreOf s core with rcnt := (coreOf s core).rcnt + BitVec.ofNat 32 g.records.length }
      let u := (g.allocs.filter fun a => !a.committed).length
      let s := ws.foldl (fun s w => dropReads s l.tenant w) s
      let s := { s with gangs := s.gangs.filter (·.uid != gang), warps := s.warps.filter (·.gang != gang),
                        ops := s.ops.filter fun o => !ws.contains o.owner.warp }
      let s := if terminated then updLaunch s l.uid fun l => { l with faulted := true } else s
      let s := if g.freesCells then restartEmita s l.tenant else s
      changeCounter s l.uid fun c => c - 1 - u

/-- Whether every strand of a warp is done with nothing outstanding. -/
def Warp.finished (w : Warp) : Bool := w.strands.all fun k => k.isDone w.launched && !k.busy

/-- Whether a store of a warp is still on its way to its home, or a posted access unacknowledged: its failure would end the gang
(11 R310), so that the warp stays (log entry 67). -/
def Warp.awaits (s : State) (w : Warp) : Bool :=
  (s.posted.any fun p => p.owner.warp == w.uid) || s.pend.any fun p => p.owner.warp == w.uid

/-- A warp that has finished retires, and with the last of them its gang (R20). -/
def settleWarp (s : State) (warp : Nat) : State :=
  match warpOf s warp with
  | none => s
  | some w =>
    if w.mode = .running ∧ w.finished ∧ !w.awaits s then
      let s := updWarp s warp fun w => { w with mode := .retired }
      if (s.warps.filter (·.gang == w.gang)).all fun v => v.mode == .retired then retireGang s w.gang false else s
    else s

/-- An operation that has completed, and what may end with it. -/
def completeOp (s : State) (o : Op) : State := settleWarp (finishOp s o) o.owner.warp

end Sys2Proof.Machine
end

