-- ==== Sys2Proof/Machine/Frames.lean ====
section
/-! DEFINITION. The trap frame: how the part forms it, how it is read back, and how the trap kernel starts and ends
(spec/15_traps.md R399 to R405, R411 to R414; spec/05_registers.md R158, R159, R165). -/

namespace Sys2Proof.Machine

/-! ## A strand and its registers at launch (04 R130, R132; 05 R158, R159, R161) -/

def Strand.atLaunch (no entry length : Nat) (seed : DWord) (cycles : Nat) : Strand :=
  { no, entry, length, slots := List.replicate 4 (List.replicate 64 0), lpc := List.replicate 64 (BitVec.ofNat 32 entry),
    preds := List.replicate 64 0, exited := 0, calls := List.replicate 64 0, ix := 0, mode := 1, ftz := false,
    fpflags := 0, excmask := 0, rseed := seed, rerr := 0, rerrAddr := 0, rerrName := 0, bind := none, ld := [], st := [],
    cp := [], mx := [], tileBase := [], acts := [], arrivals := [], wait := none, waitSince := 0, lastIssue := cycles,
    debt := 0, faults := [], skipWatch := false, cancelled := none, em := none, arrivedAt := none }

/-- Full bits at launch: the writer's own, where it reads its register. -/
def NodeEntry.fullAtLaunch (n : NodeEntry) : List (BitVec 16) :=
  (List.range 64).map fun r =>
    let d := n.reg r
    if d.1 < 16 ∧ bit16 d.2 d.1 then bitMask16 d.1 else 0
/-- Seen bits at launch: every reader's. -/
def NodeEntry.seenAtLaunch (n : NodeEntry) : List (BitVec 16) := (List.range 32).map fun r => (n.reg (64 + r)).2

/-! ## Forming a frame (R400, R401) -/

def wordsBytes (ws : List Word) : List Byte := ws.flatMap fun w => leBytes 4 w.toNat

/-- The header's first part. -/
structure FrameHead where
  cause : Nat
  sub : Nat
  strand : Nat
  remote : Bool
  nested : Bool
  forced : Bool
  addr : DWord
  lanes : Mask
  value : DWord
  name : DWord
  deriving DecidableEq, Repr

/-- A value of each lane, 0 in lanes outside a mask: what never-launched lanes read as (01 R19). -/
def onlyIn {w : Nat} (m : Mask) (v : Lanes (BitVec w)) : Lanes (BitVec w) := v.mapIdx fun l x => if m.getLsbD l then x else 0
def bitIf (b : Bool) (i : Nat) : Nat := if b then 2 ^ i else 0

/-- A per-strand block; first is the first of the warp's frames on the strand's cluster. -/
def strandBlock (k : Strand) (launched : Mask) (first : Nat) : List Byte :=
  ((List.range 4).flatMap fun i => wordsBytes (onlyIn launched (k.slot i))) ++ wordsBytes k.lpc ++ onlyIn launched k.preds ++
  leBytes 1 k.ix.toNat ++ leBytes 1 (bitIf k.ftz 0) ++ zeros 2 ++ leBytes 4 k.counterWord ++
  leBytes 4 (bitIf (k.isDone launched) 0 + (match k.bind with
    | some b => 2 + bitIf b.int 2 + bitIf ((first + b.frame) % 2 == 1) 3
    | none => 0)) ++ zeros 4 ++
  leBytes 8 k.exited.toNat ++ leBytes 8 k.rseed.toNat ++ leBytes 4 k.fpflags.toNat ++ leBytes 4 k.excmask.toNat ++
  leBytes 4 (k.mode.toNat + bitIf k.ftz 3) ++ leBytes 4 k.rerr.toNat ++ leBytes 8 k.rerrAddr.toNat ++
  leBytes 8 k.rerrName.toNat ++
  leBytes 4 ((List.range 24).foldl (fun a p => a + bitIf (k.arrivals.any (·.pt == p)) p) 0) ++ zeros 4 ++
  ((List.range 24).flatMap fun p => leBytes 2 (((k.arrivals.find? (·.pt == p)).map (·.phase)).getD 0)) ++ zeros 8 ++
  k.calls.map (BitVec.ofNat 8 ·)

/-- A rack word of 0xA1C0: slots held or pending, and slots taken, by strands of a warp. -/
def rackWord (r : Rack) (warp : Nat) : Nat :=
  ((List.range 16).zip r.slots).foldl (fun a x =>
    let mine := x.2.2.toNat / 16 == warp
    let low := match x.2.1 with
      | .held => true
      | .droppedHeld => true
      | .pending => true
      | .droppedPending => true
      | _ => false
    a + bitIf (mine && low) x.1 + bitIf (mine && x.2.1 == .taken) (16 + x.1)) 0

/-- Pins of a warp as 0xA240 lists them, in grant order. -/
def pinWords (s : State) (warp : Nat) : List Nat :=
  s.l1.filterMap fun c => match c.kind with
    | .pin r .. => if r.warp = warp then some (c.line * 64 + 32 + r.no % 16) else none
    | _ => none

/-- The bytes of a frame (15 R399). -/
def frameSize : Nat := 0xB000

/-- The whole frame of a warp. -/
def frameBytes (s : State) (n : NodeEntry) (team : Option Team) (w : Warp) (h : FrameHead) : List Byte :=
  let live := w.strands.filter fun k => !k.isDone w.launched
  let strandAt (i : Nat) := w.strands.find? (·.no == i)
  padTo frameSize (leBytes 4 (h.cause + 256 * h.sub + 65536 * (h.strand % 16) + bitIf h.remote 20 + bitIf h.nested 21 + bitIf h.forced 22 +
    2 ^ 24 * live.length) ++
  leBytes 4 (live.foldl (fun a k => a + 2 ^ k.no) 0) ++ leBytes 8 h.addr.toNat ++ leBytes 8 h.lanes.toNat ++
  leBytes 8 h.value.toNat ++ leBytes 8 h.name.toNat ++ leBytes 8 s.ns ++ leBytes 8 w.launched.toNat ++ zeros 8 ++
  ((List.range 16).flatMap fun i => leBytes 4 (match strandAt i with
    | some k => if k.isDone w.launched then 0xFFFFFFFF else (k.issueAddress w.launched).toNat
    | none => 0xFFFFFFFF)) ++
  wordsBytes w.sregs ++
  ((List.range 16).flatMap fun i => match strandAt i with
    | some k => strandBlock k w.launched ((w.frames[k.no % 8]?).getD 0)
    | none => zeros 0x600) ++
  ((List.range 64).flatMap fun r =>
    if (List.range 8).any fun c => n.hasCopy c r then wordsBytes (onlyIn w.launched ((w.gregs[r]?).getD [])) else zeros 256) ++
  w.full.flatMap (fun m => leBytes 2 m.toNat) ++ w.seen.flatMap (fun m => leBytes 2 m.toNat) ++
  padTo 128 (((team.map (·.racks)).getD []).flatMap fun r => leBytes 4 (rackWord r w.num)) ++
  padTo 256 ((pinWords s w.uid).flatMap (leBytes 8)))

def TrapRec.head (t : TrapRec) : FrameHead :=
  { cause := t.cause, sub := t.sub, strand := t.strand, remote := t.remote, nested := false, forced := false,
    addr := t.addr, lanes := t.lanes, value := t.value, name := t.name }
/-- The header of a halt (cause 0x16) or a pre-emption (0x00). -/
def stopHead (s : State) (cause : Nat) (nested forced : Bool) : FrameHead :=
  { cause, sub := if forced then 1 else 0, strand := (Config.freeStrand s.fresh).toNat, remote := false, nested, forced,
    addr := 0, lanes := 0, value := 0, name := Config.freeName s.fresh }

/-! ## Reading a frame back -/

def sliceWords (bs : List Byte) (off n : Nat) : List Word :=
  (List.range n).map fun i => BitVec.ofNat 32 (sliceNat (bs.drop off) (4 * i) 4)

/-- A strand with every restored field of its block (R401). -/
def Strand.restore (k : Strand) (launched : Mask) (b : List Byte) : Strand :=
  let keep := k.live launched
  let rm := sliceNat b 0x568 4 % 8
  let seed := BitVec.ofNat 64 (sliceNat b 0x558 8)
  let arrived := sliceNat b 0x580 4
  { k with
    slots := (List.range 4).map fun i => onlyIn launched (sliceWords b (0x100 * i) 64)
    lpc := setLanes keep (fun l => BitVec.ofNat 32 (sliceNat b (0x400 + 4 * l) 4)) k.lpc
    preds := onlyIn launched ((b.drop 0x500).take 64)
    ix := BitVec.ofNat 6 (sliceNat b 0x540 1)
    ftz := sliceNat b 0x541 1 % 2 == 1
    ld := []
    st := []
    rseed := if seed = 0 then seedConstant else seed
    fpflags := BitVec.ofNat 5 (sliceNat b 0x560 4)
    excmask := BitVec.ofNat 5 (sliceNat b 0x564 4)
    mode := if 1 ≤ rm ∧ rm ≤ 5 then BitVec.ofNat 3 rm else 1
    rerr := BitVec.ofNat 32 (sliceNat b 0x56C 4) &&& 0xC1FFFFFF#32
    rerrAddr := BitVec.ofNat 64 (sliceNat b 0x570 8)
    rerrName := BitVec.ofNat 64 (sliceNat b 0x578 8)
    arrivals := (List.range 24).filterMap fun p =>
      if arrived.testBit p then some { pt := p, phase := sliceNat b (0x588 + 2 * p) 2 } else none
    calls := (List.range 64).map fun l => if launched.getLsbD l then min (sliceNat b (0x5C0 + l) 1) 16 else 0
    wait := (match k.wait with
      | some (.acquired scope) => some (.acquired scope)
      | _ => none) }

/-- A warp with every restored field of its frame (R400). -/
def Warp.restore (w : Warp) (n : NodeEntry) (b : List Byte) : Warp :=
  { w with
    strands := w.strands.map fun k => k.restore w.launched ((b.drop (0x100 + 0x600 * k.no)).take 0x600)
    sregs := sliceWords b 0x080 32
    gregs := (List.range 64).map fun r =>
      if (List.range 8).any fun c => n.hasCopy c r then onlyIn w.launched (sliceWords b (0x6100 + 256 * r) 64)
      else List.replicate 64 0
    full := (List.range 64).map fun r =>
      (BitVec.ofNat 16 (sliceNat b (0xA100 + 2 * r) 2) &&& (n.reg r).2) ||| ((n.fullAtLaunch[r]?).getD 0)
    seen := (List.range 32).map fun r => BitVec.ofNat 16 (sliceNat b (0xA180 + 2 * r) 2) &&& (n.reg (64 + r)).2 }

/-! ## Node of a warp -/

def nodeOf (s : State) (w : Warp) : Option (Gang × Launch × NodeEntry) := do
  let g ← gangOf s w.gang
  let l ← launchOf s g.launch
  let n ← l.nodes[g.node]?
  some (g, l, n)
def teamOf (g : Gang) (w : Warp) : Option Team := g.teams[w.team]?

/-! ## The trap kernel (R402 to R404) -/

/-- The kernel in the warp's place. -/
def Warp.startKernel (w : Warp) (l : Launch) (t : NodeEntry) (cycles : Nat) : Warp :=
  let (no, entry, len) := (t.strands[0]?).getD (0, 0, 0)
  { w with
    mode := .handler
    kernel := some (Strand.atLaunch no entry len (seedFor l w 0) cycles)
    gregs := List.replicate 64 (List.replicate 64 0)
    full := t.fullAtLaunch
    seen := t.seenAtLaunch
    traps := 1 }

/-- A frame written to a warp's place in its save area, behind the stores of its core; none where it cannot be written (R399). What
was read back of an earlier one is out of date. -/
def writeFrame (s : State) (l : Launch) (w : Warp) (bytes : List Byte) : Option State :=
  unitWrite (dropReads s l.tenant w.uid) l.tenant l.privileged w.core (.frame w.uid) false w.tframe.toNat bytes
/-- Local memory as a core sees it: with the writes that its home has yet to perform. -/
def seenMem (s : State) (core : Nat) : Memory := (s.pend.filter (·.core == core)).foldl Memory.perform s.mem
/-- The reader of a warp's frame, and the frame's pieces. -/
def frameReader (l : Launch) (w : Warp) : UnitReader := { packet := w.uid, tenant := l.tenant, kept := true }
def framePieces (s : State) (l : Launch) (w : Warp) : Except (Failure × Nat) (List (Target × Nat)) :=
  checkSpans s l.tenant (unitReq false l.privileged) (spansOf w.tframe.toNat frameSize)
/-- Whether what lies outside the part of a frame that can be read has come. -/
def frameIn (s : State) (l : Launch) (w : Warp) : Bool :=
  match framePieces s l w with
  | .error _ => true
  | .ok ts => ts.all fun t => !isRemote t.1 || ((frameReader l w).came s t).isSome
/-- It is asked for, at CORE scope. -/
def askFrame (s : State) (l : Launch) (w : Warp) : State :=
  match framePieces s l w with
  | .error _ => s
  | .ok ts => (((spansOf w.tframe.toNat frameSize).map (·.1)).zip ts).foldl ((frameReader l w).ask 1) s
/-- Whether a frame's reader can go on, or has a request to send first. -/
def frameTurn (s : State) (l : Launch) (w : Warp) : Bool := frameIn s l w || (askFrame s l w).nextId != s.nextId
/-- A warp's frame, once it is there, read back at CORE scope, the stores of its core seen (R411); none where it cannot be read. -/
def readFrame (s : State) (l : Launch) (w : Warp) : Option (List Byte) :=
  let u := frameReader l w
  match framePieces s l w with
  | .error _ => none
  | .ok ts => if ts.any fun t => isRemote t.1 && (u.came s t).any (·.1 != 0) then none
    else some (ts.flatMap fun t => u.piece { s with mem := seenMem s w.core } t)

def Strand.drained (s : State) (k : Strand) : Bool := k.ld.isEmpty && k.st.isEmpty && !inCall s k
/-- Whether a warp's issued instructions have retired and its LD and ST counters are 0 (R397 steps 2 and 3). -/
def Warp.drained (s : State) (w : Warp) : Bool :=
  w.strands.all (·.drained s) && (match w.kernel with
    | some k => k.drained s
    | none => true)

/-- A warp that does not go on: its frame is formed (R408). -/
def endWarp (s : State) (warp : Nat) : State := updWarp s warp fun w => { w with mode := .terminated }
/-- R397 step 4: the frame of a trapped warp, then the trap kernel; without a trap entry the gang ends with kind 0, and
with kind 4 where the frame cannot be written. In a gang that ends already the warp stops there. -/
def writeTrapFrame (s : State) (warp : Nat) : State :=
  match warpOf s warp with
  | none => s
  | some w =>
    match w.mode, nodeOf s w with
    | .stopping t, some (g, l, n) =>
      if !w.drained s then s
      else
        let bytes := frameBytes s n (teamOf g w) w t.head
        let s := updWarp s warp fun w => { w with formed := bytes }
        match g.phase with
        | .terminating _ _ _ => endWarp ((writeFrame s l w bytes).getD s) warp
        | _ =>
          match writeFrame s l w bytes with
          | none => terminate (endWarp s warp) g.uid 4 warp none
          | some s =>
            match l.trap with
            | none => terminate (endWarp s warp) g.uid 0 warp none
            | some t => updWarp s warp fun w => w.startKernel l t s.cycles
    | _, _ => s

/-- A running warp stopped for a debugger: its frame is formed and written (R413). -/
def haltWarp (s : State) (warp : Nat) : State :=
  match warpOf s warp with
  | none => s
  | some w =>
    match nodeOf s w with
    | some (g, l, n) =>
      let w := w.stopped s
      let bytes := frameBytes s n (teamOf g w) w (stopHead s causeHALT false false)
      let s := updWarp (dropAsked s warp) warp fun _ => { w with mode := .halted false, haltPending := false, formed := bytes }
      match writeFrame s l w bytes with
      | none => terminate s g.uid 4 warp none
      | some s => s
    | none => s

/-- The header of a frame with the cause, subcode, nested and forced bits of a halt in or after a trap kernel; the rest of
the frame as it stands (R413, R414). -/
def haltOver (forced : Bool) (b : List Byte) : List Byte :=
  leBytes 4 (causeHALT + sliceNat b 2 1 % 32 * 65536 + sliceNat b 3 1 * 2 ^ 24 + 2 ^ 21 +
    (if forced then 256 + 2 ^ 22 else 0)) ++ b.drop 4
/-- A warp stopped for a debugger at the end of its trap kernel, or by force in it: the halt's header over the frame b that
the kernel left. -/
def haltKernel (s : State) (warp : Nat) (forced : Bool) (b : List Byte) : State :=
  match warpOf s warp with
  | none => s
  | some w =>
    match nodeOf s w with
    | some (g, l, _) =>
      let s := updWarp s warp fun w =>
        { w with mode := .halted true, kernel := none, haltPending := false, forced := false, traps := 0,
                 formed := haltOver forced w.formed }
      match writeFrame s l w (haltOver forced b) with
      | none => terminate s g.uid 4 warp none
      | some s => s
    | none => s

/-- A warp restored from its frame: it issues again from its restored LPCs (R411). -/
def Warp.resumed (w : Warp) (n : NodeEntry) (b : List Byte) (s : State) : Warp :=
  ({ w with kernel := none, mode := .running, traps := 0, preemptAt := s.ns } : Warp).restore n b
/-- What each strand's next access does with the watch filter (16 R435): after XRET from a WATCH trap the faulting strand's
instruction is not checked at its next issue; nor is one that an earlier XRET exempted and that has not issued since. -/
def Warp.watching (w : Warp) (f : Strand → Bool) : Warp :=
  { w with strands := w.strands.map fun k => { k with skipWatch := k.skipWatch || f k } }
/-- The strand that a frame of cause WATCH, as the part formed it, names. -/
def watchedBy (b : List Byte) (k : Strand) : Bool := sliceNat b 0 1 == causeWATCH && sliceNat b 2 1 % 16 == k.no
/-- Lanes that exited in the trap kernel exit in every strand (R404). -/
def Warp.exitLanes (w : Warp) (m : Mask) : Warp :=
  { w with strands := w.strands.map fun k => { k with exited := k.exited ||| m } }

/-- The trap kernel ends (R404, R411), its frame there: the frame is read and restored, lanes that exited in the kernel exit everywhere,
and the warp issues again, or stops for a halt that was held pending. -/
def endKernel (s : State) (warp : Nat) (exited : Mask) : State :=
  match warpOf s warp with
  | none => s
  | some w =>
    match nodeOf s w with
    | none => s
    | some (g, l, n) =>
      match readFrame s l w with
      | none => terminate s g.uid 4 warp none
      | some b =>
        let w := ((w.resumed n b s).watching (watchedBy w.formed)).exitLanes exited
        let s := updWarp s warp fun _ => w
        if w.haltPending then haltKernel s warp false b else settleWarp s warp

/-- An instruction of the trap kernel's strand that ends the kernel: it waits for LD, ST and CP to be 0, then for the frame; the state
is that of the kernel's end. -/
def Ctx.afterKernel (c : Ctx) (t : State) : Out :=
  if !c.k0.countersWithin 0 0 0 7 then c.stall (.counters 0 0 0 7)
  else if !frameIn c.s c.l c.w0 then ({ c with s := askFrame c.s c.l c.w0 } : Ctx).stall .line
  else .next t

end Sys2Proof.Machine
end

