-- ==== Sys2Proof/Machine/Access.lean ====
section
/-! DEFINITION. The checks of a strand's global accesses with replay, waits for visibility and release,
and reads of local values with a core's own stores (spec/10_memory.md R284 to R286, R292; spec/11_ordering.md R296 to
R310). -/

namespace Sys2Proof.Machine

/-! ## Replayable faults (10 R285, R286) -/

/-- Whether a failure may be held: XLATE 0 or PERM 0. -/
def replayable (f : LaneFailure) : Bool := (f.cause == causeXLATE || f.cause == causePERM) && f.sub == 0

def ringLog (v : DWord) (cap : Nat) : Nat := min (field v 3 0) cap
def ringBase (v : DWord) : Nat := field v 55 16 * 65536

/-- A replayable fault record: the logical name, group index and strand of the thread that is held. -/
def replayRecord (s : State) (kind cause : Nat) (addr name : DWord) (group : Word) (no seq : Nat) : List Byte :=
  leBytes 4 (cause + kind * 65536) ++ zeros 4 ++ leBytes 8 addr.toNat ++ leBytes 8 name.toNat ++
  leBytes 8 (group.toNat + 2 ^ 32 * (no % 16)) ++ leBytes 8 s.ns ++ zeros 16 ++ leBytes 8 seq

/-- Whether the ring has a free place for the next record: none is overwritten before it is answered. -/
def ringFree (t : Tenant) : Bool :=
  let n := 2 ^ ringLog t.rplqSize 10
  decide (t.rplHeld.length < n) && t.rplHeld.all fun h => h.seq % n != (t.rplSeq + 1) % n

/-- What became of an attempt to hold an access. -/
inductive HoldResult
  | full
  | noRing
  | held (s : State) (seq : Nat)

/-- A record written for an access of a strand, or of its copy, as a release at SYSTEM scope; the interrupt cause is set once it
is performed, and a write that fails raises the held cause. The record shows the cause of
the walk's or the permission's failure; t is the trap or fault that a cancel raises. -/
def holdAccess (s : State) (tenant : Nat) (r : StrandRef) (copy kind cause : Nat) (vas : List DWord) (t : TrapRec) (group : Word) :
    HoldResult :=
  let tn := tenantOf s tenant
  let n := ringLog tn.rplqSize 10
  if !tn.rplqBase.getLsbD 0 then .noRing
  else if !ringFree tn then .full
  else
    let seq := tn.rplSeq + 1
    match unitWrite s tenant false unitCore (.replay tenant seq) true (ringBase tn.rplqBase + 64 * (seq % 2 ^ n))
        (replayRecord s kind cause t.addr t.name group r.no seq) with
    | none => .noRing
    | some s' =>
      let h : HeldAccess := { seq, owner := r, copy, vas, trap := t, job := s.nextId, told := false }
      .held (updTenant s' tenant fun t => { t with rplSeq := seq, rplHeld := t.rplHeld ++ [h] }) seq

/-- A held access whose record has been performed and whose cause is not set yet. -/
def untold (s : State) (t : Tenant) : Option HeldAccess := t.rplHeld.find? fun h => !h.told && jobDone s h.job
/-- The interrupt cause of a record that has been performed (R286). -/
def tellHeld (s : State) (tenant : Nat) : State :=
  match untold s (tenantOf s tenant) with
  | some h =>
    let s := updTenant s tenant fun t =>
      { t with rplHeld := t.rplHeld.map fun x => if x.seq = h.seq then { x with told := true } else x }
    raiseCause s tenant 4 (causeVector s tenant 4)
  | none => s

/-- A failure of the checks: held for replay where the tenant has it, else the trap. kind is the access code of R286. -/
def Ctx.accessFault (c : Ctx) (kind : Nat) (vas : List DWord) (f : LaneFailure) : Out :=
  if (tenantOf c.s c.tenant).replay && replayable f then
    match holdAccess c.s c.tenant c.ref 0 kind f.cause vas (c.record f.cause f.sub f.addr f.lanes) c.g.index with
    | .noRing => c.trap f.cause f.sub f.addr f.lanes
    | .full => c.stall .ringFull
    | .held s seq => { c with s }.stall (.held seq)
  else c.trap f.cause f.sub f.addr f.lanes

/-- The checks of R284 over the accesses listed, then what follows with their places. -/
def Ctx.checkedBy (c : Ctx) (byAddr : Bool) (kind size : Nat) (write tagOk : Bool) (ls : List (Nat × DWord))
    (f : Ctx → List (Nat × DWord × Target) → Out) : Out :=
  let r : AccessReq := { size, write, tagOk, priv := c.l.privileged }
  let (s, xs) := checkLanes c.s c.w0.core c.tenant r ls
  match firstFailure byAddr xs with
  | some x => { c with s }.accessFault kind (ls.map Prod.snd) x
  | none => f { c with s } (accessesOf xs)
def Ctx.checked (c : Ctx) (kind size : Nat) (write tagOk : Bool) (ls : List (Nat × DWord))
    (f : Ctx → List (Nat × DWord × Target) → Out) : Out := c.checkedBy false kind size write tagOk ls f

/-! ## Watchpoints (16 R432 to R435) -/

def watchHash (m : Nat) (v : Nat) : Nat := v * m % 2 ^ 64 / 2 ^ 52
def filterBit (c : Core) (i : Nat) : Bool := (tget 0 c.filter (i / 32)).testBit (i % 32)
/-- Whether a line number hits the filter. -/
def watchHit (c : Core) (v : Nat) : Bool :=
  filterBit c (watchHash 0x9E3779B97F4A7C15 v) && filterBit c (watchHash 0xC2B2AE3D27D4EB4F v) &&
  filterBit c (watchHash 0x165667B19E3779F9 v)
/-- Whether a core checks an access of this strand: sub 0 a load, 1 a store, 2 an atomic. -/
def Ctx.watches (c : Ctx) (sub : Nat) : Bool :=
  let w := (coreOf c.s c.w0.core).wctl
  w.getLsbD 0 && field w 31 16 == c.l.number.toNat && field w 15 10 == c.tenant &&
  (if sub = 0 then w.getLsbD 1 else w.getLsbD 2) && !c.k0.skipWatch
/-- The watch check, after R284 passes. -/
def Ctx.watched (c : Ctx) (sub size : Nat) (ls : List (Nat × DWord)) (f : Out) : Out :=
  if c.watches sub then
    let core := coreOf c.s c.w0.core
    let hits := ls.filter fun (_, va) =>
      watchHit core (va.toNat % 2 ^ 56 / 64) || watchHit core ((va.toNat + size - 1) % 2 ^ 56 / 64)
    match hits with
    | [] => f
    | (_, va) :: _ => c.trap causeWATCH sub va (maskOfList (hits.map (·.1)))
  else f

/-! ## Scopes and releases (11 R296, R301, R308, R310) -/

/-- The scope under which an access is kept: 8 more marks the load of an ACQ word form, and 16 more a streaming access (10 R294). -/
def scopeOf (code : Nat) : Nat := code % 8
def readsAcq (code : Nat) : Bool := code / 8 % 2 == 1
def streams (code : Nat) : Bool := code / 16 % 2 == 1
def scopeCORE : Nat := 1
def scopeYARD : Nat := 2
def scopePKG : Nat := 4
def scopeNEAR : Nat := 5

/-- A strand's stores that its home has not performed, and those its core sees (log entry 6). -/
def pendingOfCore (s : State) (core : Nat) : Bool := s.pend.any (·.core == core)
def ownStores (s : State) (r : StrandRef) : Bool :=
  s.ops.any fun o => o.owner == r && (match o.body with | .store .. => true | _ => false)
/-- Atomics of the strand not yet performed. -/
def ownAtomics (s : State) (r : StrandRef) : Bool :=
  s.ops.any fun o => o.owner == r && (match o.body with | .atomic .. => true | _ => false)
def ownPosted (s : State) (r : StrandRef) : Bool := s.posted.any (·.owner == r)

/-- Whether a strand has stored to a line, or read a store from it, that its core holds under a pin p passes: beyond the core that
store is performed when the pin is published (R301). -/
def pinTouched (s : State) (core : Nat) (p : StrandRef → List StrandRef → List StrandRef → Bool) : Bool :=
  s.l1.any fun c => c.core == core && (match c.kind with
    | .pin h _ st ld => p h st ld
    | _ => false)
/-- A pin of another strand, which holds a release. -/
def othersPin (s : State) (core : Nat) (r : StrandRef) : Bool :=
  pinTouched s core fun h st ld => h != r && (st.contains r || (ld.contains r && !st.isEmpty))
/-- A pin of any strand, which holds an acquire. -/
def readPin (s : State) (core : Nat) (r : StrandRef) : Bool := pinTouched s core fun _ st ld => ld.contains r && !st.isEmpty

/-- Whether a release at a scope may be made: LD and ST at 0 and every atomic performed; from YARD on every store its core
may have read performed at its home; from NEAR on every remote access acknowledged. -/
def releaseHolds (s : State) (core : Nat) (r : StrandRef) (k : Strand) (scope : Nat) : Bool :=
  k.ld.isEmpty && k.st.isEmpty && !ownAtomics s r &&
  (decide (scope < scopeYARD) || (!pendingOfCore s core && !othersPin s core r)) &&
  (decide (scope < scopeNEAR) || !ownPosted s r)
/-- Whether two byte spans meet. -/
def overlaps (a n b m : Nat) : Bool := decide (a < b + m) && decide (b < a + n)
/-- A strand's reads of local memory, addresses and sizes, noted at those of its stores older than an id that its core does not
see yet and that they take bytes from. -/
def noteReads (s : State) (r : StrandRef) (upTo : Nat) (reads : List (Nat × Nat)) : State :=
  let met (a : LaneAccess) : Bool := match a.target with
    | .mem p => reads.any fun x => overlaps x.1 x.2 p a.data.length
    | _ => false
  { s with ops := s.ops.map fun o =>
      if o.owner = r ∧ o.id < upTo then
        (match o.body with
         | .store size scope rel ls => { o with body := .store size scope rel (ls.map fun a => if met a then { a with back := some [] } else a) }
         | _ => o)
      else o }
/-- Whether a load of the strand has read such a store. -/
def readsOwn (s : State) (r : StrandRef) : Bool :=
  s.ops.any fun o => o.owner == r && (match o.body with
    | .store _ _ _ ls => ls.any (·.back.isSome)
    | _ => false)
/-- Whether an acquire at a scope may be made: every load performed, and the stores it may have read. -/
def acquireHolds (s : State) (core : Nat) (r : StrandRef) (k : Strand) (scope : Nat) : Bool :=
  k.ld.isEmpty && !readsOwn s r && (decide (scope < scopeYARD) || (!pendingOfCore s core && !readPin s core r))

/-- The fields of %rerr: V and the cause (R309). -/
def rerrV (e : Word) : Bool := e.getLsbD 31
/-- R310: the trap of a release that finds V = 1; V and MULT are cleared. -/
def Ctx.remoteTrap (c : Ctx) : Out :=
  let t : TrapRec :=
    { strand := c.no, cause := causeREMOTE, sub := field c.k0.rerr 15 8, addr := c.k0.rerrAddr, lanes := c.exec,
      value := c.value, remote := true, name := c.k0.rerrName }
  let s := updStrand c.s c.ref fun k => { k with rerr := k.rerr &&& 0x3FFFFFFF#32 }
  .next (takeTrap s c.l c.g (match warpOf s c.w0.uid with | some w => w | none => c.w0) t)

/-- The pins of a strand published by its release at YARD scope or wider (R306). -/
def Ctx.publishOwnPins (c : Ctx) : Ctx :=
  c.through fun s => publishPins s fun p => match p.kind with | .pin r .. => r == c.ref | _ => false

/-- A release at a scope (R301): its waits, then R310, then its pins, then f. -/
def Ctx.release (c : Ctx) (scope : Nat) (f : Ctx → Out) : Out :=
  if !releaseHolds c.s c.w0.core c.ref c.k0 scope then c.stall (.released scope)
  else if scopeNEAR ≤ scope && rerrV c.k0.rerr then c.remoteTrap
  else f (if scopeYARD ≤ scope then c.publishOwnPins else c)
/-- A core's leased copies of LEASE lines dropped, and those of lines outside the part. -/
def dropLeases (s : State) (core : Nat) : State :=
  { s with l1 := s.l1.filter fun x => !(x.core == core && isLease x.kind && protoOf s x.line == 1)
           far := s.far.filter (·.core != core) }
/-- An acquire at a scope: its wait; beyond CORE the core's leased copies of LEASE lines are dropped (R301). -/
def Ctx.acquire (c : Ctx) (scope : Nat) (f : Ctx → Out) : Out :=
  if !acquireHolds c.s c.w0.core c.ref c.k0 scope then c.stall (.acquired scope)
  else f (if scopeYARD ≤ scope then { c with s := dropLeases c.s c.w0.core } else c)

/-! ## What leaves the part (11 R308) -/

/-- A request for a strand's operation sent out of the part. -/
def Ctx.request (c : Ctx) (op : Nat) (t : Target) (kind : AccessKind) (size : Nat) (data : List Byte) (l : Nat) : Sent :=
  .request op t c.tenant kind size data none 0 false (fullName c.l c.g c.w0 l c.no)

/-! ## Values a core reads (R292, R297) -/

/-- New bytes laid over a read of n bytes from a. -/
def overlay (a : Nat) (bs : List Byte) (at_ : Nat) (new : List Byte) : List Byte :=
  bs.zipIdx.map fun (b, i) => if at_ ≤ a + i ∧ a + i < at_ + new.length then (new[a + i - at_]?).getD b else b

/-- n bytes of local memory as a strand of a core reads them: the core's push copy or the line's value, under the
stores its core sees and then the strand's own earlier stores (before operation upTo). -/
def coreRead (s : State) (core : Nat) (r : StrandRef) (upTo pa n : Nat) (push : Bool) : List Byte :=
  let base := match copyOf s core (lineOf pa) with
    | some (.push bs) => if push then (bs.drop (pa % 64)).take n else s.mem.read pa n
    | _ => s.mem.read pa n
  let seen := (s.pend.filter fun p => p.core == core && !p.window).foldl (fun bs p => overlay pa bs p.pa p.bytes) base
  (s.ops.filter fun o => o.owner == r && decide (o.id < upTo)).foldl (fun bs o =>
    match o.body with
    | .store _ _ _ ls => ls.foldl (fun bs a => match a.target with | .mem p => overlay pa bs p a.data | _ => bs) bs
    | _ => bs) seen

/-- Whether n bytes of a place meet m bytes of another, in local memory or the tag window: to one location. -/
def Target.meets (a : Target) (n : Nat) (b : Target) (m : Nat) : Bool :=
  match a, b with
  | .mem p, .mem q => overlaps p n q m
  | .tagWindow p, .tagWindow q => overlaps p n q m
  | .mem p, .tagWindow q => tagMeets p n q m
  | .tagWindow p, .mem q => tagMeets q m p n
  | _, _ => false
where
  -- a tag is part of its line's location (03 R122)
  tagMeets (p n q m : Nat) : Bool :=
    overlaps (lineOf p) (lineOf (p + n - 1) + 1 - lineOf p) (q / 2) ((q + m - 1) / 2 + 1 - q / 2)
def isTagWindow : Target → Bool
  | .tagWindow _ => true
  | _ => false
/-- Whether an operation still has to touch n bytes of a place; its stores to memory count where stores says so. -/
def OpBody.touches (b : OpBody) (t : Target) (n : Nat) (stores : Bool) : Bool :=
  match b with
  | .load sz _ _ ls => ls.any fun a => a.target.meets sz t n
  | .store _ _ _ ls => (stores || isTagWindow t) && ls.any fun a => a.target.meets a.data.length t n
  | .atomic f _ ls => ls.any fun x => x.1.target.meets (atomBytes f.ty.toNat) t n
  | .fill _ _ _ ls => ls.any fun a => a.target.meets a.data.length t n
  | .tileLoad _ ls => ls.any fun a => a.target.meets 4 t n
  | _ => false
/-- Whether an operation of the strand older than id still has to touch n bytes of a place. -/
def olderTouches (s : State) (r : StrandRef) (id : Nat) (t : Target) (n : Nat) (stores : Bool) : Bool :=
  s.ops.any fun o => o.owner == r && decide (o.id < id) && o.body.touches t n stores
/-- Whether a store that its core sees and its home has not performed touches n bytes of memory. -/
def pendTouches (s : State) (core pa n : Nat) : Bool :=
  s.pend.any fun p => p.core == core && !p.window && overlaps pa n p.pa p.bytes.length

end Sys2Proof.Machine
end

