-- ==== Sys2Proof/Machine/Remote.lean ====
section
/-! DEFINITION. Operations between strands and the world outside the part: requests that go out, failures at once,
%rerr, and operations that lose their lanes one after another (spec/10_memory.md R293; spec/11_ordering.md R308 to
R310; spec/12_protocols.md R335; spec/17_links.md R440, R445, R449). -/

namespace Sys2Proof.Machine

/-- The device number that %rerr reports for a place. -/
def deviceOf : Target → Nat
  | .peer d _ => d
  | _ => 0x1FF

/-! ## %rerr (11 R309) -/

/-- A failure recorded: the first with its place and name; MULT once there are more. -/
def Strand.failed (k : Strand) (device cause sub : Nat) (addr name : DWord) : Strand :=
  if rerrV k.rerr then { k with rerr := k.rerr ||| 0x40000000#32 }
  else { k with rerr := BitVec.ofNat 32 (2 ^ 31 + device % 512 * 65536 + cause % 256 * 256 + sub % 256),
                rerrAddr := addr, rerrName := name }

/-- The logical name of a strand's lane. -/
def nameOf (s : State) (r : StrandRef) (l : Nat) : DWord :=
  match warpOf s r.warp with
  | some w => (match nodeOf s w with | some (g, la, _) => nameIn la g w l | none => 0)
  | none => 0

/-- Its full name. -/
def nameFull (s : State) (r : StrandRef) (l : Nat) : FullName :=
  match warpOf s r.warp with
  | some w => (match nodeOf s w with | some (g, la, _) => fullName la g w l r.no | none => noName)
  | none => noName

/-- A posted access's failure: recorded; a done strand's gang ends (R310). -/
def recordRerr (s : State) (r : StrandRef) (a : LaneAccess) (cause sub : Nat) : State :=
  faultDone (updStrand s r fun k => k.failed (deviceOf a.target) cause sub a.va (nameOf s r a.lane)) r

/-! ## Operations that lose their lanes -/

/-- An operation without the lanes that satisfy p. -/
def OpBody.dropLanes (b : OpBody) (p : LaneAccess → Bool) : OpBody :=
  match b with
  | .load sz d sc ls => .load sz d sc (ls.filter (!p ·))
  | .store sz sc rel ls => .store sz sc rel (ls.filter (!p ·))
  | .fill sl fm m ls => .fill sl fm m (ls.filter (!p ·))
  | .head ls => .head (ls.filter (!p ·))
  | .atomic f r ls => .atomic f r (ls.filter (!p ·.1))
  | .tileLoad c ls => .tileLoad c (ls.filter (!p ·))
  | .tileStore c sz code ls => .tileStore c sz code (ls.filter (!p ·))
  | .callWrite a t n h ls => .callWrite a t n h (ls.filter (!p ·))
  | .retRead a n h ls => .retRead a n h (ls.filter (!p ·))
  | b => b
/-- The lanes an operation still has to perform. -/
def OpBody.laneList : OpBody → List LaneAccess
  | .load _ _ _ ls => ls
  | .store _ _ _ ls => ls
  | .fill _ _ _ ls => ls
  | .head ls => ls
  | .atomic _ _ ls => ls.map (·.1)
  | .tileLoad _ ls => ls
  | .tileStore _ _ _ ls => ls
  | .callWrite _ _ _ _ ls => ls
  | .retRead _ _ _ ls => ls
  | _ => []

def OpBody.isHead : OpBody → Bool
  | .head _ => true
  | _ => false
/-- Whether nothing of an operation is left, or nothing waits for the head of a record that it reads: no lane, and for a store
with a scope from YARD, or a releasing one, no
store that waits for its home (10 R294; 11 R301). -/
def opEnded (s : State) (o : Op) : Bool :=
  (o.body.isHead && !((strandOf s o.owner).any fun k => k.wait == some (.value o.id))) ||
  (o.body.laneList.isEmpty &&
  (match o.body with
   | .store _ sc _ _ => decide (scopeOf sc < scopeYARD) || !(s.pend.any (·.op == o.id))
   | .load .. => true
   | .fill .. => true
   | .atomic .. => true
   | .tileLoad .. => true
   | .tileStore .. => true
   | .callWrite .. => true
   | .retRead .. => true
   | _ => false))
/-- Every operation of which nothing is left completes. -/
def settleOps (s : State) : State := (s.ops.filter (opEnded s)).foldl completeOp s

/-- Lanes of an operation that are over. -/
def dropOpLanes (s : State) (id : Nat) (p : LaneAccess → Bool) : State :=
  updOp s id fun o => { o with body := o.body.dropLanes p }

/-- Whether the failure of an operation is recorded in %rerr (posted accesses and STS) or raised on its strand. -/
def OpBody.posts : OpBody → Bool
  | .store .. => true
  | .tileStore .. => true
  | .atomic _ returns _ => !returns
  | _ => false

/-- Whether an operation writes, and whether it streams (10 R294). -/
def OpBody.changes : OpBody → Bool
  | .store .. => true
  | .tileStore .. => true
  | .atomic .. => true
  | .callWrite .. => true
  | _ => false
def OpBody.streaming : OpBody → Bool
  | .store _ scope _ _ => streams scope
  | _ => false
def OpBody.isCall : OpBody → Bool
  | .callWrite .. => true
  | .retRead .. => true
  | .head _ => true
  | _ => false
/-- A CALL, a RET, or a FILL at the head of its record, whose words failed at a peer or the host ends: it traps (04 R142), as its
strand next issues. -/
def cancelCall (s : State) (o : Op) (f : HeldFault) : State :=
  let s := { s with ops := s.ops.filter (·.id != o.id) }
  let name := nameOf s o.owner ((lowestLane f.lanes).getD 0)
  updStrand s o.owner fun k =>
    let t : TrapRec :=
      { strand := k.no, cause := f.cause, sub := f.sub, addr := f.addr, lanes := f.lanes, value := f.value,
        remote := f.remote, name }
    if k.wait = some (.value o.id) then { k with wait := none, cancelled := some t } else k

/-- Lanes of an operation fail: recorded in %rerr, or a fault to be raised on the strand, which no longer waits for
the value. A host atomic is never posted (11 R318), and no rule sets the remote bit for HOST_ATOMIC. -/
def failLanes (s : State) (o : Op) (cause sub : Nat) (bad : List LaneAccess) : State :=
  match bad with
  | [] => s
  | a :: _ =>
    let waited := (strandOf s o.owner).any (·.waitsFor o.id)
    let hostAtom := (match o.body with | .atomic .. => true | _ => false) && (match a.target with | .host _ => true | _ => false)
    let s := if o.body.posts && !hostAtom then bad.foldl (fun s a => recordRerr s o.owner a cause sub) s
      else
        let f : HeldFault := if cause = causeHOSTATOMIC then
            { op := o.id, cause, sub, addr := a.va, lanes := maskOfList (bad.map (·.lane)), remote := false, value := o.value }
          else { op := o.id, cause := causeREMOTE, sub := cause, addr := a.va, lanes := maskOfList (bad.map (·.lane)),
                 remote := true, value := o.value }
        if o.body.isCall then cancelCall s o f
        else holdFault (updStrand s o.owner fun k => if k.waitsFor o.id then k.undone else k) o.owner f
    settleOps (dropOpLanes s o.id fun x => waited || bad.any fun b => b.lane == x.lane && b.va == x.va)

/-! ## Requests (11 R308) -/

def remoteLanes (ls : List LaneAccess) : List LaneAccess := ls.filter fun a => isRemote a.target
def localLanes (ls : List LaneAccess) : List LaneAccess := ls.filter fun a => !isRemote a.target

/-- Bytes of the tag window from an offset, cut into the tags of single lines (03 R121; log entry 64). -/
def tagRuns (off : Nat) : List Byte → List (Nat × List Byte)
  | [] => []
  | [b] => [(off, [b])]
  | b :: c :: rest => if off % 2 = 0 then (off, [b, c]) :: tagRuns (off + 2) rest else (off, [b]) :: tagRuns (off + 1) (c :: rest)
/-- Writes of an operation's lane in local memory that its core now sees, each to be performed at its home; the tag and mark of
a copy's whole line go with it. -/
def addWrite (s : State) (w : Writer) (o : Op) (rel : Bool) (lanes : Mask) (tag : Option (BitVec 16)) (poison : Bool)
    (a : LaneAccess) : State :=
  let pend (s : State) (window : Bool) (pa : Nat) (bytes : List Byte) : State :=
    { s with nextId := s.nextId + 1, pend := s.pend ++ [
      { id := s.nextId, op := o.id, writer := w, rel, window, stream := o.body.streaming, tag, poison, value := o.value, va := a.va, lanes,
        core := opCore s o, owner := o.owner, pa, bytes }] }
  match a.target with
  | .mem pa => pend s false pa a.data
  | .tagWindow off => (tagRuns off a.data).foldl (fun s x => pend s true x.1 x.2) s
  | _ => s
/-- Stores of an operation's local lanes. -/
def addPending (s : State) (o : Op) (rel : Bool) (ls : List LaneAccess) : State :=
  ls.foldl (fun s a => addWrite s .strand o rel (1#64 <<< a.lane) none false a) s

/-- The words a loaded value puts in its slots, in order. -/
def loadWords (d : Dest) (bs : List Byte) : List Word :=
  let v := leNat bs
  if d.count = 1 then
    [if d.signed then
      (match bs.length with
       | 1 => (BitVec.ofNat 8 v).signExtend 32
       | 2 => (BitVec.ofNat 16 v).signExtend 32
       | _ => BitVec.ofNat 32 v)
     else BitVec.ofNat 32 v]
  else (List.range d.count).map fun i => BitVec.ofNat 32 (v / 2 ^ (32 * i))
/-- A loaded value put in place in one lane. -/
def deliverLoad (s : State) (r : StrandRef) (d : Dest) (l : Nat) (bs : List Byte) : State :=
  updStrand s r fun k => (loadWords d bs).zipIdx.foldl (fun k x => k.setSlotIn (1#64 <<< l) (d.slot + x.2) fun _ => x.1) k

/-- Bytes of a leased line outside the part that a core's L1 may still answer with: a peer's lease ends 100 ns early (12
R352). -/
def farHit (s : State) (core : Nat) (t : Target) (n : Nat) : Option (List Byte) :=
  let margin := if isHost t then 0 else 100
  match s.far.find? fun c => c.core == core && c.place == t.lineStart && decide (s.ns + margin < c.until_) with
  | some c => some ((c.bytes.drop ((match t with | .peer _ pa => pa | .host pa => pa | _ => 0) % 64)).take n)
  | none => none
/-- Whether an older access of the strand to the line of a place outside the part is under way, which a younger read may not
overtake (10 R292). -/
def olderFar (s : State) (o : Op) (t : Target) : Bool :=
  s.ops.any fun p => p.owner == o.owner && decide (p.id < o.id) &&
    p.body.laneList.any fun a => a.target.lineStart == t.lineStart
/-- The lanes of a plain load that such lines answer, given their values. -/
def loadFar (s : State) (o : Op) (ls : List LaneAccess) : State :=
  match o.body with
  | .load size d scope _ =>
    if scopeCORE < scopeOf scope then s
    else
      let hits := (ls.filter fun a => !olderFar s o a.target).filterMap fun a => (farHit s (opCore s o) a.target size).map fun bs => (a, bs)
      let s := hits.foldl (fun s x => deliverLoad s o.owner d x.1.lane x.2) s
      dropOpLanes s o.id fun a => hits.any fun x => x.1.lane == a.lane && x.1.va == a.va
  | _ => s

/-- Requests go out for lanes of an operation; where no link leads there they fail. -/
def sendLanes (s : State) (tenant id : Nat) (posted : Bool) (mk : LaneAccess → Sent) (ls : List LaneAccess) : State :=
  match opOf s id with
  | none => s
  | some o =>
    let out := remoteLanes ls
    if out.isEmpty then s else
    let down := out.filter fun a => linkDown s tenant a.target
    let up := out.filter fun a => !linkDown s tenant a.target
    let s := loadFar s o up
    let up : List LaneAccess := match o.body, opOf s id with
      | .load .., some o' => up.filter fun a => o'.body.laneList.any fun b => b.lane == a.lane && b.va == a.va
      | .load .., none => []
      | _, _ => up
    let s := sendAll s (up.map mk)
    let s := { s with posted := s.posted ++ (if posted then up.map fun a =>
      { id, writer := .strand, owner := o.owner, lane := a.lane, va := a.va, target := a.target } else []) }
    failLanes (settleOps s) o causeREMOTE 0 down

/-- A request of an operation that has issued. -/
def opRequest (s : State) (o : Op) (tenant : Nat) (kind : AccessKind) (size : Nat) (a : LaneAccess) : Sent :=
  .request o.id a.target tenant kind size a.data none 0 false (nameFull s o.owner a.lane)

/-- The instruction retires with its operation under way, and its requests go out. -/
def Ctx.retireSending (c : Ctx) (id : Nat) (posted : Bool) (mk : LaneAccess → Sent) (ls : List LaneAccess) : Out :=
  .next (sendLanes ({ c with k := c.passed }.commit) c.tenant id posted mk ls)

/-- Lanes of an access: where each goes and what it carries. -/
def laneAccesses (ls : List (Nat × DWord × Target)) (data : Nat → List Byte) : List LaneAccess :=
  ls.map fun x => { lane := x.1, va := x.2.1, target := x.2.2, data := data x.1 }

end Sys2Proof.Machine
end

