-- ==== Sys2Proof/Machine/Memory.lean ====
section
/-! DEFINITION. Global and private memory: loads, stores, prefetch, spill and fill (spec/10_memory.md R288 to R295;
spec/05_registers.md R173, R174; the short forms of spec/07_buffers.md R216). -/

namespace Sys2Proof.Machine

/-! ## Line accesses at the home -/

/-- Whether a line's range is being changed: its slices refuse every new access (12 R349). -/
def rangeChanging (s : State) (line : Nat) : Bool :=
  match s.part.change with
  | none => false
  | some (i, e) =>
    (match e with | some r => r.covers (lineBase line) | none => false) ||
    (match s.part.ranges.find? (·.1 == i) with | some (_, r) => r.covers (lineBase line) | none => false)
/-- Whether a command moves the page in which a line lies (10 R287). -/
def XCommand.moves (x : XCommand) (line : Nat) : Bool :=
  match x with
  | .migrate _ old _ bits _ _ => lineBase line / 2 ^ bits == old / 2 ^ bits
  | _ => false
/-- Whether a line's page is moving: until its command ends (DESIGN CHOICE, log entry 77). -/
def frameMoving (s : State) (line : Nat) : Bool :=
  s.tenants.any fun t => match t.xbusy with
    | some x => x.moves line
    | none => false
/-- Whether a line's home refuses new accesses. -/
def changing (s : State) (line : Nat) : Bool := rangeChanging s line || frameMoving s line
/-- An access at its home: refused while the range changes. -/
def homeAccess (s : State) (line : Nat) (e : HomeEvent) : State × HomeResult :=
  if changing s line then (s, .retry) else dispatch s line e
/-- Whether an event of an operation or pending store already waits at a line. -/
def waitsAt (s : State) (line ev op : Nat) : Bool :=
  (homeOf s line).held.any fun e => e.ev == ev && e.op == op && e.req.isNone

/-- A line made readable for a core: its home has answered, or it is there; not where its home refuses or holds the read, and a
failure's ecode where it fails it. -/
def fetchLine (s : State) (core op line ev : Nat) (fresh : Bool) : State × HomeResult :=
  match answerOf s line (some core) ev op with
  | some a => (match a.error with
    | some c => (dropAnswers s (some core) op [line], .error c)
    | none => (s, .done))
  | none =>
  let here : Bool := match copyOf s core line with
    | some k => k.readable s.ns && (!fresh || isPin k || k == .own)
    | none => false
  if here then (s, .done)
  else if waitsAt s line ev op then (s, .retry)
  else homeAccess s line { ev, core := some core, op, since := s.ns, req := none }
/-- Every line made readable, or the first that is not, with what became of it. -/
def fetchLines (s : State) (core op : Nat) : List Nat → State × Option (Nat × HomeResult)
  | [] => (s, none)
  | l :: ls =>
    match fetchLine s core op l evRD false with
    | (s, .done) => fetchLines s core op ls
    | (s, x) => (s, some (l, x))
/-- The lines whose tags bytes of the tag window hold. -/
def tagLines (off n : Nat) : List Nat := (List.range ((off + n - 1) / 2 + 1 - off / 2)).map (off / 2 + ·)

/-- Local lines of accesses, each once. -/
def linesOfLanes (ls : List LaneAccess) : List Nat :=
  (ls.filterMap fun a => match a.target with | .mem pa => some (lineOf pa) | _ => none).eraseDups
/-- A fault that ends an operation whose home refused it a line with an error (12 R335). -/
def failLine (s : State) (o : Op) (ls : List LaneAccess) (line ecode : Nat) : State :=
  let bad := ls.filter (onLine line)
  completeOp (holdFault s o.owner
    { op := o.id, cause := causePERM, sub := ecodeSub ecode, addr := ((bad.head?).map (·.va)).getD 0,
      lanes := maskOfList (bad.map (·.lane)), remote := false, value := o.value }) o
/-! ## Issue -/

/-- How a memory access behaves: counter and queue, what it is for replay and for the watch check (none: not watched),
size, whether the tag window may be reached, and whether a load reads at a point of coherence beyond its core. -/
structure AccessShape where
  cl : CounterClass
  queue : Option EngineQueue
  kind : Nat
  size : Nat
  tagOk : Bool
  watch : Bool
  acq : Bool
  deriving DecidableEq, Repr
/-- What is asked of a peer or the host. -/
def AccessShape.asks (m : AccessShape) : AccessKind := if m.kind = 1 then .write else if m.acq then .acquire else .read

/-- An access that issues: R126's waits, R284, the watch check, then the operation with its requests. posted: its
stores to peers and the host leave without an answer being waited for. -/
def Ctx.memory (c : Ctx) (m : AccessShape) (posted : Bool) (va : List (Nat × DWord)) (data : Nat → List Byte)
    (body : List LaneAccess → OpBody) : Out :=
  match c.grantWait (some m.cl) m.queue with
  | some w => c.stall w
  | none =>
    let write := m.kind = 1
    c.checked m.kind m.size write m.tagOk va fun c ls =>
      let go : Out :=
        let las := laneAccesses ls data
        let id := c.s.nextId
        (c.start (some m.cl) m.queue (body las)).retireSending id posted
          (fun a => c.request id a.target m.asks (if write then a.data.length else m.size) a.data a.lane) las
      if m.watch then c.watched m.kind m.size va go else go

def loadShape (size : Nat) (tagOk watch acq : Bool) : AccessShape :=
  { cl := .ld, queue := none, kind := 0, size, tagOk, watch, acq }
def storeShape (size : Nat) (tagOk watch : Bool) : AccessShape :=
  { cl := .st, queue := some .st, kind := 1, size, tagOk, watch, acq := false }

/-- The destination of a load of a size: one slot, a pair, or all four. -/
def destOf (d size : Nat) (signed : Bool) : Dest := { slot := d, count := max 1 (size / 4), signed }
/-- The bytes a lane stores from slot a: the low bytes, a pair, or all four. -/
def Ctx.stored (c : Ctx) (a size : Nat) (l : Nat) : List Byte :=
  ((List.range (max 1 (size / 4))).flatMap fun i => leBytes 4 (c.slot (a + i) l).toNat).take size

def Ctx.load (c : Ctx) (size d : Nat) (signed tagOk watch : Bool) (scope : Nat) (va : Nat → DWord) : Out :=
  c.memory (loadShape size tagOk watch (decide (scopeCORE < scopeOf scope))) false (c.lanes.map fun l => (l, va l)) (fun _ => [])
    (.load size (destOf d size signed) scope)
def Ctx.store (c : Ctx) (size a : Nat) (tagOk watch : Bool) (scope : Nat) (va : Nat → DWord) : Out :=
  c.memory (storeShape size tagOk watch) (scopeOf scope = 0) (c.lanes.map fun l => (l, va l)) (c.stored a size)
    (.store size scope false)

/-! ## LD, ST and the short forms (R290, R291; 07 R216) -/

/-- Address of an LM form: the offset counts in access sizes (02 R64). -/
def Ctx.lmAddress (c : Ctx) (f : LM) (size l : Nat) : DWord :=
  c.address f.sb.toNat f.g.toNat (f.imm.toNat * size) l
def withLM (i : Instr) (f : LM) (s : State) (body : Ctx → Out) : Out :=
  withStrand i none s fun c => c.withAddress f.sb.toNat f.g.toNat body

def loadOp (i : Instr) (f : LM) (size : Nat) (signed : Bool) (s : State) : Out :=
  withLM i f s fun c => c.load size f.d.toNat signed true true 0 (c.lmAddress f size)
def storeOp (i : Instr) (f : LM) (size : Nat) (s : State) : Out :=
  withLM i f s fun c => c.store size f.a.toNat true true 0 (c.lmAddress f size)

def execLdB8 (f : LM) (s : State) : Out := loadOp (.ldB8 f) f 1 false s
def execLdI8 (f : LM) (s : State) : Out := loadOp (.ldI8 f) f 1 true s
def execLdB16 (f : LM) (s : State) : Out := loadOp (.ldB16 f) f 2 false s
def execLdI16 (f : LM) (s : State) : Out := loadOp (.ldI16 f) f 2 true s
def execLdB32 (f : LM) (s : State) : Out := loadOp (.ldB32 f) f 4 false s
def execLdB64 (f : LM) (s : State) : Out := loadOp (.ldB64 f) f 8 false s
def execLdB128 (f : LM) (s : State) : Out := loadOp (.ldB128 f) f 16 false s
def execStB8 (f : LM) (s : State) : Out := storeOp (.stB8 f) f 1 s
def execStB16 (f : LM) (s : State) : Out := storeOp (.stB16 f) f 2 s
def execStB32 (f : LM) (s : State) : Out := storeOp (.stB32 f) f 4 s
def execStB64 (f : LM) (s : State) : Out := storeOp (.stB64 f) f 8 s
def execStB128 (f : LM) (s : State) : Out := storeOp (.stB128 f) f 16 s
def execLdw (f : S16) (s : State) : Out :=
  withStrand (.ldw f) none s fun c => c.withAddress 0 f.g.toNat fun c =>
    c.load 4 f.d.toNat false true true 0 (c.address 0 f.g.toNat 0)
def execStw (f : S16) (s : State) : Out :=
  withStrand (.stw f) none s fun c => c.withAddress 0 f.g.toNat fun c =>
    c.store 4 f.a.toNat true true 0 (c.address 0 f.g.toNat 0)

/-! ## LDL and STL (R289) -/

/-- The lanes' private offsets, all valid, else STACK 3 with the lowest failing lane's offset. -/
def Ctx.privateOffsets (c : Ctx) (f : LM) (size : Nat) (body : (Nat → DWord) → Out) : Out :=
  let off (l : Nat) : Nat := (c.gLane f.g.toNat l).toNat + f.imm.toNat * size
  match c.lanes.filter fun l => decide (c.l.privBytes < off l + size) with
  | [] => body fun l => stackOf c.l c.w0 l + BitVec.ofNat 64 (off l)
  | l :: bad => c.trap causeSTACK 3 (BitVec.ofNat 64 (off l)) (maskOfList (l :: bad))

def localOp (i : Instr) (f : LM) (size : Nat) (write : Bool) (s : State) : Out :=
  withStrand i none s fun c => c.access [(f.g.toNat, false)] [] fun c =>
    match c.grantWait (some (if write then .st else .ld)) (if write then some .st else none) with
    | some w => c.stall w
    | none => c.privateOffsets f size fun va =>
      if write then c.store size f.a.toNat false false 0 va else c.load size f.d.toNat false false false 0 va
def execLdlB32 (f : LM) (s : State) : Out := localOp (.ldlB32 f) f 4 false s
def execLdlB64 (f : LM) (s : State) : Out := localOp (.ldlB64 f) f 8 false s
def execStlB32 (f : LM) (s : State) : Out := localOp (.stlB32 f) f 4 true s
def execStlB64 (f : LM) (s : State) : Out := localOp (.stlB64 f) f 8 true s

/-! ## LDS and STS (R294) -/

/-- The code under which an LDS or STS is kept: its scope, and 16 more for policy 1, streaming. -/
def scopedCode (f : ScopedF) : Nat := f.scope.toNat + (if f.pol = 1 then 16 else 0)
/-- Bytes of a size code. -/
def sizeOfCode (c : BitVec 3) : Nat := 2 ^ c.toNat
def execLds (f : ScopedF) (s : State) : Out :=
  withStrand (.lds f) none s fun c => c.withAddress f.sb.toNat f.g.toNat fun c =>
    c.load (sizeOfCode f.size) f.slot.toNat false false true (scopedCode f) (c.address f.sb.toNat f.g.toNat f.off.toNat)
def execSts (f : ScopedF) (s : State) : Out :=
  withStrand (.sts f) none s fun c => c.withAddress f.sb.toNat f.g.toNat fun c =>
    c.store (sizeOfCode f.size) f.slot.toNat false true (scopedCode f) (c.address f.sb.toNat f.g.toNat f.off.toNat)

/-! ## PREF (R295) -/

/-- A line outside the part asked for, where a link leads there (the line as its home leases it). -/
def prefetchFar (c : Ctx) (s : State) (t : Target) : State :=
  let place := t.lineStart
  if linkDown s c.tenant place || s.far.any (fun x => x.core == c.w0.core && x.place == place && decide (s.ns < x.until_)) then s
  else
    let id := s.nextId
    sendOut { s with nextId := id + 1, prefetches := s.prefetches ++ [{ id, core := c.w0.core, place }] }
      (.request id place c.tenant .read 64 [] none 0 false (nameFull s c.ref (c.leader.getD 0)))
/-- A lane's line asked for; what would fail a check, and what is not granted, is dropped. -/
def prefetch (c : Ctx) (s : State) (va : DWord) : State :=
  let r : AccessReq := { size := 64, write := false, tagOk := false, priv := c.l.privileged }
  match checkLane s c.w0.core c.tenant r va with
  | (s', .ok (.mem pa)) =>
    let line := lineOf pa
    let here := match copyOf s' c.w0.core line with
      | some k => k.readable s'.ns
      | none => false
    if here then s'
    else
      match homeAccess s' line { ev := evRD, core := some c.w0.core, op := 0, since := s'.ns, req := none } with
      | (s'', .done) => s''
      | _ => s'
  | (s', .ok (.tagWindow _)) => s'
  | (s', .ok t) => prefetchFar c s' t
  | (s', _) => s'
def execPref (f : LM) (s : State) : Out :=
  withLM (.pref f) f s fun c =>
    (c.through fun s => c.lanes.foldl (fun s l => prefetch c s (c.lmAddress f 64 l)) s).retire

/-! ## SPILL and FILL (05 R173, R174) -/

/-- Whether a difference fits a signed width of w bits. -/
def fitsSigned (w : Nat) (d : Word) : Bool := decide (-(2 : Int) ^ (w - 1) ≤ d.toInt) && decide (d.toInt < 2 ^ (w - 1))
/-- The bytes of a spill record: format, base and deltas. -/
def spillBytes (v : Lanes Word) : List Byte :=
  let b := lane 0 v 0
  let ds := v.map (· - b)
  let head (f : Nat) : List Byte := leBytes 4 f ++ leBytes 4 b.toNat
  if ds.all (· == 0) then head 0
  else if ds.all (fitsSigned 8) then head 1 ++ ds.flatMap fun d => leBytes 1 d.toNat
  else if ds.all (fitsSigned 16) then head 2 ++ ds.flatMap fun d => leBytes 2 d.toNat
  else head 3 ++ v.flatMap fun x => leBytes 4 x.toNat

/-- A lane's value in a spill record of a format. -/
def fillValue (fmt : Nat) (bs : List Byte) (l : Nat) : Word :=
  let b : Word := BitVec.ofNat 32 (sliceNat bs 4 4)
  match fmt with
  | 0 => b
  | 1 => b + (BitVec.ofNat 8 (sliceNat bs (8 + l) 1)).signExtend 32
  | 2 => b + (BitVec.ofNat 16 (sliceNat bs (8 + 2 * l) 2)).signExtend 32
  | _ => BitVec.ofNat 32 (sliceNat bs (8 + 4 * l) 4)
/-- Bytes of a record of a format. -/
def fillSize (fmt : Nat) : Nat := 8 + (match fmt with
  | 0 => 0
  | 1 => 64
  | 2 => 128
  | _ => 256)

/-- The address of a spill record. -/
def Ctx.recordAddress (c : Ctx) (f : SpillF) : DWord := c.sPair f.sb.toNat + BitVec.ofNat 64 (f.off.toNat * 16)
/-- A record's access: one address for the whole warp, in pieces of a line, checked as a 16-byte access. -/
def Ctx.recordAccess (c : Ctx) (va : DWord) (write : Bool) (n : Nat) (data : List Byte)
    (body : List LaneAccess → OpBody) : Out :=
  match c.grantWait (some (if write then .st else .ld)) (if write then some .st else none) with
  | some w => c.stall w
  | none =>
    let spans := spansOf va.toNat n
    let all := spans.flatMap fun x => c.lanes.map fun l => (l, BitVec.ofNat 64 x.1)
    c.checked (if write then 1 else 0) 16 write false all fun c ls =>
      let lead := c.leader.getD 0
      let mine := ls.filter fun x => x.1 == lead
      let pieces := mine.map fun x =>
        let off := (x.2.1 - va).toNat
        let k := min (64 - x.2.1.toNat % 64) (n - off)
        ({ lane := lead, va := x.2.1, target := x.2.2, data := (data.drop off).take k } : LaneAccess)
      let id := c.s.nextId
      (c.start (some (if write then .st else .ld)) (if write then some .st else none) (body pieces)).retireSending id write
        (fun a => c.request id a.target (if write then .write else .read) a.data.length (if write then a.data else []) a.lane)
        pieces

def execSpill (f : SpillF) (s : State) : Out :=
  withStrand (.spill f) none s fun c => c.access [] [2 * f.sb.toNat, 2 * f.sb.toNat + 1] fun c =>
    let bytes := spillBytes (lanes64.map fun l => if c.w0.launched.getLsbD l then c.slot f.slot.toNat l else 0)
    c.recordAccess (c.recordAddress f) true bytes.length bytes (.store 16 0 false)
/-- The head of a spill record that a strand waited for and that has come back, with the address that it then had. -/
def Ctx.headCame (c : Ctx) : Option (DWord × List Byte) :=
  match c.k0.wait with
  | some (.value id) => (opOf c.s id).bind fun o => (match o.body with
      | .head (a :: _) => a.back.map fun bs => (a.va, bs)
      | _ => none)
  | _ => none
/-- The head of a spill record, which FILL reads before it retires: as its core reads it now; one outside the part is asked for
first, and the base pair counts as read. -/
def Ctx.withHead (c : Ctx) (va : DWord) (body : Ctx → Nat → Out) : Out :=
  c.checked 0 16 false false (c.lanes.map fun l => (l, va)) fun c ls =>
    match ls with
    | (l, va, .mem pa) :: _ =>
      if olderTouches c.s c.ref c.s.nextId (.mem pa) 8 false then c.stall .line
      else (match fetchLine c.s c.w0.core (readCode c.ref) (lineOf pa) evRD false with
        | (s, .done) =>
          let r := asAnswered s (some c.w0.core) (readCode c.ref)
          let c := c.onTo (dropAnswers s (some c.w0.core) (readCode c.ref) [lineOf pa])
          if r.mem.poisoned (lineOf pa) then c.trap causePOISON 0 va c.exec
          else body c (sliceNat (coreRead r c.w0.core c.ref s.nextId pa 1 true) 0 1)
        | (s, .error e) => (c.onTo s).trap causePERM (ecodeSub e) va (1#64 <<< l)
        | (s, _) => (c.onTo s).stall .line)
    | (l, va, t) :: _ =>
      let id := c.s.nextId
      let a : LaneAccess := { lane := l, va, target := t, data := zeros 8 }
      let c := c.start none none (.head [a])
      let c := { c with k := { c.k with wait := some (.value id), waitSince := c.s.cycles } }
      .next (sendLanes c.commit c.tenant id false (fun a => c.request id a.target .read 8 [] a.lane) [a])
    | [] => c.retire
/-- FILL: its format is read as it executes, and a format above 3 is its trap (log entry 16), whose lanes are Exec (log entry
56); the bytes of the format are then loaded from the same address. One whose record's head has come back goes on from the
address that it read. -/
def execFill (f : SpillF) (s : State) : Out :=
  withStrand (.fill f) none s fun c =>
    let granted (c : Ctx) (go : Ctx → Out) : Out :=
      match c.grantWait (some .ld) none with
      | some w => c.stall w
      | none => go c
    let load (va : DWord) (c : Ctx) (fmt : Nat) : Out :=
      if 3 < fmt then c.trapFree causeSTACK 2 c.exec
      else c.recordAccess va false (fillSize fmt) (zeros (fillSize fmt)) (.fill f.slot.toNat fmt c.exec)
    match c.headCame with
    | some (va, bs) => granted c fun c => load va c (sliceNat bs 0 1)
    | none => c.access [] [2 * f.sb.toNat, 2 * f.sb.toNat + 1] fun c => granted c fun c =>
        let va := c.recordAddress f
        c.withHead va (load va)

end Sys2Proof.Machine
end

