-- ==== Sys2Proof/Machine/Control.lean ====
section
/-! DEFINITION. Control flow, predicates, comparisons and waits (spec/04_issue.md R140 to R154; comparisons with a
uniform register, spec/06_slot_arith.md R193). -/

namespace Sys2Proof.Machine

/-! ## NOP and branches (R140, R141, R144) -/

def execNop (s : State) : Out := withStrand .nop none s fun c => c.retire

/-- Lanes past an instruction, with those of Exec that a branch takes at its target. -/
def Ctx.jump (c : Ctx) (taken : Nat → Bool) (target : Nat → Word) : Ctx :=
  let k := c.passed
  { c with k := { k with lpc := setLanes (c.exec &&& maskOf taken) target k.lpc } }
def Ctx.finish (c : Ctx) : Out := .next c.commit
/-- A branch by a signed offset from the branch itself, modulo 2^32. -/
def Ctx.branch (c : Ctx) {w : Nat} (taken : Nat → Bool) (off : BitVec w) : Out :=
  (c.jump taken fun _ => c.addr + off.signExtend 32).finish

def execBra (f : LB) (s : State) : Out :=
  withStrand (.bra f) (some f.gd) s fun c => c.branch (fun _ => true) f.off
def execBrs (o : BitVec 10) (s : State) : Out :=
  withStrand (.brs o) none s fun c => c.branch (fun _ => true) o
def execBps (o : BitVec 10) (s : State) : Out :=
  withStrand (.bps o) none s fun c => c.branch (c.k0.pred 0) o
def execBns (o : BitVec 10) (s : State) : Out :=
  withStrand (.bns o) none s fun c => c.branch (fun l => !c.k0.pred 0 l) o
def execBrx (f : LB) (s : State) : Out :=
  withStrand (.brx f) (some f.gd) s fun c =>
    let r := field f.off 15 10
    c.access [(r, false)] [] fun c => (c.jump (fun _ => true) (c.gLane r)).finish

/-! ## CALL and RET (R142, R143; 15 R403) -/

/-- Private offset of the word at a call depth. -/
def Ctx.callOffset (c : Ctx) (depth : Nat) : Nat := (if c.handler then 1024 else 64 * c.no) + 4 * depth
def Ctx.callDepth (c : Ctx) (l : Nat) : Nat := lane 0 c.k0.calls l
def Ctx.setCalls (c : Ctx) (f : Nat → Nat) : Ctx :=
  { c with k := { c.k with calls := setLanes c.exec f c.k.calls } }

/-- Whether an access must wait for the strand's own earlier accesses to the same bytes. -/
def Ctx.mustDrain (c : Ctx) (n : Nat) (ls : List (Nat × DWord × Target)) : Bool :=
  ls.any fun x => olderTouches c.s c.ref c.s.nextId x.2.2 n true

/-- A private access to peer or host memory: its requests go out, and the strand waits for the answer. -/
def Ctx.private_ (c : Ctx) (kind : AccessKind) (body : OpBody) (las : List LaneAccess) : Out :=
  let id := c.s.nextId
  let c := c.start none none body
  let c := { c with k := { c.k with wait := some (.value id), waitSince := c.s.cycles, lastIssue := c.s.cycles } }
  .next (sendLanes c.commit c.tenant id false (fun a => c.request id a.target kind 4 a.data a.lane) las)
/-- A lane's access with the word that it finds in local memory, as that was answered. -/
def Ctx.localWord (c : Ctx) (r : State) (a : LaneAccess) : LaneAccess :=
  match a.target with
  | .mem pa => { a with back := some (coreRead r c.w0.core c.ref c.s.nextId pa 4 true) }
  | _ => a
/-- Where a lane's access reads local memory, and that it is a word. -/
def wordRead (a : LaneAccess) : Option (Nat × Nat) :=
  match a.target with
  | .mem pa => some (pa, 4)
  | _ => none
/-- The address of the first of accesses. -/
def firstAddr (ls : List LaneAccess) : DWord := ((ls.head?).map LaneAccess.va).getD 0
/-- The word that came back for a lane. -/
def returnWord (ls : List LaneAccess) (l : Nat) : Word :=
  match ls.find? (·.lane == l) with
  | some a => BitVec.ofNat 32 (leNat (a.back.getD []))
  | none => 0

/-- The words of the lanes in local memory, which the strand's core sees at once and which go on to their homes. -/
def Ctx.storeWords (c : Ctx) (data : List Byte) (ls : List (Nat × DWord × Target)) : Ctx :=
  let o : Op := { id := c.s.nextId, owner := c.ref, value := c.value, exec := c.exec, queued := none, cancelled := none,
                  steps := [], body := .store 4 0 false [] }
  { c with s := addPending { c.s with nextId := c.s.nextId + 1 } o false (localLanes (laneAccesses ls fun _ => data)) }

def execCall (f : LB) (s : State) : Out :=
  withStrand (.call f) (some f.gd) s fun c =>
    let bad := c.lanes.filter fun l =>
      c.callDepth l == 16 || decide (c.l.privBytes < c.callOffset (c.callDepth l) + 4)
    if !bad.isEmpty then c.trapFree causeSTACK 0 (maskOfList bad)
    else
      let back := c.addr + BitVec.ofNat 32 c.len
      let target := c.addr + f.off.signExtend 32
      let data := leBytes 4 back.toNat
      c.checked 1 4 true false
        (c.lanes.map fun l => (l, stackOf c.l c.w0 l + BitVec.ofNat 64 (c.callOffset (c.callDepth l))))
        fun (c : Ctx) (ls : List (Nat × DWord × Target)) =>
        if c.mustDrain 4 ls then c.stall (.released scopeYARD)
        else
          let c := c.storeWords data ls
          let out := remoteLanes (laneAccesses ls fun _ => data)
          if out.isEmpty then
            (({ c with k := (c.jump (fun _ => true) fun _ => target).k }).setCalls fun l => c.callDepth l + 1).finish
          else c.private_ .write (.callWrite c.addr target c.len c.here out) out

def execRet (f : LB) (s : State) : Out :=
  withStrand (.ret f) (some f.gd) s fun c =>
    let bad := c.lanes.filter fun l =>
      c.callDepth l == 0 || decide (c.l.privBytes < c.callOffset (c.callDepth l))
    if !bad.isEmpty then c.trapFree causeSTACK 1 (maskOfList bad)
    else
      c.checked 0 4 false false
        (c.lanes.map fun l => (l, stackOf c.l c.w0 l + BitVec.ofNat 64 (c.callOffset (c.callDepth l - 1))))
        fun (c : Ctx) (ls : List (Nat × DWord × Target)) =>
        let older : Bool := ls.any fun x => olderTouches c.s c.ref c.s.nextId x.2.2 4 false
        if older then c.stall (.released scopeYARD)
        else
          let las := laneAccesses ls fun _ => []
          match fetchLines c.s c.w0.core (readCode c.ref) (linesOfLanes las) with
          | (s, some (line, .error e)) =>
            let bad : List LaneAccess := las.filter (onLine line)
            (c.onTo s).trap causePERM (ecodeSub e) (firstAddr bad) (maskOfList (bad.map LaneAccess.lane))
          | (s, some _) => (c.onTo s).stall .line
          | (s, none) =>
            let r := asAnswered s (some c.w0.core) (readCode c.ref)
            let s := dropAnswers s (some c.w0.core) (readCode c.ref) (linesOfLanes las)
            let c := c.onTo (noteReads s c.ref s.nextId (las.filterMap wordRead))
            let poisoned : List LaneAccess := las.filter fun a => match a.target with | .mem pa => r.mem.poisoned (lineOf pa) | _ => false
            match poisoned with
            | x :: _ => c.trap causePOISON 0 x.va (maskOfList (poisoned.map (·.lane)))
            | [] =>
              let las := las.map (c.localWord r)
              if (remoteLanes las).isEmpty then
                let word (l : Nat) : Word := returnWord las l
                (({ c with k := (c.jump (fun _ => true) word).k }).setCalls fun l => c.callDepth l - 1).finish
              else c.private_ .read (.retRead c.addr c.len c.here las) las

/-! ## EXIT (R145; 15 R404; 11 R310) -/

/-- What follows when a strand has become done: a recorded remote failure or a held fault ends the gang. -/
def strandEnded (s : State) (r : StrandRef) : State :=
  match warpOf s r.warp, strandOf s r with
  | some w, some k =>
    if k.isDone w.launched && (rerrV k.rerr || !k.faults.isEmpty) then terminate s w.gang 2 w.uid none
    else settleWarp s r.warp
  | _, _ => s

/-- The lanes of Exec exit; lanes that the guard excludes go on. -/
def Ctx.exitLanes (c : Ctx) : Ctx :=
  let k := c.passed
  { c with k := { k with exited := k.exited ||| c.exec, lpc := setLanes c.exec (fun l => lane 0 c.k0.lpc l) k.lpc } }

def Ctx.exit_ (c : Ctx) : Out :=
  let c' := c.exitLanes
  if c.handler then
    if c'.k.isDone c.w0.launched then
      if rerrV c'.k.rerr || !c'.k.faults.isEmpty then .next (terminate c'.commit c.g.uid 2 c.w0.uid none)
      else c.afterKernel (endKernel c'.commit c.w0.uid c'.k.exited)
    else c'.finish
  else .next (strandEnded c'.commit c.ref)

def execExitShort (s : State) : Out := withStrand .exitShort none s Ctx.exit_
def execExit (f : LB) (s : State) : Out := withStrand (.exit f) (some f.gd) s Ctx.exit_

/-! ## Comparisons (R146; 06 R193) -/

def execIcmp (f : LR) (s : State) : Out :=
  withLR (.icmp f) f s fun c g => (c.push fun l => icmpHolds f.m.toNat (c.slot f.a.toNat l) (g l)).retire
def execFcmp (f : LR) (s : State) : Out :=
  withLR (.fcmp f) f s fun c g => c.comparePush f.m.toNat c.k0.ftz f.a.toNat g
def execIcmpi (f : LI) (s : State) : Out :=
  withLI (.icmpi f) s fun c =>
    (c.push fun l => icmpHolds (field f.imm 15 12) (c.slot f.a.toNat l) ((f.imm.extractLsb' 0 12).signExtend 32)).retire
def execIlt (f : S16) (s : State) : Out :=
  withShort (.ilt f) f s fun c => (c.push fun l => icmpHolds 2 (c.slot f.a.toNat l) (c.gLane f.g.toNat l)).retire
def execIeq (f : S16) (s : State) : Out :=
  withShort (.ieq f) f s fun c => (c.push fun l => icmpHolds 0 (c.slot f.a.toNat l) (c.gLane f.g.toNat l)).retire
def execFlt (f : S16) (s : State) : Out :=
  withShort (.flt f) f s fun c => c.comparePush 2 c.k0.ftz f.a.toNat (c.gLane f.g.toNat)
def execIcmps (f : LS) (s : State) : Out :=
  withLS (.icmps f) f false s fun c =>
    (c.push fun l => icmpHolds (field f.g 3 0) (c.slot f.a.toNat l) (c.sReg f.u.toNat)).retire
def execFcmps (f : LS) (s : State) : Out :=
  withLS (.fcmps f) f false s fun c => c.comparePush (field f.g 3 0) c.k0.ftz f.a.toNat fun _ => c.sReg f.u.toNat

/-! ## Predicates (R147, R148): operand depths in g[2:0] and g[5:3] -/

def Ctx.predOp (c : Ctx) (f : LR) (op : Bool → Bool → Bool) : Out :=
  (c.push fun l => op (c.k0.pred (field f.g 2 0) l) (c.k0.pred (field f.g 5 3) l)).retire
def execPnot (f : LR) (s : State) : Out := withLR0 (.pnot f) f s fun c => c.predOp f fun i _ => !i
def execPand (f : LR) (s : State) : Out := withLR0 (.pand f) f s fun c => c.predOp f fun i j => i && j
def execPor (f : LR) (s : State) : Out := withLR0 (.por f) f s fun c => c.predOp f fun i j => i || j
def execPxor (f : LR) (s : State) : Out := withLR0 (.pxor f) f s fun c => c.predOp f fun i j => i != j
def execPdup (f : LR) (s : State) : Out := withLR0 (.pdup f) f s fun c => c.predOp f fun i _ => i
def execPpop (f : LR) (s : State) : Out :=
  withLR0 (.ppop f) f s fun c => (c.setPreds fun _ p => popBits p (field f.g 2 0 + 1)).retire
def execPpopShort (n : BitVec 3) (s : State) : Out :=
  withStrand (.ppopShort n) none s fun c => (c.setPreds fun _ p => popBits p (n.toNat + 1)).retire
def execPmov (f : LR) (s : State) : Out :=
  withLR0 (.pmov f) f s fun c => (c.setSlot f.d.toNat fun l => (lane 0 c.k0.preds l).setWidth 32).retire
def execPstore (f : LR) (s : State) : Out :=
  withLR0 (.pstore f) f s fun c => (c.setPreds fun l _ => (c.slot f.a.toNat l).setWidth 8).retire

/-! ## Lane agreement (R149) -/

def execLeader (f : LR) (s : State) : Out :=
  withLR0 (.leader f) f s fun c => (c.push fun l => c.leader == some l).retire
/-- A vote over the lanes of Exec of the predicate at depth g[2:0]. -/
def Ctx.vote (c : Ctx) (f : LR) (op : List Bool → Bool) : Out :=
  let v := op (c.lanes.map (c.k0.pred (field f.g 2 0)))
  (c.push fun _ => v).retire
def execVoteAll (f : LR) (s : State) : Out := withLR0 (.voteAll f) f s fun c => c.vote f fun v => v.all id
def execVoteAny (f : LR) (s : State) : Out := withLR0 (.voteAny f) f s fun c => c.vote f fun v => v.any id
def execVoteEq (f : LR) (s : State) : Out :=
  withLR0 (.voteEq f) f s fun c => c.vote f fun v => v.all id || v.all not
def execVoteOdd (f : LR) (s : State) : Out :=
  withLR0 (.voteOdd f) f s fun c => c.vote f fun v => (v.filter id).length % 2 == 1

/-! ## Waiting (R150, R151) -/

def Ctx.waitCounters (c : Ctx) (ld st cp mx : Nat) : Out :=
  if c.k0.countersWithin ld st cp mx then { c with k := c.k.cover mx }.retire else c.stall (.counters ld st cp mx)
def execWaitcLd (n : BitVec 6) (s : State) : Out :=
  withStrand (.waitcLd n) none s fun c => c.waitCounters n.toNat 63 15 7
def execWaitc (sp : Safe) (ld st : BitVec 6) (cp : BitVec 4) (mx : BitVec 3) (s : State) : Out :=
  withStrand (.waitc sp ld st cp mx) none s fun c => c.waitCounters ld.toNat st.toNat cp.toNat mx.toNat

/-- A bounded wait: the condition sampled when it holds or the deadline, fixed at its first issue, has passed. -/
def Ctx.tryWait (c : Ctx) (hint : Nat) (cond : Bool) : Out :=
  let deadline := match c.k0.wait with
    | some (.tryUntil d) => d
    | _ => c.s.cycles + 64 * hint
  if cond || decide (deadline ≤ c.s.cycles) then (c.push fun _ => cond).retire else c.stall (.tryUntil deadline)

def classOf (i : BitVec 2) : CounterClass :=
  match i.toNat with
  | 0 => .ld
  | 1 => .st
  | 2 => .cp
  | _ => .mx
def execTrywaitCtr (sp : Safe) (t : BitVec 6) (cl : BitVec 2) (h : BitVec 8) (s : State) : Out :=
  withStrand (.trywaitCtr sp t cl h) none s fun c =>
    c.tryWait h.toNat (decide (c.k0.count (classOf cl) ≤ t.toNat))
def execTrywaitFull (sp : Safe) (j : BitVec 6) (h : BitVec 10) (s : State) : Out :=
  withStrand (.trywaitFull sp j h) none s fun c =>
    match c.gFault false j.toNat with
    | some x => c.trap causeREGBOUNDS x.sub (BitVec.ofNat 64 x.addr) c.exec
    | none => c.tryWait h.toNat (c.w0.isFull j.toNat c.no)

/-! ## Scheduling marks (R152 to R154) -/

/-- YIELD: as though issued later than every other strand. -/
def execYield (sp : Safe) (s : State) : Out :=
  withStrand (.yield sp) none s fun c =>
    { c with k := { c.passed with lastIssue := c.s.cycles + 1 } }.finish
def execSafe (m : Word) (s : State) : Out := withStrand (.safe m) none s fun c => c.retire
def execProg (sp : Safe) (n : BitVec 3) (s : State) : Out :=
  withStrand (.prog sp n) none s fun c =>
    let x := coreOf c.s c.w0.core
    let v := (x.pcnt[n.toNat]?).getD 0 + 1
    { c with s := setCore c.s c.w0.core { x with pcnt := x.pcnt.set n.toNat v } }.retire

end Sys2Proof.Machine
end

