-- ==== Sys2Proof/Machine/Buffers.lean ====
section
/-! DEFINITION. The W and A buffers and racks (spec/07_buffers.md R204 to R227; spec/04_issue.md R151, R153). -/

namespace Sys2Proof.Machine

/-! ## Peer windows (R208) -/

/-- The peer window of a core: its teams in order. -/
def Gang.window (g : Gang) (v : Nat) : List Team := g.teams.filter fun t => t.vcore == v
def windowLength (wbuf : Bool) (ts : List Team) : Nat := (ts.map fun t => (t.buf wbuf).limit).foldl (· + ·) 0
/-- n bytes of a window; accesses never cross from one allocation into the next. -/
def windowRead (wbuf : Bool) : List Team → Nat → Nat → List Byte
  | [], _, n => List.replicate n 0
  | t :: ts, o, n =>
    let b := t.buf wbuf
    if o < b.limit then b.read o n else windowRead wbuf ts (o - b.limit) n

/-- Whether an offset of a window lies on a poisoned line. -/
def windowPoisoned (wbuf : Bool) : List Team → Nat → Bool
  | [], _ => false
  | t :: ts, o =>
    let b := t.buf wbuf
    if o < b.limit then b.poisoned o else windowPoisoned wbuf ts (o - b.limit)

/-! ## Strand accesses (R212 to R216) -/

/-- The fault address of a buffer access (R213); an offset that exceeds its field is kept modulo 2^33 (DESIGN CHOICE, log entry
59). -/
def bufferFaultAddr (wbuf : Bool) (vcore off : Nat) : DWord :=
  BitVec.ofNat 64 ((if wbuf then 0 else 1) * 2 ^ 40 + vcore % 4 * 2 ^ 36 + off % 2 ^ 33)

/-- One failing check of a buffer access: the lanes that fail it, ascending. -/
def Ctx.bufferTrap (c : Ctx) (cause sub : Nat) (wbuf : Bool) (vcore : Nat) (off : Nat → Nat) : List Nat → Out
  | [] => c.retire
  | l :: ls => c.trap cause sub (bufferFaultAddr wbuf vcore (off l)) (maskOfList (l :: ls))

def Ctx.team (c : Ctx) : Option Team := teamOf c.g c.w0
/-- The issuing team's %vcore. -/
def Ctx.vcore (c : Ctx) : Nat := match c.team with
  | some t => t.vcore
  | none => 0
/-- Length of the issuing team's allocation. -/
def Ctx.bufLimit (c : Ctx) (wbuf : Bool) : Nat := match c.team with
  | some t => (t.buf wbuf).limit
  | none => 0

/-- The checks of R212 in order, and what follows when none fails. peer: the %vcore of an LDBY. -/
def Ctx.bufferChecks (c : Ctx) (size : Nat) (wbuf : Bool) (peer : Option Nat) (off : Nat → Nat) (f : Out) : Out :=
  let v := peer.getD c.vcore
  let absent := match peer with
    | some p => decide (c.g.cores.length ≤ p)
    | none => false
  let limit := match peer with
    | some p => windowLength wbuf (c.g.window p)
    | none => c.bufLimit wbuf
  if absent then c.bufferTrap causeBUFBOUNDS 2 wbuf v off c.lanes
  else if c.lanes.any fun l => off l % size != 0 then
    c.bufferTrap causeALIGN 1 wbuf v off (c.lanes.filter fun l => off l % size != 0)
  else if c.lanes.any fun l => decide (limit < off l + size) then
    c.bufferTrap causeBUFBOUNDS (if peer.isSome then 1 else 0) wbuf v off (c.lanes.filter fun l => decide (limit < off l + size))
  else f

def Ctx.bufOffset (c : Ctx) (g imm size l : Nat) : Nat := (c.gLane g l).toNat + imm * size

/-- LDB and LDBY. -/
def Ctx.bufLoad (c : Ctx) (size d g imm : Nat) (wbuf : Bool) (peer : Option Nat) : Out :=
  c.access [(g, false)] [] fun c =>
    match c.grantWait (some .ld) none with
    | some w => c.stall w
    | none =>
      c.bufferChecks size wbuf peer (c.bufOffset g imm size)
        ((c.start (some .ld) none (.bufLoad (peer.getD c.w0.team) wbuf peer.isSome size d
          (c.lanes.map fun l => (l, c.bufOffset g imm size l)))).retire)
/-- STB. -/
def Ctx.bufStore (c : Ctx) (size a g imm : Nat) : Out :=
  c.access [(g, false)] [] fun c =>
    match c.grantWait (some .st) (some .st) with
    | some w => c.stall w
    | none =>
      c.bufferChecks size false none (c.bufOffset g imm size)
        ((c.start (some .st) (some .st) (.bufStore c.w0.team
          (c.lanes.map fun l => (c.bufOffset g imm size l,
            ((List.range (size / 4)).flatMap fun i => leBytes 4 (c.slot (a + i) l).toNat))))).retire)

def execLdbB32 (f : LM) (s : State) : Out :=
  withStrand (.ldbB32 f) none s fun c =>
    c.bufLoad 4 f.d.toNat f.g.toNat f.imm.toNat (field f.sb 1 0 == 0) none
def execLdbB64 (f : LM) (s : State) : Out :=
  withStrand (.ldbB64 f) none s fun c =>
    c.bufLoad 8 f.d.toNat f.g.toNat f.imm.toNat (field f.sb 1 0 == 0) none
def execLdbyB32 (f : LM) (s : State) : Out :=
  withStrand (.ldbyB32 f) none s fun c =>
    c.bufLoad 4 f.d.toNat f.g.toNat f.imm.toNat (field f.sb 3 2 == 0) (some (field f.sb 1 0))
def execStbB32 (f : LM) (s : State) : Out :=
  withStrand (.stbB32 f) none s fun c => c.bufStore 4 f.a.toNat f.g.toNat f.imm.toNat
def execStbB64 (f : LM) (s : State) : Out :=
  withStrand (.stbB64 f) none s fun c => c.bufStore 8 f.a.toNat f.g.toNat f.imm.toNat
def execLdbA (f : S16) (s : State) : Out :=
  withStrand (.ldbA f) none s fun c => c.bufLoad 4 f.d.toNat f.g.toNat 0 false none
def execStbA (f : S16) (s : State) : Out :=
  withStrand (.stbA f) none s fun c => c.bufStore 4 f.a.toNat f.g.toNat 0

/-! ## How buffer operations end (R214) -/

/-- Whether an older buffer access of the strand is under way: its accesses to one offset keep program order. -/
def olderBuffer (s : State) (o : Op) : Bool :=
  s.ops.any fun p => p.owner == o.owner && decide (p.id < o.id) &&
    (match p.body with
     | .bufLoad .. => true
     | .bufStore .. => true
     | _ => false)

/-- The teams that a buffer load reads: as they stand, or as they were when a younger write of its strand overtook it. -/
def bufTeams (g : Gang) (team : Nat) (peer : Bool) (past : Option (List Team)) : List Team :=
  past.getD (if peer then g.window team else (g.teams[team]?).toList)
/-- The bytes of a buffer store, in lane order. -/
def storeBytes (b : Buffer) (ls : List (Nat × List Byte)) : Buffer := ls.foldl (fun b x => b.write x.1 x.2) b
/-- A buffer access takes effect in the buffers before it ends: a store's bytes are there, a load keeps what it is to read. -/
def performBuffer (s : State) (o : Op) : State :=
  match o.body, warpOf s o.owner.warp with
  | .bufStore team ls, some w =>
    updTeam (updOp s o.id fun o => { o with body := .bufStore team [] }) w.gang team fun t => { t with a := storeBytes t.a ls }
  | .bufLoad team wbuf peer size slot ls past, some w =>
    (match gangOf s w.gang with
     | some g => updOp s o.id fun o => { o with body := .bufLoad team wbuf peer size slot ls (some (bufTeams g team peer past)) }
     | none => s)
  | _, _ => s
/-- A strand's buffer accesses that are out take effect, oldest first, before a write that it makes at once (R214, 08 R250). -/
def performBuffers (s : State) (r : StrandRef) : State :=
  ((s.ops.filter (·.owner == r)).map (·.id)).foldl (fun s id => match opOf s id with
    | some o => performBuffer s o
    | none => s) s

/-- A buffer load's values put in place; lanes on a poisoned line raise POISON (15 R421). A word of another core's buffer gives the
value it holds now, of those that R214 allows (DESIGN CHOICE, log entry 76). -/
def endBufLoad (s : State) (o : Op) : State :=
  match o.body, (warpOf s o.owner.warp).bind fun w => gangOf s w.gang with
  | .bufLoad team wbuf peer size slot ls past, some g =>
    let ts := bufTeams g team peer past
    let good := ls.filter fun x => !windowPoisoned wbuf ts x.2
    let s := good.foldl (fun s x =>
      deliver s o.owner x.1 slot (size / 4) (BitVec.ofNat 64 (leNat (windowRead wbuf ts x.2 size)))) s
    match ls.filter fun x => windowPoisoned wbuf ts x.2 with
    | [] => completeOp s o
    | x :: xs =>
      let v := match (if peer then some team else (g.teams[team]?).map (·.vcore)) with
        | some v => v
        | none => 0
      let f : HeldFault := { op := o.id, cause := causePOISON, sub := 0, addr := bufferFaultAddr wbuf v x.2,
                             lanes := maskOfList ((x :: xs).map (·.1)), remote := false, value := o.value }
      completeOp (holdFault s o.owner f) o
  | _, _ => s
/-- A buffer store's bytes written, in lane order. -/
def endBufStore (s : State) (o : Op) : State :=
  match o.body, warpOf s o.owner.warp with
  | .bufStore team ls, some w =>
    completeOp (updTeam s w.gang team fun t => { t with a := storeBytes t.a ls }) o
  | _, _ => s

/-! ## Racks (R217 to R227) -/

def Rack.countOf (r : Rack) (x : RackSlot) : Nat := ((r.slots.take r.n).filter (·.1 == x)).length
/-- The status word, with the sequence number before the instruction. -/
def Rack.status (r : Rack) (seq : BitVec 16) (j : Nat) : Word :=
  BitVec.ofNat 32 (seq.toNat * 65536 + j * 4096 + r.countOf .filled * 32 + r.countOf .free)
/-- Owner number of a strand: warp in team and strand. -/
def ownerOf (w : Warp) (no : Nat) : BitVec 8 := BitVec.ofNat 8 (16 * w.num + no)
def Ctx.owner (c : Ctx) : BitVec 8 := ownerOf c.w0 c.no

/-- The fault address of rack misuse. -/
def rackAddr (q : Nat) (slot : Option Nat) : DWord :=
  BitVec.ofNat 64 (q + 256 * slot.getD 0)
/-- Its fault lanes are Exec (DESIGN CHOICE, log entry 56). -/
def Ctx.rackTrap (c : Ctx) (sub q : Nat) (slot : Option Nat) : Out := c.trap causeRACK sub (rackAddr q slot) c.exec

/-- A rack of the strand's team (subcode 0), initialised where init says so (subcode 1); the fault address of these two holds no slot
index, whoever raises them (DESIGN CHOICE, log entry 56). -/
def Ctx.withRack (c : Ctx) (q : Nat) (init : Bool) (f : Team → Rack → Out) : Out :=
  match c.team with
  | none => c.rackTrap 0 q none
  | some t =>
    match t.racks[q]? with
    | none => c.rackTrap 0 q none
    | some r => if init && !r.init then c.rackTrap 1 q none else f t r
def Ctx.setRack (c : Ctx) (q : Nat) (r : Rack) : Ctx :=
  { c with s := updTeam c.s c.g.uid c.w0.team fun t => { t with racks := t.racks.set q r } }

/-- What RKACQ and RKAWAIT wait for. -/
def Rack.canAcquire (r : Rack) : Bool := (r.slot r.pcur).1 == .free
def Rack.canAwait (r : Rack) : Bool := decide (0 < r.ahead) && (r.slot r.ccur).1 == .filled

/-- The pair d: the slot's offset, and the status word. -/
def Ctx.rackPair (c : Ctx) (d off : Nat) (status : Word) : Ctx :=
  c.setPair d fun _ => DWord.ofPair (BitVec.ofNat 32 off) status

/-- RKINIT; where the slots neither fit A nor are all free, subcode 2 comes before 3 (DESIGN CHOICE, log entry 57). -/
def execRkinit (f : RackInitF) (s : State) : Out :=
  withStrand (.rkinit f) none s fun c => c.notInKernel <|
    let q := f.rack.toNat
    c.withRack q false fun t r =>
      let n := f.count.toNat + 1
      if t.a.limit < 64 * f.base.toNat + n * 64 * (f.size.toNat + 1) then c.rackTrap 2 q none
      else if r.init && (r.slots.take r.n).any (·.1 != .free) then c.rackTrap 3 q none
      else
        (c.setRack q { init := true, base := f.base, size := f.size, count := f.count, pcur := 0, ccur := 0, ahead := 0,
                       pseq := 0, cseq := 0, slots := List.replicate 16 (.free, 0) }).retire

def execRkacq (f : RackF) (s : State) : Out :=
  withStrand (.rkacq f) none s fun c => c.notInKernel <|
    let q := f.rack.toNat
    c.withRack q true fun _ r =>
      if !r.canAcquire then c.stall (.rackAcquire q)
      else
        let j := r.pcur
        let r' := { r.setSlot j .held c.owner with pcur := (j + 1) % r.n, ahead := r.ahead + 1, pseq := r.pseq + 1 }
        ((c.setRack q r').rackPair f.d.toNat (r.offset j) (r'.status r.pseq j)).retire

def execRkawait (f : RackF) (s : State) : Out :=
  withStrand (.rkawait f) none s fun c => c.notInKernel <|
    let q := f.rack.toNat
    c.withRack q true fun _ r =>
      if !r.canAwait then c.stall (.rackAwait q)
      else
        let j := r.ccur
        let r' := { r.setSlot j .taken c.owner with ccur := (j + 1) % r.n, ahead := r.ahead - 1, cseq := r.cseq + 1 }
        ((c.setRack q r').rackPair f.d.toNat (r.offset j) (r'.status r.cseq j)).retire

/-- The slot index in a slot of the lowest lane of Exec, below n (subcode 7). -/
def Ctx.withIndex (c : Ctx) (q a : Nat) (r : Rack) (f : Nat → Out) : Out :=
  let j := field (c.slot a (c.leader.getD 0)) 15 12
  if r.n ≤ j then c.rackTrap 7 q (some j) else f j

def execRkpub (f : RackF) (s : State) : Out :=
  withStrand (.rkpub f) none s fun c => c.notInKernel <|
    if !c.k0.st.isEmpty then c.stall (.counters 63 0 15 7)
    else
      let q := f.rack.toNat
      c.withRack q true fun _ r =>
        c.withIndex q f.a.toNat r fun j =>
          let (st, own) := r.slot j
          if st = .held ∧ own = c.owner then (c.setRack q (r.setSlot j .filled 0)).retire
          else if st = .droppedHeld ∧ own = c.owner then (c.setRack q (r.setSlot j .free 0)).retire
          else c.rackTrap 4 q (some j)

def execRkrel (f : RackF) (s : State) : Out :=
  withStrand (.rkrel f) none s fun c => c.notInKernel <|
    if !(c.k0.ld.isEmpty && c.k0.st.isEmpty) then c.stall (.counters 0 0 15 7)
    else
      let q := f.rack.toNat
      c.withRack q true fun _ r =>
        c.withIndex q f.a.toNat r fun j =>
          let (st, own) := r.slot j
          if st = .taken ∧ own = c.owner then (c.setRack q (r.setSlot j .free 0)).retire
          else c.rackTrap 5 q (some j)

def execRkrelSkip (f : RackF) (s : State) : Out :=
  withStrand (.rkrelSkip f) none s fun c => c.notInKernel <|
    if !(c.k0.ld.isEmpty && c.k0.st.isEmpty) then c.stall (.counters 0 0 15 7)
    else
      let q := f.rack.toNat
      c.withRack q true fun _ r =>
        if r.ahead = 0 then c.rackTrap 6 q none
        else
          let j := r.ccur
          let (st, own) := r.slot j
          let r := match st with
            | .filled => r.setSlot j .free 0
            | .held => r.setSlot j .droppedHeld own
            | .pending => r.setSlot j .droppedPending own
            | _ => r
          (c.setRack q { r with ccur := (j + 1) % r.n, ahead := r.ahead - 1, cseq := r.cseq + 1 }).retire

/-! ## TRYWAIT on racks (04 R151) -/

def execTrywaitRackfill (sp : Safe) (j : BitVec 6) (h : BitVec 10) (s : State) : Out :=
  withStrand (.trywaitRackfill sp j h) none s fun c =>
    c.withRack j.toNat true fun _ r => c.tryWait h.toNat r.canAwait
def execTrywaitRackfree (sp : Safe) (j : BitVec 6) (h : BitVec 10) (s : State) : Out :=
  withStrand (.trywaitRackfree sp j h) none s fun c =>
    c.withRack j.toNat true fun _ r => c.tryWait h.toNat r.canAcquire

end Sys2Proof.Machine
end

