-- ==== Sys2Proof/Machine/Matrix.lean ====
section
/-! DEFINITION. The matrix engine and its tiles (spec/08_matrix.md R228 to R250). -/

namespace Sys2Proof.Machine

/-! ## Tiles (R228 to R231) -/

def Ctx.tile (c : Ctx) (b : TileBind) : Tile := c.w0.tile c.cluster b.frame
def Ctx.clearTile (c : Ctx) (b : TileBind) (rows cols : List Nat) : Ctx :=
  { c with w := c.w.clearTile c.cluster b.frame rows cols }
def Ctx.setTile (c : Ctx) (b : TileBind) (t : Tile) : Ctx := { c with w := c.w.setTile c.cluster b.frame t }

/-- A trap of a tile fault (R245); its fault lanes are Exec (DESIGN CHOICE, log entry 56). -/
def Ctx.tileTrap (c : Ctx) (sub : Nat) : Out := c.trap causeMMAFORMAT sub 0 c.exec
/-- The strand's binding, of a type that the operation allows. -/
def Ctx.withTile (c : Ctx) (allows : Bool → Bool) (f : TileBind → Out) : Out :=
  match c.k0.bind with
  | none => c.tileTrap 0
  | some b => if allows b.int then f b else c.tileTrap 1
/-- An engine operation starts: an MX queue entry, the MX counter, and its place in the sequence on the tile. -/
def Ctx.startEngine (c : Ctx) (body : OpBody) : Ctx :=
  let c' := c.start (some .mx) (some .mx) body
  match c.k0.bind with
  | some b => { c' with k := c'.k.outstanding c.s.nextId (c.tile b) }
  | none => c'
def both (_ : Bool) : Bool := true
def onlyFp (int : Bool) : Bool := !int
def onlyInt (int : Bool) : Bool := int

/-! ## Operands (R232 to R236) -/

/-- A line of an operand with its tag. -/
structure TaggedLine where
  off : Nat
  tag : Tag
  deriving DecidableEq, Repr
/-- The lines of n bytes from an offset. -/
def linesFrom (b : Buffer) (off n : Nat) : List TaggedLine :=
  (List.range (n / 64)).map fun j => { off := off + 64 * j, tag := b.tag (off + 64 * j) }

/-! ## MMA and MMAG (R242, R243) -/

def descOff (d : Word) : Nat := field d 12 0
def descPitch (d : Word) : Nat := field d 25 13

/-- A fault in the layout of R213 at a line of the issuing team's A or W. -/
def Ctx.lineAddr (c : Ctx) (wbuf : Bool) (off : Nat) : DWord := bufferFaultAddr wbuf c.vcore off

/-- The lowest-offset element of a list of lines that satisfies p. -/
def lowestLine (p : TaggedLine → Bool) (ls : List TaggedLine) : Option TaggedLine :=
  leastBy TaggedLine.off (ls.filter p)

/-- The tag checks, A before W, then the rotation check; then f. -/
def Ctx.tagChecks (c : Ctx) (fa fb : Nat) (rows : List (Nat × List TaggedLine)) (cols : List TaggedLine) (f : Out) : Out :=
  let bad (fmt : Nat) (x : TaggedLine) : Bool := (tagFault fmt x.tag).isSome
  match lowestLine (bad fa) (rows.flatMap (·.2)) with
  | some x =>
    c.trap causeTAG ((tagFault fa x.tag).getD 0) (c.lineAddr false x.off)
      (maskOfList ((rows.filter fun r => r.2.any (bad fa)).map (·.1)))
  | none =>
    match lowestLine (bad fb) cols with
    | some x => c.trap causeTAG ((tagFault fb x.tag).getD 0) (c.lineAddr true x.off) c.exec
    | none =>
      let all := rows.flatMap (·.2) ++ cols
      if all.all (·.tag.rotated) || all.all (!·.tag.rotated) then f
      else
        let low := ((lowestLine (fun _ => true) (rows.flatMap (·.2))).map (·.off)).getD 0
        c.trap causeMMAFORMAT 2 (c.lineAddr false low) c.exec

def pairsOfLines (ls : List TaggedLine) : List (Nat × Nat) := (ls.map fun x => (x.off / 64, x.tag.toNat)).eraseDups

/-- MMA with row index idx: the lane, or slot a. -/
def Ctx.mma (c : Ctx) (f : MmaF) (idx : Nat → Nat) : Out :=
  match c.grantWait (some .mx) (some .mx) with
  | some w => c.stall w
  | none => c.access [] [f.s.toNat] fun c =>
    c.withTile (fun int => int == decide (f.fa.toNat = 7)) fun _ =>
      let d := c.sReg f.s.toNat
      let fa := f.fa.toNat
      let fb := f.fb.toNat
      let row (r : Nat) : Nat := 64 * (descOff d + descPitch d * idx r)
      let col (j : Nat) : Nat := 64 * (f.woff.toNat + f.wpitch.toNat * j)
      let na := spanOf fa (kOf f)
      let nb := spanOf fb (kOf f)
      match c.lanes.filter fun r => decide (c.bufLimit false < row r + na) with
      | r :: rs => c.trap causeBUFBOUNDS 0 (c.lineAddr false (row r)) (maskOfList (r :: rs))
      | [] =>
        if c.bufLimit true < col 63 + nb then c.trap causeBUFBOUNDS 0 (c.lineAddr true (col 0)) c.exec
        else
          match c.team with
          | none => c.retire
          | some t =>
            let rows := c.lanes.map fun r => (r, linesFrom t.a (row r) na)
            let cols := (List.range 64).flatMap fun j => linesFrom t.w (col j) nb
            c.tagChecks fa fb rows cols
              ((c.startEngine (.mma f (c.lanes.map fun r => (r, row r)) (pairsOfLines cols)
                (pairsOfLines (rows.flatMap (·.2))) t.a t.w)).retire)

def execMma (f : MmaF) (s : State) : Out :=
  withStrand (.mma f) none s fun c => c.notInKernel (c.mma f id)
def execMmag (f : MmaF) (s : State) : Out :=
  withStrand (.mmag f) none s fun c => c.notInKernel (c.mma f fun r => (c.slot f.a.toNat r).toNat)

/-! ## Binding (R244) -/

/-- Frames of the warp's allotment on the strand's cluster that no strand has bound. -/
def Ctx.freeFrames (c : Ctx) : List Nat :=
  let n := (c.w0.tiles.filter (·.1 == c.cluster)).length
  (List.range n).filter fun i => !(c.w0.strands.any fun k => k.no % 8 == c.cluster &&
    (match k.bind with | some b => b.frame == i | none => false))

/-- TBIND; its traps' fault lanes are Exec (DESIGN CHOICE, log entry 56). -/
def execTbind (f : TileF) (s : State) : Out :=
  withStrand (.tbind f) none s fun c => c.notInKernel <|
    if c.k0.bind.isSome then c.tileTrap 3
    else
      match c.freeFrames with
      | [] => c.trap causeBUFBOUNDS 3 0 c.exec
      | i :: _ =>
        let b : TileBind := { frame := i, int := f.code.getLsbD 0 }
        let c := { c with k := { c.k with bind := some b } }
        (if f.code.getLsbD 1 then (c.setTile b []).clearTile b (List.range 64) (List.range 64) else c).retire
def execTfree (f : TileF) (s : State) : Out :=
  withStrand (.tfree f) none s fun c => c.notInKernel <|
    c.withTile both fun _ =>
      if !c.k0.mx.isEmpty then c.stall (.counters 63 63 15 0)
      else { c with k := { c.k with bind := none, acts := [], tileBase := [] } }.retire

/-! ## Synchronous tile instructions (R246 to R248, R250) -/

/-- Columns of an instruction. -/
def tileCols (f : TileF) : List Nat := countFrom f.c0.toNat (f.ncm1.toNat + 1)
/-- What a synchronous instruction reads in an element: while operations are outstanding, any value that it had or takes from
the issue of the earliest on (R239), as far as the engine has come; which one is free (DESIGN CHOICE, log entry 68). -/
def Ctx.element (c : Ctx) (b : TileBind) (r j : Nat) : Nat :=
  if c.k0.acts.isEmpty then (c.tile b).at r j
  else
    let e := 64 * r + j
    let vs := valuesOf e (performed c.k0.acts) (tget 0 c.k0.tileBase e)
    (vs[Config.tileSees c.s.fresh e % vs.length]?).getD 0
/-- Elements written: while m operations are outstanding, each write falls after some number of them, or is lost (R240), a free
choice (DESIGN CHOICE, log entry 68). -/
def Ctx.writeTile (c : Ctx) (b : TileBind) (ws : List (Nat × Nat)) : Ctx :=
  if c.k0.acts.isEmpty then c.setTile b (putWords ws (c.tile b))
  else
    let m := (c.k0.acts.filter (·.isOp)).length
    let at_ (p : Nat) : List (Nat × Nat) := ws.filter fun x => Config.tilePlace c.s.fresh x.1 % (m + 2) == p
    let acts := (List.range (m + 1)).foldl (fun as p => if (at_ p).isEmpty then as else insertSet (at_ p) p as) c.k0.acts
    let now (e : Nat) : Nat := ((valuesOf e (performed acts) (tget 0 c.k0.tileBase e)).getLast?).getD 0
    { c with k := { c.k with acts } }.setTile b (putWords (ws.map fun (x : Nat × Nat) => (x.1, now x.1)) (c.tile b))
/-- Every element of the rows of Exec and the columns of f, replaced. -/
def Ctx.mapTile (c : Ctx) (b : TileBind) (f : TileF) (op : Nat → Nat → Nat → Nat) : Ctx :=
  (c.writeTile b (c.lanes.flatMap fun r => (tileCols f).map fun j => (64 * r + j, op r j (c.element b r j)))).clearTile b
    c.lanes (tileCols f)

def execTzero (f : TileF) (s : State) : Out :=
  withStrand (.tzero f) none s fun c => c.notInKernel <| c.withTile both fun b =>
    (c.mapTile b f fun _ _ _ => 0).retire
def execTget (f : TileF) (s : State) : Out :=
  withStrand (.tget f) none s fun c => c.notInKernel <| c.withTile both fun b =>
    (c.setSlot f.d.toNat fun r => BitVec.ofNat 32 (c.element b r f.c0.toNat)).retire
def execTset (f : TileF) (s : State) : Out :=
  withStrand (.tset f) none s fun c => c.notInKernel <| c.withTile both fun b =>
    (c.mapTile b f fun r _ _ => (c.slot f.a.toNat r).toNat).retire

/-- The 32-bit word of the team's W at an offset. -/
def Ctx.wWord (c : Ctx) (off : Nat) : Nat := match c.team with
  | some t => leNat (t.w.read off 4)
  | none => 0
def execTaddc (f : TileF) (s : State) : Out :=
  withStrand (.taddc f) none s fun c => c.notInKernel <| c.withTile both fun b =>
    let base := 64 * f.woff.toNat
    if c.bufLimit true < base + 4 * (f.c0.toNat + f.ncm1.toNat + 1) then
      c.trap causeBUFBOUNDS 0 (c.lineAddr true (base + 4 * f.c0.toNat)) c.exec
    else
      (c.mapTile b f fun _ j e =>
        let bias := c.wWord (base + 4 * j)
        if b.int then (e + bias) % 2 ^ 32 else add32 e bias).retire
def execTmulr (f : TileF) (s : State) : Out :=
  withStrand (.tmulr f) none s fun c => c.notInKernel <| c.withTile onlyFp fun b =>
    (c.mapTile b f fun r _ e => mul32 e (c.slot f.a.toNat r).toNat).retire
def execTscl (f : TileF) (s : State) : Out :=
  withStrand (.tscl f) none s fun c => c.notInKernel <| c.access [] [f.s.toNat] fun c => c.withTile onlyFp fun b =>
    (c.mapTile b f fun _ _ e => mul32 e (c.sReg f.s.toNat).toNat).retire

/-- One step of a row reduction by code. -/
def reduceStep (code a e : Nat) : Nat :=
  match code with
  | 0 => add32 a e
  | 1 => (fp32.minMax true false a e).1
  | 2 => (fp32.minMax false false a e).1
  | 3 => (a + e) % 2 ^ 32
  | 4 => if (BitVec.ofNat 32 a).slt (BitVec.ofNat 32 e) then e else a
  | _ => if (BitVec.ofNat 32 e).slt (BitVec.ofNat 32 a) then e else a
def execTrowred (f : TileF) (s : State) : Out :=
  withStrand (.trowred f) none s fun c => c.notInKernel <|
    c.withTile (if f.code.toNat < 3 then onlyFp else onlyInt) fun b =>
      (c.setSlot f.d.toNat fun r =>
        BitVec.ofNat 32 (((tileCols f).drop 1).foldl (fun a j => reduceStep f.code.toNat a (c.element b r j))
          (c.element b r f.c0.toNat))).retire

/-- An activation by code. -/
def activate (code : Nat) (int : Bool) (e : Nat) : Nat :=
  let v := fp32.unpack e
  match code with
  | 0 =>
    if int then (if e < 2 ^ 31 then e else 0)
    else if v.isNaN then rn32 (.nan false) else if v.neg then 0 else e
  | 1 => (ftanh false v).1
  | 2 => sigm v
  | _ => silu v
def execTact (f : TileF) (s : State) : Out :=
  withStrand (.tact f) none s fun c => c.notInKernel <|
    c.withTile (if f.code = 0 then both else onlyFp) fun b =>
      (c.mapTile b f fun _ _ e => activate f.code.toNat b.int e).retire

/-- The format code of a TQNT code, and the bytes a row takes. -/
def tqntFmt (code : Nat) : Nat :=
  match code with
  | 0 => 2
  | 1 => 1
  | 2 => 3
  | 3 => 4
  | 4 => 8
  | _ => 9
/-- A row converted: its bytes, the tag of its lines, and the generator after it. -/
def tqntRow (code : Nat) (rm : Rm) (x : DWord) (es : List Nat) : List Byte × Tag × DWord :=
  let fmt := tqntFmt code
  let vs := es.map fp32.unpack
  if code < 4 then
    let (cs, y) := convList fmt rm x vs
    (bytesOfElems fmt cs, 0, y)
  else quantBlock fmt rm x vs
/-- Rows in ascending order, written one after another. -/
def tqntRows (code : Nat) (rm : Rm) (at_ : Nat → Nat → Nat) (off : Nat → Nat) : List Nat → Buffer → DWord → Buffer × DWord
  | [], b, x => (b, x)
  | r :: rs, b, x =>
    let (bs, tag, y) := tqntRow code rm x ((List.range 64).map (at_ r))
    let b := b.write (off r) bs
    let b := (List.range (bs.length / 64)).foldl (fun b i => (b.setTag (off r + 64 * i) tag).setMark (off r + 64 * i) false) b
    tqntRows code rm at_ off rs b y
/-- TQNT; what the strand's own buffer accesses still do to A comes before it in program order (R214). -/
def execTqnt (f : TileF) (s : State) : Out :=
  withStrand (.tqnt f) none s fun c => c.notInKernel <| c.withTile onlyFp fun b =>
    let off (r : Nat) : Nat := (c.slot f.a.toNat r).toNat
    let n := if f.code.toNat < 2 then 128 else 64
    match c.lanes.filter fun r => off r % 64 != 0 with
    | r :: rs => c.trap causeALIGN 1 (c.lineAddr false (off r)) (maskOfList (r :: rs))
    | [] =>
      match c.lanes.filter fun r => decide (c.bufLimit false < off r + n) with
      | r :: rs => c.trap causeBUFBOUNDS 0 (c.lineAddr false (off r)) (maskOfList (r :: rs))
      | [] =>
        let s := performBuffers c.s c.ref
        match (gangOf s c.g.uid).bind fun g => teamOf g c.w0 with
        | none => c.retire
        | some t =>
          let (a, seed) := tqntRows f.code.toNat (c.rounding f.rm.toNat) (c.element b) off c.lanes t.a c.k0.rseed
          { c with s := updTeam s c.g.uid c.w0.team fun t => { t with a },
                   k := { c.k with rseed := seed } }.retire

/-! ## TLD and TST (R249) -/

/-- Every element's address, rows ascending, columns ascending within a row; its column stands in the data. -/
def Ctx.tileAddresses (c : Ctx) (f : TileF) (size : Nat) : List (Nat × DWord) :=
  c.lanes.flatMap fun r => (List.range (f.ncm1.toNat + 1)).map fun i => (r, c.pair f.a.toNat r + BitVec.ofNat 64 (size * i))
/-- The accesses of a tile operation, one for each element, with its column as first data byte. -/
def tileLanes (c0 n : Nat) (ls : List (Nat × DWord × Target)) : List LaneAccess :=
  ls.zipIdx.map fun (x, i) =>
    { lane := x.1, va := x.2.1, target := x.2.2, data := [BitVec.ofNat 8 (c0 + i % n)] }
def columnOf (a : LaneAccess) : Nat := match a.data with
  | b :: _ => b.toNat
  | [] => 0

/-- TLD and TST at issue. They are no LD, ST or CPYL, so that an address in the tag window is PERM 3 (DEDUCED, log entry 51). -/
def Ctx.tileMove (c : Ctx) (f : TileF) (allows : Bool → Bool) (write : Bool) (size : Nat)
    (body : List LaneAccess → OpBody) : Out :=
  match c.grantWait (some .mx) (some .mx) with
  | some w => c.stall w
  | none => c.withTile allows fun _ =>
    c.checkedBy true (if write then 1 else 0) size write false (c.tileAddresses f size) fun c ls =>
      let las := tileLanes f.c0.toNat (f.ncm1.toNat + 1) ls
      let id := c.s.nextId
      (c.startEngine (body las)).retireSending id false
        (fun a => c.request id a.target .read size [] a.lane) (if write then [] else las)

def execTld (f : TileF) (s : State) : Out :=
  withStrand (.tld f) none s fun c => c.notInKernel (c.tileMove f both false 4 (.tileLoad f.c0.toNat))
def execTst (f : TileF) (s : State) : Out :=
  withStrand (.tst f) none s fun c => c.notInKernel <|
    let size := if f.code = 0 then 4 else 2
    c.tileMove f (if f.code = 0 then both else onlyFp) true size (.tileStore f.c0.toNat size f.code.toNat)

/-! ## How engine operations end (R237, R243, R249) -/

/-- Whether an older engine operation of the strand is under way. -/
def olderEngine (s : State) (o : Op) : Bool :=
  s.ops.any fun p => p.owner == o.owner && decide (p.id < o.id) &&
    (match p.body with
     | .mma .. => true
     | .tileLoad .. => true
     | .tileStore .. => true
     | _ => false)

/-- The warp, strand and tile of an operation. -/
def opTile (s : State) (o : Op) : Option (Warp × Strand × TileBind) := do
  let w ← warpOf s o.owner.warp
  let k ← w.strandAt o.owner.no
  let b ← k.bind
  some (w, k, b)
/-- The lines an MMA reads, A before W: buffer and offset. -/
def mmaLines (f : MmaF) (rows : List (Nat × Nat)) : List (Bool × Nat) :=
  let of (wbuf : Bool) (fmt off : Nat) : List (Bool × Nat) :=
    (List.range (spanOf fmt (kOf f) / 64)).map fun j => (wbuf, off + 64 * j)
  (rows.flatMap fun r => of false f.fa.toNat r.2) ++
  (List.range 64).flatMap fun j => of true f.fb.toNat (64 * (f.woff.toNat + f.wpitch.toNat * j))
/-- The fault lanes of a poisoned operand, as R243 names those of a failing line: the rows that read a poisoned line of
A, or all of Exec for a line of W (DEDUCED, log entry 38). -/
def poisonLanes (f : MmaF) (rows : List (Nat × Nat)) (a : Buffer) (exec : Mask) (wbuf : Bool) : Mask :=
  if wbuf then exec
  else maskOfList ((rows.filter fun r =>
    (List.range (spanOf f.fa.toNat (kOf f) / 64)).any fun j => a.poisoned (r.2 + 64 * j)).map (·.1))
/-- An MMA ends: its tile takes the sums; a poisoned operand is a fault of its strand (15 R421), as is a poisoned line of the
tile in a row that it updates, which is tile storage (15 R395; DEDUCED, log entry 38). -/
def endMma (s : State) (o : Op) : State :=
  match o.body, opTile s o with
  | .mma f rows tags atags a0 w0, some (w, k, b) =>
    match (gangOf s w.gang).bind fun g => teamOf g w with
    | none => completeOp s o
    | some t =>
      let fault (sub : Nat) (addr : DWord) (lanes : Mask) : State :=
        let f : HeldFault := { op := o.id, cause := causePOISON, sub, addr, lanes, remote := false, value := o.value }
        completeOp (holdFault s o.owner f) o
      match (mmaLines f rows).find? fun x => (t.buf x.1).poisoned x.2 with
      | some x => fault 0 (bufferFaultAddr x.1 t.vcore x.2) (poisonLanes f rows t.a o.exec x.1)
      | none =>
        match w.markedRows (k.no % 8) b.frame (rows.map (·.1)) with
        | [] => completeOp (engineDone s o (.mma o.id f rows tags atags a0 w0 t.a t.w)) o
        | rs => fault 1 (Config.freeAddress s.fresh) (maskOfList rs)
  | _, _ => s

/-- The tenant of an operation's warp. -/
def opTenant (s : State) (o : Op) : Nat :=
  match (warpOf s o.owner.warp).bind (nodeOf s) with
  | some (_, l, _) => l.tenant
  | none => 0

/-- The address in local memory. -/
def LaneAccess.pa? (a : LaneAccess) : Option Nat := match a.target with
  | .mem pa => some pa
  | _ => none

/-- TLD: once every word has come and every line is readable, the rows take them. -/
def endTileLoad (s : State) (o : Op) : State :=
  match o.body, opTile s o with
  | .tileLoad _ ls, some (w, k, b) =>
    if ls.any fun a => (isRemote a.target && a.back.isNone) || olderTouches s o.owner o.id a.target 4 false then s
    else
      match fetchLines s w.core o.id (linesOfLanes ls) with
      | (s, some (line, .error c)) => failLine s o ls line c
      | (s, some _) => s
      | (s, none) =>
        let r := asAnswered s (some w.core) o.id
        let s := dropAnswers s (some w.core) o.id (linesOfLanes ls)
        match ls.filter fun a => (match a.target with | .mem pa => r.mem.poisoned (lineOf pa) | _ => false) with
        | a :: bad =>
          let f : HeldFault := { op := o.id, cause := causePOISON, sub := 0, addr := a.va,
                                 lanes := maskOfList ((a :: bad).map (·.lane)), remote := false, value := o.value }
          completeOp (holdFault s o.owner f) o
        | [] =>
          let word (a : LaneAccess) : Nat := leNat (match a.target with
            | .mem pa => coreRead r w.core o.owner o.id pa 4 true
            | .tagWindow off => (seenMem s w.core).tagRead off 4
            | _ => a.back.getD [])
          let s := updWarp s o.owner.warp fun w =>
            w.clearTile (k.no % 8) b.frame (ls.map (·.lane)).eraseDups (ls.map columnOf).eraseDups
          completeOp (engineDone s o (.load o.id (ls.map fun a => (64 * a.lane + columnOf a, word a)))) o
  | _, _ => s

/-- The bytes a TST stores of an element. -/
def tileBytes (size code e : Nat) : List Byte :=
  leBytes size (match code with
    | 0 => e
    | 1 => (bf16.result .rn 0 false (.ofVal (fp32.unpack e))).1
    | _ => (fp16.result .rn 0 false (.ofVal (fp32.unpack e))).1)

/-- TST: once the strand's older accesses to its addresses have touched them, its elements become stores of the core; those outside
the part leave it. -/
def endTileStore (s : State) (o : Op) : State :=
  match o.body, opTile s o with
  | .tileStore _ size code ls, some (w, k, b) =>
    if ls.any fun a => olderTouches s o.owner o.id a.target size true then s else
    let t := w.tile (k.no % 8) b.frame
    let out := ls.map fun a => { a with data := tileBytes size code (t.at a.lane (columnOf a)) }
    let s := addPending s o false (localLanes out)
    let tenant := opTenant s o
    let o' := { o with body := .tileStore 0 size code out }
    let s := updOp s o.id fun _ => o'
    let s := sendLanes s tenant o.id true (opRequest s o' tenant .write size) out
    match opOf s o.id with
    | some o => completeOp s o
    | none => s
  | _, _ => s

/-- ENGINE_OPERATION_COMPLETE. -/
def execEngineOperationComplete (op : Nat) (s : State) : Out :=
  match opOf s op with
  | none => .next s
  | some o =>
    if olderEngine s o then .next s
    else match o.body with
      | .mma .. => .next (endMma s o)
      | .tileLoad .. => .next (endTileLoad s o)
      | .tileStore .. => .next (endTileStore s o)
      | _ => .next s

end Sys2Proof.Machine
end

