-- ==== Sys2Proof/Machine/Copy.lean ====
section
/-! DEFINITION. Copies and tensor layout records (spec/09_copy.md R251 to R274). Each COPY_COMPLETION takes a copy one step on: a
line read, a line written, its completion word (log entry 15). -/

namespace Sys2Proof.Machine

/-! ## The tensor layout record (R256 to R258) -/

structure TensorRec where
  base : DWord
  fill : Nat
  rotate : Bool
  rank : Nat
  fmt : Nat
  dims : List Nat
  strides : List Nat
  box : List Nat
  seed : DWord
  reserved : Bool                    -- some reserved field is not 0
  deriving DecidableEq, Repr

/-- A record's fields; dimensions at or beyond the rank have extent and box 1. -/
def parseRec (bs : List Byte) : TensorRec :=
  let q := sliceNat bs 8 8
  let rank := q / 2 ^ 8 % 16
  let upto (i v : Nat) : Nat := if i < rank then v else 1
  { base := BitVec.ofNat 64 (sliceNat bs 0 8), fill := q / 2 ^ 32, rotate := q.testBit 12, rank, fmt := q % 256,
    dims := (List.range 4).map fun i => upto i (sliceNat bs (16 + 4 * i) 4)
    strides := (List.range 3).map fun i => if i + 1 < rank then sliceNat bs (32 + 4 * i) 4 else 0
    box := (List.range 4).map fun i => upto i (let b := sliceNat bs (44 + i) 1; if b = 0 then 256 else b)
    seed := BitVec.ofNat 64 (sliceNat bs 0x38 8)
    reserved := q / 2 ^ 13 % 2 ^ 19 != 0 || sliceNat bs 0x30 8 != 0 }
def TensorRec.dim (r : TensorRec) (i : Nat) : Nat := (r.dims[i]?).getD 1
def TensorRec.b (r : TensorRec) (i : Nat) : Nat := (r.box[i]?).getD 1
def TensorRec.stride (r : TensorRec) (i : Nat) : Nat := (r.strides[i]?).getD 0
def tagged (fmt : Nat) : Bool := decide (8 ≤ fmt)
/-- Elements of one block of a tagged format. -/
def blockLen (fmt : Nat) : Nat := if fmt < 10 then 64 else 128

/-- Origin coordinate i of the leader lane, signed. -/
def CopyJob.o (j : CopyJob) (i : Nat) : Int := ((j.regs[i]?).getD 0).toInt
def CopyJob.reg (j : CopyJob) (i : Nat) : Nat := ((j.regs[i]?).getD 0).toNat
def CopyJob.dir (j : CopyJob) : Nat := j.f.dir.toNat
def CopyJob.wbuf (j : CopyJob) : Bool := !j.f.buf
def CopyJob.fmt (j : CopyJob) : Nat := j.f.fmt.toNat
def CopyJob.converts (j : CopyJob) : Bool := j.kind == 5 || j.kind == 6
/-- The window word of a CPYW. -/
def CopyJob.window (j : CopyJob) : Word := match j.rows with
  | (_, w) :: _ => w
  | [] => 0

/-- The tagged format of the copy's block side (R257). -/
def blockSide (j : CopyJob) (r : TensorRec) : Option Nat :=
  if tagged r.fmt then some r.fmt else if j.kind = 6 ∧ tagged j.fmt then some j.fmt else none

/-- What ends the copy with subcode 0 (R257). -/
def recInvalid (j : CopyJob) (r : TensorRec) : Bool :=
  let blocked := match blockSide j r with
    | some f =>
      let n := blockLen f
      r.dim 0 % n != 0 || r.b 0 % n != 0 || (j.o 0).emod n != 0
    | none => r.rotate
  let w := j.window
  r.reserved || decide (13 < r.fmt) || r.rank == 0 || decide (4 < r.rank) ||
  (if tagged r.fmt then r.base.toNat % 64 != 0 || r.strides.any (· % 4 != 0) else r.base.toNat % (fmtBits r.fmt / 8) != 0) ||
  blocked ||
  (j.kind == 2 && (field w 31 24 != 0 || field w 7 0 == 0 || field w 15 8 == 0 || field w 23 16 == 0))

/-- What ends the copy with subcode 1 (R262, R264). -/
def formatBad (j : CopyJob) (r : TensorRec) : Bool :=
  match j.kind with
  | 2 => tagged r.fmt
  | 5 => j.dir == 1 && tagged r.fmt
  | 6 => if j.dir = 0 then r.fmt != 0 && r.fmt != 2 else !tagged r.fmt
  | _ => false

/-! ## Rows (R259, R261 to R263) -/

/-- One row of the buffer side: its lane, its offset from the origin, and its coordinates in dimensions 1 to 3. -/
structure BoxRow where
  lane : Nat
  off : Nat
  c1 : Int
  c2 : Int
  c3 : Int
  deriving DecidableEq, Repr

/-- Buffer-side format. -/
def bufFmt (j : CopyJob) (r : TensorRec) : Nat := if j.converts then j.fmt else r.fmt
def rowPitch (j : CopyJob) (r : TensorRec) : Nat := 64 * ceilDiv (spanOf (bufFmt j r) (r.b 0)) 64

def rowsOf (j : CopyJob) (r : TensorRec) : List BoxRow :=
  let rp := rowPitch j r
  match j.kind with
  | 2 =>
    let w := j.window
    (List.range (r.b 1)).flatMap fun p => (List.range (r.b 3)).flatMap fun ty => (List.range (r.b 2)).map fun tx =>
      { lane := j.leader, off := rp * (p * (r.b 2 * r.b 3) + ty * r.b 2 + tx),
        c1 := j.o 1 + p * field w 7 0 + tx * field w 15 8, c2 := j.o 2 + ty * field w 23 16, c3 := j.o 3 }
  | 3 => lanesRows rp
  | 4 => lanesRows rp
  | _ =>
    (List.range (r.b 3)).flatMap fun i3 => (List.range (r.b 2)).flatMap fun i2 => (List.range (r.b 1)).map fun i1 =>
      { lane := j.leader, off := rp * (i1 + r.b 1 * (i2 + r.b 2 * i3)),
        c1 := j.o 1 + i1, c2 := j.o 2 + i2, c3 := j.o 3 + i3 }
where
  lanesRows (rp : Nat) : List BoxRow :=
    j.rows.map fun (l, i) => { lane := l, off := rp * l, c1 := (i.toNat : Int), c2 := j.o 2, c3 := j.o 3 }

def within (c : Int) (n : Nat) : Bool := decide (0 ≤ c) && decide (c < n)
def rowIn (r : TensorRec) (x : BoxRow) : Bool := within x.c1 (r.dim 1) && within x.c2 (r.dim 2) && within x.c3 (r.dim 3)
/-- Whether element e of a row lies within the tensor. -/
def elemIn (j : CopyJob) (r : TensorRec) (x : BoxRow) (e : Nat) : Bool := rowIn r x && within (j.o 0 + e) (r.dim 0)

/-- The address of byte k of a row, as memory holds it (R258). -/
def rowVa (j : CopyJob) (r : TensorRec) (x : BoxRow) (k : Nat) : Nat :=
  ((r.base.toNat : Int) + j.o 0 * fmtBits r.fmt / 8 + k +
    16 * (x.c1 * r.stride 0 + x.c2 * r.stride 1 + x.c3 * r.stride 2)).emod (2 ^ 64) |>.toNat
/-- Byte k of a row in memory, none where its element is out of bounds. -/
def rowByte (j : CopyJob) (r : TensorRec) (x : BoxRow) (k : Nat) : Option Nat :=
  if elemIn j r x (k * 8 / fmtBits r.fmt) then some (rowVa j r x k) else none
/-- Bytes of a row in memory. -/
def rowSpan (r : TensorRec) : Nat := spanOf r.fmt (r.b 0)

/-- Byte k of a row that is out of bounds, and the tag of such a line. -/
def fillByte (r : TensorRec) (k : Nat) : Byte :=
  if tagged r.fmt then BitVec.ofNat 8 r.fill else BitVec.ofNat 8 (r.fill / 256 ^ (k % (fmtBits r.fmt / 8)))
def fillTag (r : TensorRec) : Tag :=
  if !tagged r.fmt then 0
  else Tag.mk (fmtTagCode r.fmt + (if r.rotate then 0x80 else 0)) (if r.fmt < 10 then 127 else (r.fmt - 10) * 64 + 32)

/-! ## Bytes to write -/

/-- What a source address holds: its byte, and its line's tag and poison mark. -/
abbrev Source := Nat → Byte × Tag × Bool
/-- A byte of the destination, with the tag and mark its line takes if this is its first byte. -/
structure OutByte where
  dst : Nat
  byte : Byte
  tag : Tag
  poison : Bool
  lane : Nat
  deriving DecidableEq, Repr

def outFrom (get : Source) (dst a lane : Nat) : OutByte :=
  let (b, t, p) := get a
  { dst, byte := b, tag := t, poison := p, lane }

/-- A row of a copy that changes no value. -/
def plainRow (j : CopyJob) (r : TensorRec) (origin : Nat) (get : Source) (x : BoxRow) : List OutByte :=
  (List.range (rowSpan r)).filterMap fun k =>
    let o := origin + x.off + k
    match j.dir, rowByte j r x k with
    | 0, some va => some (outFrom get o va x.lane)
    | 0, none => some { dst := o, byte := fillByte r k, tag := fillTag r, poison := false, lane := x.lane }
    | _, some va => some (outFrom get va o x.lane)
    | _, none => none

/-- Block b of a row read through its tag: scaled, and derotated where it is rotated (R106, R107, R113). -/
def blockVals (j : CopyJob) (r : TensorRec) (get : Source) (x : BoxRow) (b : Nat) : List Val :=
  let n := blockLen r.fmt
  let inb := elemIn j r x (b * n)
  let at_ (k : Nat) : Byte := if inb then (get (rowVa j r x (64 * b + k))).1 else fillByte r k
  let tag := if inb then (get (rowVa j r x (64 * b))).2.1 else fillTag r
  let vs := (elemsOf r.fmt ((List.range 64).map at_)).map fun e => (elemVal r.fmt e).scaleBy tag.scaleExp
  if tag.rotated then (derotateBlock r.seed ((j.o 0 + b * n) / (n : Int)) vs).map fp32.unpack else vs
/-- The values of a row as memory holds them. -/
def memVals (j : CopyJob) (r : TensorRec) (get : Source) (x : BoxRow) : List Val :=
  if tagged r.fmt then (List.range (r.b 0 / blockLen r.fmt)).flatMap (blockVals j r get x)
  else
    let bytes := (List.range (rowSpan r)).map fun k => match rowByte j r x k with
      | some va => (get va).1
      | none => fillByte r k
    (elemsOf r.fmt bytes).map (elemVal r.fmt)
/-- The values of a row as the buffer holds them. -/
def bufVals (j : CopyJob) (r : TensorRec) (origin : Nat) (get : Source) (x : BoxRow) : List Val :=
  let bytes := (List.range (spanOf j.fmt (r.b 0))).map fun k => (get (origin + x.off + k)).1
  (elemsOf j.fmt bytes).map (elemVal j.fmt)

/-- Blocks of a row quantised into a format, rotated first where the record says so (R109, R111). -/
def quantRow (j : CopyJob) (r : TensorRec) (fmt : Nat) (dst : Nat → Nat) (keep : Nat → Bool) (lane : Nat) :
    Nat → Nat → List Val → DWord → List OutByte × DWord
  | 0, _, _, seed => ([], seed)
  | fuel + 1, b, vs, seed =>
    let n := blockLen fmt
    if vs.isEmpty then ([], seed)
    else
      let blk := vs.take n
      let blk := if r.rotate then (rotateBlock r.seed ((j.o 0 + b * n) / (n : Int)) blk).map fp32.unpack else blk
      let (bs, tag, seed) := quantBlock fmt (Rm.ofCode j.rm) seed blk
      let tag := if r.rotate then tag ||| 0x8000#16 else tag
      let out : List OutByte := bs.zipIdx.map fun (x, i) =>
        { dst := dst b + i, byte := x, tag, poison := false, lane }
      let (rest, seed) := quantRow j r fmt dst keep lane fuel (b + 1) (vs.drop n) seed
      (if keep b then out ++ rest else rest, seed)

/-- A converted row, and the generator after it (R264). Every element of the box is rounded
(log entry 39); out-of-bounds elements are not written. -/
def convertRow (j : CopyJob) (r : TensorRec) (origin : Nat) (get : Source) (x : BoxRow) (seed : DWord) :
    List OutByte × DWord :=
  if j.dir = 0 then
    let vs := memVals j r get x
    let o := origin + x.off
    if j.kind = 5 then
      let (cs, seed) := convList j.fmt (Rm.ofCode j.rm) seed vs
      ((bytesOfElems j.fmt cs).zipIdx.map fun (b, i) =>
        { dst := o + i, byte := b, tag := 0, poison := false, lane := x.lane }, seed)
    else quantRow j r j.fmt (fun b => o + 64 * b) (fun _ => true) x.lane (r.b 0 + 1) 0 vs seed
  else
    let vs := bufVals j r origin get x
    if j.kind = 5 then
      let (cs, seed) := convList r.fmt (Rm.ofCode j.rm) seed vs
      let es := fmtBits r.fmt / 8
      ((cs.zipIdx.filter fun (_, e) => elemIn j r x e).flatMap fun (c, e) => (leBytes es c).zipIdx.map fun (b, i) =>
        { dst := rowVa j r x (e * es + i), byte := b, tag := 0, poison := false, lane := x.lane }, seed)
    else
      let n := blockLen r.fmt
      quantRow j r r.fmt (fun b => rowVa j r x (64 * b)) (fun b => elemIn j r x (b * n)) x.lane (r.b 0 + 1) 0 vs seed
def convertRows (j : CopyJob) (r : TensorRec) (origin : Nat) (get : Source) : List BoxRow → DWord → List OutByte
  | [], _ => []
  | x :: xs, seed =>
    let (out, seed) := convertRow j r origin get x seed
    out ++ convertRows j r origin get xs seed

/-! ## What a copy touches -/

/-- The engine's view of a copy: every source and destination address with its lane (memory or buffer, as dir says),
and the bytes to write once the sources are read. -/
structure Plan where
  src : List (Nat × Nat)
  dst : List (Nat × Nat)
  out : Source → List OutByte
  srcFmt : Nat

/-- CPYL: n bytes from the places of R260; slotOff is the rack slot's offset. -/
def linearPlan (j : CopyJob) (slotOff : Nat) : Plan :=
  let n := j.base.lo.toNat
  let pair (i : Nat) : Nat := j.reg i + 2 ^ 32 * j.reg (i + 1)
  let a := if j.dir = 1 then j.reg 0 + slotOff else pair 0
  let b := if j.dir = 0 then j.reg 2 + slotOff else pair 2
  let va (mem : Bool) (x k : Nat) : Nat := if mem then (x + k) % 2 ^ 64 else x + k
  let src (k : Nat) := va (j.dir != 1) a k
  let dst (k : Nat) := va (j.dir != 0) b k
  { src := (List.range n).map fun k => (src k, j.leader), dst := (List.range n).map fun k => (dst k, j.leader),
    out := fun get => (List.range n).map fun k => outFrom get (dst k) (src k) j.leader, srcFmt := 0 }

/-- The other copies. -/
def boxPlan (j : CopyJob) (r : TensorRec) (slotOff : Nat) : Plan :=
  let origin := 64 * j.f.boff.toNat + slotOff
  let rows := rowsOf j r
  let mem := rows.flatMap fun x => (List.range (rowSpan r)).filterMap fun k => (rowByte j r x k).map fun va => (va, x.lane)
  let buf := rows.flatMap fun x => (List.range (spanOf (bufFmt j r) (r.b 0))).map fun k => (origin + x.off + k, x.lane)
  { src := if j.dir = 0 then mem else buf
    dst := if j.dir = 0 then buf else mem
    out := fun get =>
      if j.converts then convertRows j r origin get rows j.seed else rows.flatMap (plainRow j r origin get)
    srcFmt := if j.dir = 0 then r.fmt else j.fmt }

/-- The first address of each line, in order. -/
def lineHeads (xs : List (Nat × Nat)) : List (Nat × Nat) :=
  xs.foldl (fun acc x => if acc.any fun y => y.1 / 64 == x.1 / 64 then acc else acc ++ [x]) []

/-! ## Faults of a copy (R272 to R274) -/

/-- The subcode of a translation, permission or window failure on a source or destination. -/
def copySub (write : Bool) (f : Failure) : Nat :=
  if f.cause = causePERM then 4 else if f.cause = causeWINDOW then 5 else if write then 3 else 2

/-- A copy that ends in a fault, with what may end with it. -/
def copyFault (s : State) (o : Op) (cause sub : Nat) (addr : DWord) (lanes : Mask) : State :=
  settleWarp (endCopyFault s o cause sub addr lanes (cause == causeCOPY && sub == 7)) o.owner.warp

/-- A failed check of a copy: held for replay where the tenant has it, else its fault. -/
def copyRefused (s : State) (o : Op) (j : CopyJob) (tenant kind : Nat) (f : Failure) (sub va : Nat) (lanes : Mask) : State :=
  let addr := BitVec.ofNat 64 va
  if (tenantOf s tenant).replay && (f.cause == causeXLATE || f.cause == causePERM) && f.sub == 0 then
    let group := match (warpOf s o.owner.warp).bind fun w => gangOf s w.gang with
      | some g => g.index
      | none => 0
    let t : TrapRec :=
      { strand := o.owner.no, cause := causeCOPY, sub, addr, lanes, value := o.value, remote := false,
        name := nameOf s o.owner j.leader }
    match holdAccess s tenant o.owner o.id kind f.cause [addr] t group with
    | .noRing => copyFault s o causeCOPY sub addr lanes
    | .full => s
    | .held s _ => s
  else copyFault s o causeCOPY sub addr lanes

/-! ## Endpoints -/

/-- Line numbers of addresses with the places of their lines, or the first failure with its address: of several lines that fail the
first in the plan's order is reported, with its rows alone (DESIGN CHOICE, log entry 62). -/
def placeLines (s : State) (tenant : Nat) (r : AccessReq) : List (Nat × Nat) → Except (Failure × Nat) (List (Nat × Target))
  | [] => .ok []
  | (va, _) :: rest =>
    match checkUnit s tenant r va with
    | .error f => .error (f, va)
    | .ok t => match placeLines s tenant r rest with
      | .error f => .error f
      | .ok ts => .ok ((va / 64, t.lineStart) :: ts)
/-- Lanes whose accesses fall on a line. -/
def lanesOn (xs : List (Nat × Nat)) (va : Nat) : Mask := maskOfList ((xs.filter fun x => x.1 / 64 == va / 64).map (·.2))

/-! ## What a copy carries (R265, R266, R268) -/

/-- CRC-32C, bit by bit from the low end. -/
def crc32cBits : Nat → Word → Word
  | 0, c => c
  | n + 1, c => crc32cBits n (if c.getLsbD 0 then (c >>> 1) ^^^ 0x82F63B78#32 else c >>> 1)
def crc32c (bs : List Byte) : Word :=
  ~~~(bs.foldl (fun c b => crc32cBits 8 (c ^^^ b.setWidth 32)) (BitVec.allOnes 32))

/-- The bytes that fall on a line, by place in the line, the last of equals. -/
def bytesOn (outs : List OutByte) (line : Nat) : List (Nat × OutByte) :=
  let mine := outs.filter fun x => x.dst / 64 == line
  (List.range 64).filterMap fun i => ((mine.filter fun x => x.dst % 64 == i).getLast?).map fun x => (i, x)
/-- Runs of consecutive bytes of a line: place and bytes. -/
def runsOf : List (Nat × OutByte) → List (Nat × List Byte)
  | [] => []
  | (i, x) :: rest =>
    match runsOf rest with
    | (k, bs) :: more => if k = i + 1 then (i, x.byte :: bs) :: more else (i, [x.byte]) :: (k, bs) :: more
    | [] => [(i, [x.byte])]
/-- The CRC over the bytes written to a line and the tag it takes. -/
def lineCrc (runs : List (Nat × List Byte)) (tag : Option (BitVec 16)) : Word :=
  crc32c (runs.flatMap (·.2) ++ (match tag with
    | some t => leBytes 2 t.toNat
    | none => []))
/-- A line of the destination: one written whole takes the tag of its first byte. -/
def lineOut (outs : List OutByte) (line : Nat) : CopyLine :=
  let xs := bytesOn outs line
  let runs := runsOf xs
  let tag : Option (BitVec 16) := if xs.length = 64 then (xs.head?).map (·.2.tag) else none
  { line, runs, lanes := maskOfList (xs.map (·.2.lane)), tag, poison := xs.any (·.2.poison), crc := lineCrc runs tag }
/-- The lines that a copy writes. -/
def linesOut (outs : List OutByte) : List CopyLine := ((outs.map fun x => x.dst / 64).eraseDups).map (lineOut outs)

/-- A line as it arrives at its destination, and whether its CRC fails there: it then takes a poison mark. -/
def arrives (s : State) (j : CopyJob) (x : CopyLine) : CopyLine × Bool :=
  if j.f.chk && j.noise.contains x.line then
    let runs := x.runs.map fun r => (r.1, r.2.zipIdx.map fun b => b.1 ^^^ Config.noise s.fresh x.line (r.1 + b.2))
    let bad := lineCrc runs x.tag != x.crc
    ({ x with runs, poison := x.poison || bad }, bad)
  else (x, false)

/-- A source line as the engine holds it: 64 bytes, its tag, low byte first, and its mark. -/
def gotBytes (bs : List Byte) (tag : Tag) (poison : Bool) : List Byte := bs ++ leBytes 2 tag.toNat ++ [if poison then 1 else 0]
def gotLine (bs : List Byte) : List Byte × Tag × Bool :=
  (bs.take 64, BitVec.ofNat 16 (leNat ((bs.drop 64).take 2)), (bs[66]?).getD 0 != 0)
def sourceOf (got : List (Nat × List Byte)) : Source := fun a =>
  match got.find? (·.1 == a / 64) with
  | some (_, bs) =>
    let (bytes, t, p) := gotLine bs
    ((bytes[a % 64]?).getD 0, t, p)
  | none => (0, 0, false)

/-- A line written in the buffer. -/
def landBuffer (b : Buffer) (x : CopyLine) : Buffer :=
  let b := x.runs.foldl (fun b r => b.write (64 * x.line + r.1) r.2) b
  let b := match x.tag with
    | some t => (b.setTag (64 * x.line) t).setMark (64 * x.line) false
    | none => b
  if x.poison then b.setMark (64 * x.line) true else b
/-- A line sent to its place in memory: each run is a write of the copy, to be performed at its home. Only a whole line's tag goes
with it, and none to the host, but for a line that the bridge holds (03 R119). -/
def landLine (s : State) (w : Writer) (o : Op) (name : FullName) (tenant : Nat) (t : Target) (x : CopyLine) : State :=
  let l := (lowestLane x.lanes).getD 0
  x.runs.foldl (fun s r =>
    let va := BitVec.ofNat 64 (64 * x.line + r.1)
    let a : LaneAccess := { lane := l, va, target := t.plus r.1, data := r.2 }
    if isRemote t then
      let whole := x.tag.isSome && (!isHost t || coherentHost s tenant t)
      let s := sendOut s (.request o.id a.target tenant (if whole then .copyData else .write) r.2.length r.2 none
        (if whole then x.tag.getD 0 else 0) x.poison name)
      { s with posted := s.posted ++ [
        { id := o.id, writer := w, owner := o.owner, lane := l, va, target := a.target }] }
    else addWrite s w o false x.lanes x.tag x.poison a) s

/-! ## A copy's run (R251, R253, R265 to R267) -/

/-- What COPY_COMPLETION looks at. -/
structure CopyRun where
  o : Op
  j : CopyJob
  w : Warp
  g : Gang
  l : Launch
  t : Team
  deriving DecidableEq, Repr

def copyRun (s : State) (o : Op) (j : CopyJob) : Option CopyRun := do
  let w ← warpOf s o.owner.warp
  let (g, l, _) ← nodeOf s w
  let t ← teamOf g w
  some { o, j, w, g, l, t }

/-- R253: every store and atomic that the strand issued before the copy, and what it may have read from its core, is performed:
at CORE scope, or for memory at its home, or acknowledged where an endpoint lies outside the part. -/
def copyReleased (s : State) (core : Nat) (o : Op) (outside : Bool) : Bool :=
  !(s.ops.any fun p => p.owner == o.owner && decide (p.id < o.id) &&
      (match p.body with
       | .store .. => true
       | .bufStore .. => true
       | .atomic .. => true
       | _ => false)) &&
  !(s.pend.any fun p => (p.core == core && decide (p.id < o.id)) || (p.owner == o.owner && decide (p.op < o.id))) &&
  !othersPin s core o.owner &&
  (!outside || !(s.posted.any fun p => p.owner == o.owner && decide (p.id < o.id)))
/-- The strand's pins, which its release publishes (11 R306). -/
def publishPinsOf (s : State) (r : StrandRef) : State :=
  publishPins s fun p => match p.kind with | .pin h .. => h == r | _ => false

/-- Whether a copy still waits for an answer to its held access. -/
def copyHeld (s : State) (tenant id : Nat) : Bool := (tenantOf s tenant).rplHeld.any (·.copy == id)

def slotOffset (c : CopyRun) : Nat :=
  if c.j.f.rk then (match c.t.racks[c.j.f.rack.toNat]? with | some r => r.offset c.j.slotNo | none => 0) else 0
def setJob (s : State) (o : Op) (j : CopyJob) : State := updOp s o.id fun o => { o with body := .copy j }
def leaderMask (j : CopyJob) : Mask := 1#64 <<< j.leader
/-- A copy's plan, once its record is known. -/
def CopyRun.plan (c : CopyRun) : Plan :=
  if c.j.kind = 0 then linearPlan c.j (slotOffset c)
  else boxPlan c.j (parseRec ((c.j.record.getD []).take 64)) (slotOffset c)
/-- The fault lanes of a line of memory: for CPYG and CPYS those whose rows lie on it, else the leader (R273). -/
def CopyRun.lanes (c : CopyRun) (va : Nat) : Mask :=
  let p := c.plan
  match (if c.j.kind = 3 ∨ c.j.kind = 4 then lanesOn (if c.j.dir = 1 then p.dst else p.src) va else 0) with
  | 0 => leaderMask c.j
  | m => m
/-- A copy that a link or its target failed. -/
def linkFault (s : State) (o : Op) (j : CopyJob) (sub : Nat) (addr : DWord) : State :=
  copyFault s o causeCOPY sub addr (match copyRun s o j with
    | some c => if sub = 8 then leaderMask j else c.lanes addr.toNat
    | none => leaderMask j)

/-- The lines of a plan's memory side checked and placed, or the copy refused. Its request: LD and ST privileges of the
launch; CPYL alone may reach the tag window. The address reported is the first byte that fails its checks, and the start of its
line where no link leads there (DESIGN CHOICE, log entry 62). -/
def memLines (s : State) (c : CopyRun) (write : Bool) (xs : List (Nat × Nat)) : Except State (List (Nat × Target)) :=
  let r : AccessReq := { size := 8, write, tagOk := c.j.kind == 0, priv := c.l.privileged }
  match placeLines s c.l.tenant r (lineHeads xs) with
  | .error (f, va) =>
    .error (copyRefused s c.o c.j c.l.tenant (if write then 4 else 3) f (copySub write f) va (lanesOn xs va))
  | .ok ts =>
    match ts.find? fun t => linkDown s c.l.tenant t.2 with
    | some (line, _) => .error (copyFault s c.o causeCOPY 7 (BitVec.ofNat 64 (64 * line)) (lanesOn xs (64 * line)))
    | none => .ok ts

/-- Lines outside the part are asked for, once, each in the name of the lane whose row it holds (16 R426). -/
def askLines (s : State) (c : CopyRun) (laneOf : Nat → Nat) (out : List (Nat × Target)) : State :=
  if !c.j.asked.isEmpty then s
  else
    let s := sendAll s (out.map fun t =>
      .request c.o.id t.2 c.l.tenant .read 64 [] none 0 false (nameFull s c.o.owner (laneOf t.1)))
    setJob s c.o { c.j with asked := out }
/-- The lines at whose homes a line of memory, or of the tag window, is read. -/
def homeLines : Target → List Nat
  | .mem pa => [lineOf pa]
  | .tagWindow o => tagLines o 64
  | _ => []
/-- A line of the part as the engine reads it on its core. -/
def readLine (s : State) (core : Nat) (o : Op) (t : Target) : List Byte :=
  let m := seenMem s core
  match t with
  | .mem pa => gotBytes (coreRead s core o.owner o.id pa 64 true) (m.tag (lineOf pa)) (m.poisoned (lineOf pa))
  | .tagWindow a => gotBytes (m.tagRead a 64) 0 false
  | _ => []

/-- A line of the part read as its home answered. -/
def readAnswered (s : State) (c : CopyRun) (t : Target) (f : State → List Byte → State) : State :=
  f (dropAnswers s (some c.w.core) c.o.id (homeLines t)) (readLine (asAnswered s (some c.w.core) c.o.id) c.w.core c.o t)
/-- The record, read once as a load of the strand (R257): step 2 of R253. -/
def readRecord (s : State) (c : CopyRun) : State :=
  let va := c.j.base.toNat
  let r : AccessReq := { size := 8, write := false, tagOk := false, priv := c.l.privileged }
  if va % 64 != 0 then copyFault s c.o causeCOPY 0 c.j.base (leaderMask c.j)
  else match checkUnit s c.l.tenant r va with
    | .error f => copyRefused s c.o c.j c.l.tenant 5 f (copySub false f) va (leaderMask c.j)
    | .ok t =>
      if linkDown s c.l.tenant t then copyFault s c.o causeCOPY 7 c.j.base (leaderMask c.j)
      else if isRemote t then
        (match c.j.got with
         | (_, bs) :: _ => setJob s c.o { c.j with record := some bs, got := [] }
         | [] => if copyReleased s c.w.core c.o true then askLines s c (fun _ => c.j.leader) [(va / 64, t)] else s)
      else match fetchLines s c.w.core c.o.id (homeLines t) with
        | (s, some (_, .error _)) => copyFault s c.o causeCOPY 4 c.j.base (leaderMask c.j)
        | (s, some _) => s
        | (s, none) => readAnswered s c t fun s bs => setJob s c.o { c.j with record := some bs }

/-- The rows whose buffer side passes the team's allocation (R272). -/
def rowsPast (c : CopyRun) (r : TensorRec) : List BoxRow :=
  let origin := 64 * c.j.f.boff.toNat + slotOffset c
  (rowsOf c.j r).filter fun x => decide ((c.t.buf c.j.wbuf).limit < origin + x.off + spanOf (bufFmt c.j r) (r.b 0))
/-- What a record that has been read says of its copy: what is wrong with it ends the copy; of COPY 0, COPY 1 and BUF_BOUNDS the
first that holds is reported (DESIGN CHOICE, log entry 62). The fault address of BUF_BOUNDS is
the box's origin (DESIGN CHOICE, log entry 61). -/
def judgeRecord (s : State) (c : CopyRun) (bs : List Byte) : State :=
  let fault (sub : Nat) : State := copyFault s c.o causeCOPY sub c.j.base (leaderMask c.j)
  let r := parseRec (bs.take 64)
  if (gotLine bs).2.2 then copyFault s c.o causePOISON 0 c.j.base (leaderMask c.j)
  else if recInvalid c.j r then fault 0
  else if formatBad c.j r then fault 1
  else match rowsPast c r with
    | [] => setJob s c.o { c.j with phase := 1 }
    | past =>
      copyFault s c.o causeBUFBOUNDS 0 (bufferFaultAddr c.j.wbuf c.t.vcore (64 * c.j.f.boff.toNat + slotOffset c))
        (maskOfList (past.map (·.lane)))
/-- A copy that has yet to start: its release, then for a tensor copy its record. -/
def startCopy (s : State) (c : CopyRun) : State :=
  if !copyReleased s c.w.core c.o false then s
  else
    let s := publishPinsOf s c.o.owner
    if c.j.kind = 0 then setJob s c.o { c.j with phase := 1 }
    else match c.j.record with
      | none => readRecord s c
      | some bs => judgeRecord s c bs

/-- The address of a source line, as a fault reports it. -/
def sourceAddr (c : CopyRun) (line : Nat) : DWord :=
  if c.j.dir = 1 then bufferFaultAddr c.j.wbuf c.t.vcore (64 * line) else BitVec.ofNat 64 (64 * line)
/-- POISON and TAG of what a copy consumes (R265); of a poisoned line and a line of a bad tag the first is reported (DESIGN
CHOICE, log entry 62), and of several lines the first in the order in which they were read. -/
def consumed (c : CopyRun) (p : Plan) : Option (Nat × Nat × Nat) :=
  let poison := if c.j.converts || c.j.f.chk then c.j.got.find? fun x => (gotLine x.2).2.2 else none
  match poison with
  | some (line, _) => some (causePOISON, 0, line)
  | none =>
    if c.j.kind = 5 then
      match c.j.got.find? fun x => (tagFault p.srcFmt (gotLine x.2).2.1).isSome with
      | some (line, bs) => some (causeTAG, (tagFault p.srcFmt (gotLine bs).2.1).getD 0, line)
      | none => none
    else none
/-- Every source line read: what the copy writes is known. -/
def endReading (s : State) (c : CopyRun) (p : Plan) : State :=
  match consumed c p with
  | some (cause, sub, line) => copyFault s c.o cause sub (sourceAddr c line) (lanesOn p.src (64 * line))
  | none => setJob s c.o { c.j with phase := 2, got := [], left := linesOut (p.out (sourceOf c.j.got)) }
/-- One source line read (R269), once the copy's release is made at its scope: step 3 of R253. Those outside the part are asked
for together. The checks of the source come before those of the destination, and a line that its home refuses is
reported by its start (DESIGN CHOICE, log entry 62). -/
def readCopy (s : State) (c : CopyRun) : State :=
  let p := c.plan
  let unread (line : Nat) : Bool := !(c.j.got.any (·.1 == line))
  let take (s : State) (line : Nat) (bs : List Byte) : State := setJob s c.o { c.j with got := c.j.got ++ [(line, bs)] }
  match (if c.j.dir = 1 then .ok [] else memLines s c false p.src), (if c.j.dir = 0 then .ok [] else memLines s c true p.dst) with
  | .error s, _ => s
  | _, .error s => s
  | .ok src, .ok dst =>
    if ((src ++ dst).any fun t => isRemote t.2) && !copyReleased s c.w.core c.o true then s
    else if c.j.dir = 1 then
      match (lineHeads p.src).find? fun x => unread (x.1 / 64) with
      | some (a, _) =>
        let b := c.t.buf c.j.wbuf
        take s (a / 64) (gotBytes (b.read (a / 64 * 64) 64) (b.tag a) (b.poisoned a))
      | none => endReading s c p
    else
      match src.find? fun t => unread t.1 && !isRemote t.2 with
      | some (line, t) =>
        (match fetchLines s c.w.core c.o.id (homeLines t) with
         | (s, some (_, .error _)) =>
           copyFault s c.o causeCOPY 4 (BitVec.ofNat 64 (64 * line)) (lanesOn p.src (64 * line))
         | (s, some _) => s
         | (s, none) => readAnswered s c t fun s bs => take s line bs)
      | none =>
        match src.filter fun t => unread t.1 with
        | [] => endReading s c p
        | out => askLines s c (fun line => (lowestLane (c.lanes (64 * line))).getD c.j.leader) out

/-- The address of a destination line, as COPY 6 reports it. -/
def lineAddr (c : CopyRun) (line : Nat) : DWord :=
  if c.j.dir = 0 then bufferFaultAddr c.j.wbuf c.t.vcore (64 * line) else BitVec.ofNat 64 (64 * line)
/-- One line of the destination written, whole for every reader (R268); once all are visible at the copy's scope, the slot is
published, with a completion word in the event that performs or sends its atomic (log entry 75). -/
def landCopy (s : State) (c : CopyRun) : State :=
  match c.j.left with
  | [] =>
    if !jobDone s c.o.id then s
    else if c.j.f.cw then setJob s c.o { c.j with phase := 3 }
    else completeOp (publishSlot s c.o c.j) c.o
  | x :: rest =>
    let (y, bad) := arrives s c.j x
    let go (s : State) : State :=
      if bad then copyFault s c.o causeCOPY 6 (lineAddr c x.line) x.lanes
      else setJob s c.o { c.j with left := rest }
    if c.j.dir = 0 then go (updTeam s c.g.uid c.w.team fun t => t.setBuf c.j.wbuf (landBuffer (t.buf c.j.wbuf) y))
    else match memLines s c true (c.plan.dst.filter fun d => d.1 / 64 == x.line) with
      | .error s => s
      | .ok ((_, t) :: _) =>
        go (landLine s .copy c.o (nameFull s c.o.owner ((lowestLane x.lanes).getD 0)) c.l.tenant t y)
      | .ok [] => go s

/-- Steps 2 and 3: the slot, then the completion word's atomic, a release at the wider of the copy's scope and the word's; phase 4
while one outside the part is on its way, with the slot published as it leaves, so that nobody reads 1 while it
is Pending (the section's example), even where its answer then is COPY 8 (DESIGN CHOICE, log entry 75); 5 once it is performed here. -/
def bumpWord (s : State) (c : CopyRun) : State :=
  let va := c.j.word.toNat
  let r : AccessReq := { size := 8, write := true, tagOk := false, priv := c.l.privileged }
  match checkUnit s c.l.tenant r va with
  | .error f => copyRefused s c.o c.j c.l.tenant 5 f 8 va (leaderMask c.j)
  | .ok t =>
    if linkDown s c.l.tenant t then copyFault s c.o causeCOPY 8 c.j.word (leaderMask c.j)
    else if isRemote t && !copyReleased s c.w.core c.o true then s
    else match t with
    | .mem pa =>
      let j := { c.j with wordPa := pa }
      let s := setJob s c.o j
      if holdsLine s c.w.core (lineOf pa) then bumpAt s c.o j
      else if waitsAt s (lineOf pa) evAT c.o.id then s
      else (homeAccess s (lineOf pa) { ev := evAT, core := some c.w.core, op := c.o.id, since := s.ns, req := none }).1
    | t =>
      let s := sendOut (publishSlot s c.o c.j) (.request c.o.id t c.l.tenant .atomic 8 (leBytes 8 1) (some (0, 3, 0)) 0 false
        (nameFull s c.o.owner c.j.leader))
      setJob { s with posted := s.posted ++ [
        { id := c.o.id, writer := .copy, owner := c.o.owner, lane := c.j.leader, va := c.j.word, target := t }] }
        c.o { c.j with phase := 4 }

/-- Copies that an engine works on at once. -/
def copiesAtWork : Nat := 16
def copiesOf (s : State) (core : Nat) : List Op := s.ops.filter fun o =>
  coreOfWarp s o.owner.warp == some core && (match o.body with | .copy _ => true | _ => false)
/-- Whether the engine of a core reads this command next: the oldest that it has not read, while it works on fewer than 16. -/
def engineReads (s : State) (core : Nat) (o : Op) : Bool :=
  let cs := copiesOf s core
  ((cs.find? fun c => c.queued.isSome).map (·.id)) == some o.id &&
    decide ((cs.filter fun c => c.queued.isNone).length < copiesAtWork)
def readCommand (s : State) (o : Op) : State := updOp s o.id fun o => { o with queued := none }

/-- What a copy does next: its command is read, it starts, it reads a line, writes one, does its completion word, or is complete. -/
def copyTurn (s : State) (c : CopyRun) : State :=
  match c.o.cancelled with
  | some (sub, addr, lanes) => copyFault s c.o causeCOPY sub addr lanes
  | none =>
    if c.o.queued.isSome then (if engineReads s c.w.core c.o then readCommand s c.o else s)
    else if copyHeld s c.l.tenant c.o.id then s
    else match c.j.phase with
      | 0 => startCopy s c
      | 1 => readCopy s c
      | 2 => landCopy s c
      | 3 => bumpWord s c
      | 4 => if jobDone s c.o.id then completeOp s c.o else s
      | _ => completeOp s c.o

/-- COPY_COMPLETION: the copy does what it does next. -/
def execCopyCompletion (op : Nat) (s : State) : Out :=
  match opOf s op with
  | none => .next s
  | some o =>
    match o.body with
    | .copy j => (match copyRun s o j with
        | some c => .next (copyTurn s c)
        | none => .next s)
    | _ => .next s

/-- COPY_FAULT: the copy ends in the fault named. A checksum fails only where its line has been written: the path corrupts that
line of a copy with chk (R266). -/
def execCopyFault (op cause sub : Nat) (addr : DWord) (s : State) : Out :=
  match opOf s op with
  | none => .next s
  | some o =>
    match o.body with
    | .copy j =>
      if cause = causeCOPY ∧ sub = 6 then
        (if j.f.chk then .next (setJob s o { j with noise := (if j.dir = 0 then addr.toNat % 2 ^ 33 else addr.toNat) / 64 :: j.noise })
         else .next s)
      else .next (copyFault s o cause sub addr (match copyRun s o j with
        | some c => c.lanes addr.toNat
        | none => leaderMask j))
    | _ => .next s

/-! ## Issue (R252, R254, R271) -/

/-- The context with the leader lane alone, which traps of a copy at issue name. -/
def Ctx.leading (c : Ctx) : Ctx := { c with exec := 1#64 <<< (c.leader.getD 0) }

/-- R271, step 2: the rack slot named, and its move to Pending or DroppedPending, which the copy makes as it issues. -/
def Ctx.takeSlot (c : Ctx) (f : CopyF) (body : Nat → Nat → (Ctx → Ctx) → Out) : Out :=
  if !f.rk then body 0 0 id
  else
    let q := f.rack.toNat
    let lead := c.leading
    lead.withRack q true fun _ r =>
      let j := field (c.gLane f.rg.toNat (c.leader.getD 0)) 15 12
      if r.n ≤ j then lead.rackTrap 7 q (some j)
      else
        let (st, own) := r.slot j
        if st = .held ∧ own = c.owner then body j (r.offset j) (·.setRack q (r.setSlot j .pending own))
        else if st = .droppedHeld ∧ own = c.owner then
          body j (r.offset j) (·.setRack q (r.setSlot j .droppedPending own))
        else lead.rackTrap 4 q (some j)

def Ctx.copy (c : Ctx) (f : CopyF) (kind : Nat) : Out :=
  let body : Out :=
    match c.grantWait (some .cp) (some .cp) with
    | some w => c.stall w
    | none =>
      let lead := c.leader.getD 0
      let g := f.g.toNat
      let usesG := kind = 2 ∨ kind = 3 ∨ kind = 4
      let gs := (if usesG then [(g, false)] else []) ++ (if f.rk then [(f.rg.toNat, false)] else [])
      let sb := 2 * f.sb.toNat
      let cb := 2 * f.cb.toNat
      let ss := (if kind = 0 then [sb] else [sb, sb + 1]) ++ (if f.cw then [cb, cb + 1] else [])
      c.leading.access gs ss fun cl =>
        let c := { c with w := cl.w }
        c.takeSlot f fun j off move =>
          let word := if f.cw then c.sPair f.cb.toNat else 0
          let cl := c.leading
          if f.cw && word.toNat % 8 != 0 then cl.trap causeALIGN 2 word cl.exec
          else
            let n := (c.sReg sb).toNat
            let bo := (c.slot (if f.dir = 0 then 2 else 0) lead).toNat + off
            if kind = 0 ∧ f.dir ≠ 2 ∧ c.bufLimit (!f.buf) < bo + n then
              cl.trap causeBUFBOUNDS 0 (c.lineAddr (!f.buf) bo) cl.exec
            else
              let rm := if f.rm = 0 then c.k0.mode.toNat else f.rm.toNat
              let rs : Bool := (kind = 5 ∨ kind = 6) ∧ Rm.ofCode rm = .rs
              let job : CopyJob :=
                { f, kind, leader := lead, regs := (List.range 4).map fun i => c.slot i lead
                  base := if kind = 0 then (c.sReg sb).setWidth 64 else c.sPair f.sb.toNat
                  word
                  rows := if kind = 2 then [(lead, c.gLane g lead)]
                    else if kind = 3 ∨ kind = 4 then c.lanes.map fun l => (l, c.gLane g l) else []
                  wordPa := 0, slotNo := j, rm, seed := c.k0.rseed, record := none, asked := [], got := [], left := [],
                  noise := [], phase := 0 }
              let c := move c
              let c := if rs then { c with k := { c.k with rseed := rngStep c.k0.rseed } } else c
              (c.start (some .cp) (some .cp) (.copy job)).retire
  if f.rk then c.notInKernel body else body

def execCpyl (f : CopyF) (s : State) : Out := withStrand (.cpyl f) none s fun c => c.copy f 0
def execCpyt (f : CopyF) (s : State) : Out := withStrand (.cpyt f) none s fun c => c.copy f 1
def execCpyw (f : CopyF) (s : State) : Out := withStrand (.cpyw f) none s fun c => c.copy f 2
def execCpyg (f : CopyF) (s : State) : Out := withStrand (.cpyg f) none s fun c => c.copy f 3
def execCpys (f : CopyF) (s : State) : Out := withStrand (.cpys f) none s fun c => c.copy f 4
def execCpyx (f : CopyF) (s : State) : Out := withStrand (.cpyx f) none s fun c => c.copy f 5
def execCpyq (f : CopyF) (s : State) : Out := withStrand (.cpyq f) none s fun c => c.copy f 6

end Sys2Proof.Machine
end

