-- ==== Sys2Proof/Machine/Ordering.lean ====
section
/-! DEFINITION. Fences, acquires and releases, FLUSH and INV, atomics, and rendezvous points (spec/11_ordering.md R296
to R321; spec/04_issue.md R151). -/

namespace Sys2Proof.Machine

/-! ## FENCE, ACQ and REL (R300, R301, R303) -/

def execFence (sp : Safe) (scope : BitVec 3) (s : State) : Out :=
  withStrand (.fence sp scope) none s fun c =>
    c.release scope.toNat fun c => c.acquire scope.toNat fun c => c.retire
def execRel (sp : Safe) (scope : BitVec 3) (s : State) : Out :=
  withStrand (.rel sp scope) none s fun c => c.release scope.toNat fun c => c.retire
def execAcq (sp : Safe) (scope : BitVec 3) (s : State) : Out :=
  withStrand (.acq sp scope) none s fun c => c.acquire scope.toNat fun c => c.retire

/-- The size of a word form. -/
def syncSize (f : SyncF) : Nat := if f.size then 8 else 4
/-- The scope code under which the load of an ACQ word form is kept: 8 above the scope's. -/
def acqCode (scope : Nat) : Nat := 8 + scope

/-- The strand waits for an operation's values, its slots from slot on kept as they are; the instruction does not retire. -/
def Ctx.awaitOp (c : Ctx) (id slot count : Nat) (mk : LaneAccess → Sent) (ls : List LaneAccess) : Out :=
  let c := { c with k := { c.k with wait := some (.values id slot ((c.k0.slots.drop slot).take count)), waitSince := c.s.cycles } }
  .next (sendLanes c.commit c.tenant id false mk ls)

/-- ACQ of a word: the loads first; once their values are in place it acquires and retires. -/
def execAcqWord (f : SyncF) (s : State) : Out :=
  withStrand (.acqWord f) none s fun c =>
    let scope := f.scope.toNat
    match c.k0.wait with
    | some (.values id slot old) =>
      if acquireHolds c.s c.w0.core c.ref c.k0 scope then c.acquire scope fun c => c.retire else c.stall (.values id slot old)
    | _ =>
      c.withAddress f.sb.toNat f.g.toNat fun c =>
        if !acquireHolds c.s c.w0.core c.ref c.k0 scope then c.stall (.acquired scope)
        else
          let size := syncSize f
          let d := destOf f.slot.toNat size false
          let va := c.lanes.map fun l => (l, c.address f.sb.toNat f.g.toNat f.off.toNat l)
          c.checked 0 size false false va fun c ls =>
            c.watched 0 size va
              (let las := laneAccesses ls fun _ => []
               let id := c.s.nextId
               (c.start none none (.load size d (acqCode scope) las)).awaitOp id d.slot d.count
                 (fun a => c.request id a.target (if scopeCORE < scope then .acquire else .read) size [] a.lane) las)

/-- REL of a word: the waits of a release, then the releasing store. -/
def execRelWord (f : SyncF) (s : State) : Out :=
  withStrand (.relWord f) none s fun c =>
    c.withAddress f.sb.toNat f.g.toNat fun c =>
      match c.grantWait (some .st) (some .st) with
      | some w => c.stall w
      | none =>
        let size := syncSize f
        let va := c.lanes.map fun l => (l, c.address f.sb.toNat f.g.toNat f.off.toNat l)
        c.checked 1 size true false va fun c ls =>
          c.watched 1 size va
            (c.release f.scope.toNat fun c =>
              let las := laneAccesses ls (c.stored f.slot.toNat size)
              let id := c.s.nextId
              (c.start (some .st) (some .st) (.store size f.scope.toNat true las)).retireSending id false
                (fun a => c.request id a.target .release size a.data a.lane) las)

/-! ## FLUSH and INV (R311, R312) -/

/-- Whether a core lies within a scope of another. -/
def coreInScope (scope core other : Nat) : Bool :=
  if scope ≤ scopeCORE then other == core
  else if scope = scopeYARD then yardOfCore other == yardOfCore core
  else if scope < scopePKG then dieOfCore other == dieOfCore core
  else true

/-- The addresses at which a range enters a page, lowest first. -/
def pageStarts (base n : Nat) : List Nat :=
  if n = 0 then []
  else base :: (List.range ((base + n - 1) / 65536 - base / 65536)).map fun i => (base / 65536 + 1 + i) * 65536

/-- The pages of a range checked as a load, in order; the first failure with its address. -/
def checkPages (s : State) (core tenant : Nat) (r : AccessReq) : List Nat → State × Option (Failure × Nat)
  | [] => (s, none)
  | va :: rest =>
    if 2 ^ 64 ≤ va then (s, some (⟨1, causeXLATE, 2⟩, va))
    else match checkLane s core tenant r (BitVec.ofNat 64 (va / 64 * 64)) with
      | (s, .error f) => (s, some (f, va))
      | (s, .ok _) => checkPages s core tenant r rest

/-- The places of a range's lines. -/
def linePlaces (s : State) (tenant : Nat) (r : AccessReq) (base n : Nat) : List Target :=
  if n = 0 then []
  else (List.range ((base + n - 1) / 64 - base / 64 + 1)).filterMap fun i =>
    match checkUnit s tenant r ((base / 64 + i) * 64) with
    | .ok t => some t
    | .error _ => none

/-- A line flushed: its pin within the scope published, then FL at its home, under a strand's code; a dirty host line that the
bridge holds is written to the host. What its home did with the walk. -/
def flushLine (s : State) (core tenant code scope : Nat) (t : Target) : State × HomeResult :=
  match t with
  | .mem pa =>
    let line := lineOf pa
    let s := if s.l1.any fun c => c.line == line && isPin c.kind && coreInScope scope core c.core then publishPin s line else s
    homeAccess s line { ev := evFL, core := some core, op := code, since := s.ns, req := none }
  | .host pa => (writeBack s tenant (pa / 64), .done)
  | _ => (s, .done)
/-- The walk over lines, as far as it can go now: done, or the lines left, of which the home holds, refused or failed the first. -/
def flushLines (s : State) (core tenant code scope : Nat) : List Target → State × HomeResult × List Target
  | [] => (s, .done, [])
  | t :: ts =>
    match flushLine s core tenant code scope t with
    | (s, .done) => flushLines s core tenant code scope ts
    | (s, r) => (s, r, t :: ts)
/-- A line's clean copies within the scope dropped; the bridge keeps a line on which a lease runs, or for which the host waits
(17 R442). -/
def invLine (s : State) (core scope : Nat) (t : Target) : State :=
  let s := { s with far := s.far.filter fun c => !(c.place == t.lineStart && coreInScope scope core c.core) }
  match t with
  | .mem pa =>
    { s with l1 := s.l1.filter fun c =>
        !(c.line == lineOf pa && (isLease c.kind || isPush c.kind) && coreInScope scope core c.core) }
  | .host pa => setPart s fun p =>
    { p with bridge := p.bridge.filter fun b => b.line != pa / 64 || b.dirty || b.snooped || decide (s.ns < b.horizon) }
  | _ => s

/-- A walk that a home fails at the first of the lines left: the instruction's own fault, with the line's address (12 R332, R335). -/
def Ctx.walkFails (c : Ctx) (ecode : Nat) (left all : List Target) (base : Nat) : Out :=
  c.trap causePERM (ecodeSub ecode) (BitVec.ofNat 64 (64 * (base / 64 + (all.length - left.length)))) c.exec
/-- The walk of FLUSH or INV over the lines left of all, from an address on; the strand is not ready until it ends, and then goes on
from the line at which a home refused or held it. -/
def Ctx.walk (c : Ctx) (scope : Nat) (drop : Bool) (left all : List Target) (base : Nat) : Out :=
  match flushLines c.s c.w0.core c.tenant (readCode c.ref) scope left with
  | (s, .done, _) =>
    ((c.onTo s).through fun s => if drop then all.foldl (fun s t => invLine s c.w0.core scope t) s else s).retire
  | (s, .error e, rest) => (c.onTo s).walkFails e rest all base
  | (s, r, rest) => (c.onTo s).stallRead (.walk (r == .held) rest all base)
/-- Whether the home still holds the walk at a line. -/
def walkHeld (s : State) (code : Nat) : List Target → Bool
  | .mem pa :: _ => waitsAt s (lineOf pa) evFL code
  | _ => false
/-- What the home has answered to the walk that it held there. -/
def walkAnswer (s : State) (core code : Nat) : List Target → Option LineAnswer
  | .mem pa :: _ => answerOf s (lineOf pa) (some core) evFL code
  | _ => none
/-- FLUSH, and INV where drop says so: every earlier store of the strand is drained, those outside the part too, before the walk,
which keeps to the range read as it began. -/
def Ctx.flush (c : Ctx) (f : FlushF) (drop : Bool) : Out :=
  let scope := f.scope.toNat
  match c.k0.wait with
  | some (.walk held left all base) =>
    if held && walkHeld c.s (readCode c.ref) left then c.stall (.walk held left all base)
    else match (if held then walkAnswer c.s c.w0.core (readCode c.ref) left else none) with
      | some a =>
        let c := { c with s := dropAnswers c.s (some c.w0.core) (readCode c.ref) [a.line] }
        (match a.error with
         | some e => c.walkFails e left all base
         | none => c.walk scope drop (left.drop 1) all base)
      | none => c.walk scope drop left all base
  | _ =>
    c.access [] [2 * f.sb.toNat, 2 * f.sb.toNat + 1, f.s.toNat] fun c =>
      let base := (c.sPair f.sb.toNat).toNat
      let n := (c.sReg f.s.toNat).toNat
      let r : AccessReq := { size := 64, write := false, tagOk := false, priv := c.l.privileged }
      let (s, bad) := checkPages c.s c.w0.core c.tenant r (pageStarts base n)
      let c := { c with s }
      match bad with
      | some (x, va) =>
        c.accessFault 0 [BitVec.ofNat 64 va] { cause := x.cause, sub := x.sub, order := x.order, addr := BitVec.ofNat 64 va, lanes := c.exec }
      | none =>
        if !releaseHolds c.s c.w0.core c.ref c.k0 (max scope scopeYARD) || ownPosted c.s c.ref then
          c.stall (.released (max scope scopeYARD))
        else
          let ts := linePlaces c.s c.tenant r base n
          c.walk scope drop ts ts base
def execFlush (f : FlushF) (s : State) : Out := withStrand (.flush f) none s fun c => c.flush f false
def execInv (f : FlushF) (s : State) : Out := withStrand (.inv f) none s fun c => c.flush f true

/-! ## Atomics at issue (R313, R314, R318) -/

def atomSize (f : AtomF) : Nat := atomBytes f.ty.toNat
def semAcq (f : AtomF) : Bool := f.sem.getLsbD 0
def semRel (f : AtomF) : Bool := f.sem.getLsbD 1

/-- Lanes outside the part with their operands, grouped by place in order of first appearance. -/
def remoteGroups (ls : List (LaneAccess × DWord × DWord)) : List (Target × List (LaneAccess × DWord × DWord)) :=
  let out := ls.filter fun x => isRemote x.1.target
  ((out.map fun x => x.1.target).eraseDups).map fun t => (t, out.filter fun x => x.1.target == t)

/-- What one request for a group carries: the merged operand, or each lane's operand, with its compare value for cas. -/
def groupData (f : AtomF) (ls : List (LaneAccess × DWord × DWord)) : List Byte :=
  let n := atomSize f
  let op := f.op.toNat
  if atomMerges op then
    match ls with
    | [] => []
    | x :: rest => leBytes n (rest.foldl (fun m y => atomStep op f.ty.toNat f.hm.toNat m y.2.1.toNat 0) x.2.1.toNat)
  else ls.flatMap fun x => leBytes n x.2.1.toNat ++ (if op = 12 then leBytes n x.2.2.toNat else [])

/-- Whether an operation is one of PCI Express (R318). -/
def isAtomicOp (f : AtomF) : Bool :=
  f.op == 0 || f.op == 12 || (f.op == 6 && (decide (f.ty.toNat < 5) || f.hm == 3))
/-- A host address whose window has neither a CAS completer nor DX, for an operation that PCI Express lacks: HOST_ATOMIC
subcode 1. -/
def hostRefuses (s : State) (tenant : Nat) (f : AtomF) (t : Target) : Bool :=
  match t with
  | .host pa =>
    !isAtomicOp f &&
    (match hostWindow s tenant pa with
     | some i => !(windowCoh s tenant i && s.part.cxl) && !windowCas s tenant i && !windowDx s tenant i
     | none => true)
  | _ => false

/-- Values of a group's lanes, from the old value at its place, delivered (R314). -/
def deliverGroup (s : State) (o : Op) (f : AtomF) (returns : Bool) (old : Nat) (ls : List (LaneAccess × DWord × DWord)) : State :=
  if returns then
    let rets := (atomLanes f.op.toNat f.ty.toNat f.hm.toNat old (ls.map fun x => (x.2.1.toNat, x.2.2.toNat))).2
    (ls.zip rets).foldl (fun s x =>
      deliver s o.owner x.1.1.lane f.d.toNat (if atomSize f = 8 then 2 else 1) (BitVec.ofNat 64 x.2)) s
  else s

/-- The value that a group's steps leave. -/
def groupNew (f : AtomF) (old : Nat) (ls : List (LaneAccess × DWord × DWord)) : Nat :=
  (atomLanes f.op.toNat f.ty.toNat f.hm.toNat old (ls.map fun x => (x.2.1.toNat, x.2.2.toNat))).1
/-- What the bridge asks of the host at a stage: the atomic of the first lane left (17 R438), or for an operation that PCI Express
lacks (R318) a read, a CAS of the value read, or a plain write. -/
def stageSent (s : State) (tenant : Nat) (o : Op) (f : AtomF) (t : Target) (ls : List (LaneAccess × DWord × DWord))
    (st : HostStage) : Sent :=
  let n := atomSize f
  let name := nameFull s o.owner (((ls.head?).map (·.1.lane)).getD 0)
  match st with
  | .each => .request o.id t tenant .atomic n (groupData f (ls.take 1)) (some (f.op.toNat, f.ty.toNat, f.hm.toNat)) 0 false name
  | .reading _ => .request o.id t tenant .read n [] none 0 false name
  | .trying seen _ =>
    .request o.id t tenant .atomic n (leBytes n (groupNew f seen ls) ++ leBytes n seen) (some (12, if n = 8 then 3 else 1, 0)) 0 false name
  | .writing seen => .request o.id t tenant .write n (leBytes n (groupNew f seen ls)) none 0 false name
/-- A stage noted, and its request sent: the first of an operation's as any request is, a later one at once, since what waits for
the line waits for the operation too. Each request is timed from its own sending (17 R449): the one before has been answered. -/
def setStage (s : State) (tenant : Nat) (o : Op) (f : AtomF) (t : Target) (ls : List (LaneAccess × DWord × DWord))
    (st : HostStage) : State :=
  let begun := o.steps.any (·.target == t)
  let s := updOp s o.id fun o => { o with steps := (o.steps.filter (·.target != t)) ++ [{ target := t, stage := st }] }
  let x := stageSent s tenant o f t ls st
  if begun then sendOn { s with awaiting := s.awaiting.filter fun a => !(a.op == o.id && a.target == t) } none x else sendOut s x
/-- The stages by which an operation goes at a host place, where one request does not carry it: lane by lane, for lanes that do
not merge; or emulated by the bridge, with CAS or with a plain read and write. -/
def emulates (s : State) (tenant : Nat) (f : AtomF) (t : Target) (lanes : Nat) : Option HostStage :=
  match t with
  | .host pa =>
    if coherentHost s tenant t then none
    else if isAtomicOp f then (if 1 < lanes && !atomMerges f.op.toNat then some .each else none)
    else (hostWindow s tenant pa).map fun i => .reading (windowCas s tenant i)
  | _ => none
/-- A group sent to its peer or the host, or to the bridge, which performs it on a line that it holds. -/
def sendGroup (s : State) (tenant : Nat) (o : Op) (f : AtomF) (returns : Bool)
    (g : Target × List (LaneAccess × DWord × DWord)) : State :=
  match emulates s tenant f g.1 g.2.length with
  | some st => setStage s tenant o f g.1 g.2 st
  | none =>
    let lanes := g.2.map (·.1)
    let posted := !returns && !isHost g.1
    let s := sendOut s (.request o.id g.1 tenant (if posted then .reduce else .atomic) (atomSize f) (groupData f g.2)
      (some (f.op.toNat, f.ty.toNat, f.hm.toNat)) 0 false (nameFull s o.owner (((lanes.head?).map (·.lane)).getD 0)))
    { s with posted := s.posted ++ (if posted then lanes.map fun a =>
        { id := o.id, writer := .strand, owner := o.owner, lane := a.lane, va := a.va, target := a.target } else []) }

/-- The lanes of groups, ascending. -/
def groupLanes (gs : List (Target × List (LaneAccess × DWord × DWord))) : List LaneAccess :=
  let ls := gs.flatMap fun g => g.2.map (·.1)
  (List.range 64).filterMap fun l => ls.find? fun a => a.lane == l
/-- The requests of an atomic that has issued; the lanes that no link or completer serves fail together (R318). -/
def sendGroups (s : State) (tenant id : Nat) : State :=
  match opOf s id with
  | some o =>
    match o.body with
    | .atomic f returns ls =>
      let gs := remoteGroups ls
      let down := gs.filter fun g => linkDown s tenant g.1
      let refused := gs.filter fun g => !linkDown s tenant g.1 && hostRefuses s tenant f g.1
      let sent := gs.filter fun g => !linkDown s tenant g.1 && !hostRefuses s tenant f g.1
      let s := sent.foldl (fun s g => sendGroup s tenant o f returns g) s
      failLanes (failLanes s o causeREMOTE 0 (groupLanes down)) o causeHOSTATOMIC 1 (groupLanes refused)
    | _ => s
  | none => s

/-- ATOM, ATOMC and RED. -/
def Ctx.atomic (c : Ctx) (f : AtomF) (returns : Bool) : Out :=
  let cl : CounterClass := if returns then .ld else .st
  c.withAddress f.sb.toNat f.g.toNat fun c =>
    match c.grantWait (some cl) (some .st) with
    | some w => c.stall w
    | none =>
      let n := atomSize f
      let va := c.lanes.map fun l => (l, c.address f.sb.toNat f.g.toNat f.off.toNat l)
      let value (slot l : Nat) : DWord := if n = 8 then c.pair slot l else (c.slot slot l).setWidth 64
      c.checked 2 n true false va fun c ls =>
        let issue (c : Ctx) : Out :=
          let las := ls.map fun x =>
            (({ lane := x.1, va := x.2.1, target := x.2.2, data := [] } : LaneAccess), value f.a.toNat x.1, value f.c.toNat x.1)
          let id := c.s.nextId
          let c := c.start (some cl) (some .st) (.atomic f returns las)
          let k := c.passed
          let k := if semAcq f then { k with wait := some (.acquired f.scope.toNat), waitSince := c.s.cycles } else k
          .next (sendGroups ({ c with k }.commit) c.tenant id)
        c.watched 2 n va (if semRel f then c.release f.scope.toNat issue else issue c)

def execAtom (f : AtomF) (s : State) : Out := withStrand (.atom f) none s fun c => c.atomic f true
def execAtomc (f : AtomF) (s : State) : Out := withStrand (.atomc f) none s fun c => c.atomic f true
def execRed (f : AtomF) (s : State) : Out := withStrand (.red f) none s fun c => c.atomic f false

/-! ## Atomics at the home (R305, R314) -/

/-- The first local line of an atomic still to be performed. -/
def atomLineOf (ls : List (LaneAccess × DWord × DWord)) : Option Nat :=
  ls.findSome? fun x => match x.1.target with
    | .mem pa => some (lineOf pa)
    | _ => none

/-- One line of an atomic: in the core's L1 where it holds the line, asking for a pin first at WARP and CORE scope; else
its event at the home. -/
def atomLine (s : State) (o : Op) : State :=
  match o.body with
  | .atomic f returns ls =>
    match atomLineOf ls with
    | none => s
    | some line =>
      let core := opCore s o
      if ls.any fun x => onLine line x.1 && (olderTouches s o.owner o.id x.1.target (atomSize f) true ||
          (match x.1.target with | .mem pa => pendTouches s core pa (atomSize f) | _ => false)) then s
      else
        let s := if f.scope.toNat ≤ scopeCORE && !hasPin s core line && !changing s line then
          askPin s o.owner core line else s
        if holdsLine s core line then performAtomic s o.id line
        else
          let ev := if returns then evAT else evRE
          if waitsAt s line ev o.id then s
          else (homeAccess s line { ev, core := some core, op := o.id, since := s.ns, req := none }).1
  | _ => s

/-! ## Rendezvous points (R319 to R321) -/

/-- A point of the team, else RV 0; initialised where init says so, else RV 1. -/
def Ctx.withPoint (c : Ctx) (pt : Nat) (init : Bool) (f : Point → Out) : Out :=
  let bad (sub : Nat) : Out := c.trap causeRV sub (BitVec.ofNat 64 pt) c.exec
  match c.team with
  | none => bad 0
  | some t =>
    match t.points[pt]? with
    | none => bad 0
    | some p => if init && !p.init then bad 1 else f p
def Ctx.setPoint (c : Ctx) (pt : Nat) (p : Point) : Ctx :=
  { c with s := updTeam c.s c.g.uid c.w0.team fun t => { t with points := t.points.set pt p } }

/-- The phase of the strand's latest arrival. -/
def Strand.arrival (k : Strand) (pt : Nat) : Option Nat := (k.arrivals.find? (·.pt == pt)).map (·.phase)
/-- What RVWAIT waits for: no arrival since RVINIT, or a phase other than the arrival's. -/
def pointPassed (k : Strand) (pt : Nat) (p : Point) : Bool :=
  match k.arrival pt with
  | none => true
  | some a => p.phase.toNat != a
def waitsOn (k : Strand) (pt : Nat) : Bool :=
  match k.wait with
  | some (.rendezvous p _) => p == pt
  | _ => false

def execRvinit (f : RvF) (s : State) : Out :=
  withStrand (.rvinit f) none s fun c => c.notInKernel <|
    let pt := f.pt.toNat
    c.withPoint pt false fun p =>
      let team (w : Warp) : Bool := w.gang == c.g.uid && w.team == c.w0.team
      if p.init && (p.pending != p.expected || c.s.warps.any fun w => team w && w.strands.any (waitsOn · pt)) then
        c.trap causeRV 2 (BitVec.ofNat 64 pt) c.exec
      else
        let n := f.cnt.toNat + 1
        let clear (k : Strand) : Strand := { k with arrivals := k.arrivals.filter (·.pt != pt) }
        let all (w : Warp) : Warp := { w with strands := w.strands.map clear }
        let c := c.setPoint pt { init := true, expected := n, pending := n, phase := 0 }
        { c with s := { c.s with warps := c.s.warps.map fun w => if team w then all w else w },
                 w := all c.w, k := clear c.k }.retire

/-- An arrival: recorded, counted, and its phase written where the instruction asks for it. -/
def Ctx.arrive (c : Ctx) (f : RvF) (p : Point) : Ctx × Point :=
  let pt := f.pt.toNat
  let ph := p.phase.toNat
  let p := { p with pending := p.pending - 1 }
  let p := if p.pending = 0 then { p with phase := p.phase + 1, pending := p.expected } else p
  let k := { c.k with arrivals := c.k.arrivals.filter (·.pt != pt) ++ [{ pt, phase := ph }] }
  let c := { c.setPoint pt p with k }
  (if f.wd then c.setSlot f.d.toNat fun _ => BitVec.ofNat 32 ph else c, p)

def execRvarr (f : RvF) (s : State) : Out :=
  withStrand (.rvarr f) none s fun c => c.notInKernel <|
    c.withPoint f.pt.toNat true fun p => c.release scopeCORE fun c => (c.arrive f p).1.retire

/-- The wait of RVWAIT, then ACQ.core. -/
def Ctx.pointWait (c : Ctx) (pt : Nat) (p : Point) : Out :=
  if pointPassed c.k0 pt p then c.acquire scopeCORE fun c => c.retire
  else c.stall (.rendezvous pt ((c.k0.arrival pt).getD 0))
def execRvwait (f : RvF) (s : State) : Out :=
  withStrand (.rvwait f) none s fun c => c.notInKernel <|
    c.withPoint f.pt.toNat true fun p => c.pointWait f.pt.toNat p
/-- RVAW: it arrives once, and waits from then on; a stop does not make it arrive again (log entry 17). -/
def execRvaw (f : RvF) (s : State) : Out :=
  withStrand (.rvaw f) none s fun c => c.notInKernel <|
    let pt := f.pt.toNat
    c.withPoint pt true fun p =>
      if c.k0.arrivedAt = some c.addr then c.pointWait pt p
      else c.release scopeCORE fun c =>
        let (c, p) := c.arrive f p
        if pointPassed c.k pt p then c.acquire scopeCORE fun c => c.retire
        else
          { c with k := { c.k with arrivedAt := some c.addr, waitSince := c.s.cycles,
                                   wait := some (.rendezvous pt ((c.k.arrival pt).getD 0)) } }.finish

def execTrywaitPhase (sp : Safe) (j : BitVec 6) (h : BitVec 10) (s : State) : Out :=
  withStrand (.trywaitPhase sp j h) none s fun c =>
    c.withPoint j.toNat true fun p => c.tryWait h.toNat (pointPassed c.k0 j.toNat p)

end Sys2Proof.Machine
end

