-- ==== Sys2Proof/Machine/Completion.lean ====
section
/-! DEFINITION. The events by which operations end: loads, stores, answers from outside the part and from the bridge, and engine
queue entries (spec/04_issue.md R133 to R136, R151; spec/10_memory.md R292 to R294; spec/11_ordering.md R305 to R310, R318;
spec/05_registers.md R174; spec/17_links.md R442, R449). An event about an operation that cannot take it now changes nothing. -/

namespace Sys2Proof.Machine

/-- What may follow an operation's end: other operations of which nothing is left, and warps that retire. -/
def settle (s : State) : State :=
  let s := settleOps s
  (s.warps.map (·.uid)).foldl settleWarp s

/-! ## Loads (R292 to R294) -/

/-- Lanes of an operation fail with a fault of their own (not a remote one), to be raised on the strand. -/
def failLocal (s : State) (o : Op) (cause sub : Nat) (bad : List LaneAccess) : State :=
  match bad with
  | [] => s
  | a :: _ =>
    let f : HeldFault := { op := o.id, cause, sub, addr := a.va, lanes := maskOfList (bad.map (·.lane)), remote := false,
                           value := o.value }
    let waited := (strandOf s o.owner).any (·.waitsFor o.id)
    let s := holdFault (updStrand s o.owner fun k => if k.waitsFor o.id then k.undone else k) o.owner f
    dropOpLanes s o.id fun x => waited || bad.any fun b => b.lane == x.lane && b.va == x.va

/-- The lanes named that lie on one line: the line asked for, then the values put in place. -/
def loadLine (s : State) (op : Nat) (m : Mask) (line : Nat) : State :=
  match opOf s op with
  | none => s
  | some o =>
    match o.body with
    | .load size d scope ls =>
      let core := opCore s o
      let mine := ls.filter fun a => m.getLsbD a.lane && onLine line a && !olderTouches s o.owner o.id a.target size false
      if mine.isEmpty then s
      else
        let wide := decide (scopeCORE < scopeOf scope)
        let had := (copyOf s core line).isSome
        let s := if readsAcq scope && !wide && !hasPin s core line && !changing s line then askPin s o.owner core line else s
        match (match fetchLine s core op line (if wide then evAQ else evRD) wide with
            | (s, r) => (if streams scope && !had then markStream s core line else s, r)) with
        | (s, .error c) => failLocal s o causePERM (ecodeSub c) mine
        | (s, .done) =>
          let r := asAnswered s (some core) op
          let s := dropAnswers s (some core) op [line]
          if r.mem.poisoned line then failLocal s o causePOISON 0 mine
          else
            let s := mine.foldl (fun s a =>
              deliverLoad s o.owner d a.lane (coreRead r core o.owner o.id (placeAddr a) size (!wide))) s
            let s := noteReads s o.owner o.id (mine.map fun a => (placeAddr a, size))
            dropOpLanes (touchPin s core line o.owner false true) op fun x => mine.any fun b => b.lane == x.lane
        | (s, _) => s
    | _ => s
/-- One lane whose word lies in the tag window: its lines are read at their homes. -/
def loadTag (s : State) (o : Op) (size : Nat) (d : Dest) (a : LaneAccess) : State :=
  let core := opCore s o
  match fetchLines s core o.id (tagLines (placeAddr a) size) with
  | (s, some (_, .error c)) => failLocal s o causePERM (ecodeSub c) [a]
  | (s, some _) => s
  | (s, none) =>
    let r := asAnswered s (some core) o.id
    let s := dropAnswers s (some core) o.id (tagLines (placeAddr a) size)
    dropOpLanes (deliverLoad s o.owner d a.lane ((seenMem r core).tagRead (placeAddr a) size)) o.id fun x =>
      x.lane == a.lane && x.va == a.va
def loadTags (s : State) (o : Op) (m : Mask) : State :=
  match o.body with
  | .load size d _ ls =>
    (ls.filter fun a => m.getLsbD a.lane && isTagWindow a.target && !olderTouches s o.owner o.id a.target size false).foldl
      (fun s a => loadTag s o size d a) s
  | _ => s

/-- FILL: every line readable, what lies outside the part come back; then the lanes of its Exec take their values. -/
def runFill (s : State) (o : Op) : State :=
  match o.body with
  | .fill slot fmt exec ls =>
    if ls.any fun a => (isRemote a.target && a.back.isNone) || olderTouches s o.owner o.id a.target a.data.length false then s
    else
      let core := opCore s o
      match fetchLines s core o.id (linesOfLanes ls) with
      | (s, some (line, .error c)) => failLine s o ls line c
      | (s, some _) => s
      | (s, none) =>
        let r := asAnswered s (some core) o.id
        let s := dropAnswers s (some core) o.id (linesOfLanes ls)
        match ls.find? fun a => !isRemote a.target && r.mem.poisoned (lineOf (placeAddr a)) with
        | some a =>
          completeOp (holdFault s o.owner { op := o.id, cause := causePOISON, sub := 0, addr := a.va, lanes := exec,
                                            remote := false, value := o.value }) o
        | none =>
          let bs := ls.flatMap fun a => if isRemote a.target then a.back.getD []
            else coreRead r core o.owner o.id (placeAddr a) a.data.length true
          let s := noteReads s o.owner o.id ((localLanes ls).map fun a => (placeAddr a, a.data.length))
          completeOp (updStrand s o.owner fun k => k.setSlotIn exec slot (fillValue fmt bs)) o
  | _ => s

/-- LOAD_COMPLETION: the lanes named take their values, where they can now. -/
def execLoadCompletion (op : Nat) (lanes : Mask) (s : State) : Out :=
  match opOf s op with
  | none => .next s
  | some o =>
    match o.body with
    | .load _ _ _ ls =>
      .next (settle ((linesOfLanes (ls.filter fun a => lanes.getLsbD a.lane)).foldl (fun s l => loadLine s op lanes l)
        (loadTags s o lanes)))
    | .fill .. => .next (settle (runFill s o))
    | .bufLoad .. => if olderBuffer s o then .next s else .next (endBufLoad s o)
    | .atomic .. => .next (settle (atomLine s o))
    | _ => .next s

/-! ## Stores (R297, R308; 10 R294) -/

/-- Whether a store's ST count falls for lanes outside the part once they have left it. -/
def leavesPosted (b : OpBody) : Bool :=
  match b with
  | .store _ scope rel _ => decide (scopeOf scope = 0) && !rel
  | .atomic _ returns _ => !returns
  | _ => false

/-- STORE_COMPLETION: the stores to local memory are visible on the core and go on to their homes; posted ones have left
the part. A releasing store at WARP or CORE scope asks for a pin (R305). -/
def execStoreCompletion (op : Nat) (s : State) : Out :=
  match opOf s op with
  | none => .next s
  | some o =>
    match o.body with
    | .store _ scope rel ls =>
      if ls.any fun a => olderTouches s o.owner o.id a.target a.data.length true then .next s
      else
        let here := localLanes ls
        let s := addPending s o rel here
        let s := dropOpLanes s op fun a => !isRemote a.target || leavesPosted o.body
        let s := if rel && decide (scopeOf scope ≤ scopeCORE) then
            (linesOfLanes here).foldl (fun s line =>
              if hasPin s (opCore s o) line || changing s line then s else askPin s o.owner (opCore s o) line) s
          else s
        .next (settle s)
    | .bufStore .. => if olderBuffer s o then .next s else .next (endBufStore s o)
    | .atomic _ returns _ =>
      if returns then .next s
      else
        let s := settleOps (dropOpLanes s op fun a => isRemote a.target && !isHost a.target)
        match opOf s op with
        | some o => .next (settle (atomLine s o))
        | none => .next (settle s)
    | _ => .next s

/-! ## Answers from outside the part (R308 to R310, R318; 17 R449) -/

/-- The accesses that a failing answer is about: those on the 64-byte line of its address, or all (log entry 20). -/
def failing (addr : DWord) (ls : List LaneAccess) : List LaneAccess :=
  match ls.filter (fun a => a.va.toNat / 64 == addr.toNat / 64) with
  | [] => ls
  | bad => bad
def sameLane (a b : LaneAccess) : Bool := a.lane == b.lane && a.va == b.va && a.target == b.target

/-- The pieces of an answer's data, one for each access. -/
def replyParts (sizes : List Nat) (data : List Byte) : List (List Byte) :=
  match sizes with
  | [] => []
  | n :: ns => data.take n :: replyParts ns (data.drop n)

/-- A line as it comes back: from a peer with its tag and mark, from the host with neither. -/
def lineSize (t : Target) : Nat := if isHost t then 64 else 67
def lineBack (t : Target) (bs : List Byte) : List Byte := if isHost t then gotBytes (padTo 64 bs) 0 false else padTo 67 bs
/-- The lines asked for that an answer brings, by line number, and those still asked for. The bridge gives whole lines. -/
def linesBack (p : Target → Bool) (asked : List (Nat × Target)) (r : RemoteReply) : List (Nat × List Byte) :=
  let mine := asked.filter fun x => p x.2
  if r.lines.isEmpty then
    (mine.zip (replyParts (mine.map fun x => lineSize x.2) r.data)).map fun x => (x.1.1, lineBack x.1.2 x.2)
  else (mine.zip r.lines).map fun x => (x.1.1, padTo 67 x.2)
/-- The address that a failure of lines asked for is about: the answer's where it is one of them. -/
def failedLine (p : Target → Bool) (asked : List (Nat × Target)) (r : RemoteReply) : DWord :=
  let mine := asked.filter fun x => p x.2
  if mine.any fun x => x.1 == r.addr.toNat / 64 then r.addr else BitVec.ofNat 64 (64 * ((mine.head?).map (·.1)).getD 0)
def stillAsked (p : Target → Bool) (asked : List (Nat × Target)) : List (Nat × Target) := asked.filter fun x => !p x.2

/-- The failure of what a unit of the part, a copy or a strand has sent and not waited for, as its writer answers it. -/
def failPosted (s : State) (x : Posted) (r : RemoteReply) : State :=
  match x.writer with
  | .strand => recordRerr s x.owner { lane := x.lane, va := x.va, target := x.target, data := [] } r.code.toNat r.sub.toNat
  | .copy => (match opOf s x.id with
      | some o => (match o.body with
          | .copy j => linkFault s o j (if j.phase = 4 then 8 else 7) (if j.phase = 4 then j.word else x.va)
          | _ => s)
      | none => s)
  | w => failUnit s w
def postedLane (x : Posted) : LaneAccess := { lane := x.lane, va := x.va, target := x.target, data := [] }
/-- Posted accesses that satisfy p acknowledged: all of an operation's, or with a failure those that failed, each of which is
reported. Its lanes that have not left yet need no other answer. -/
def ackPosted (s : State) (op : Nat) (p : Posted → Bool) (r : RemoteReply) : State :=
  let mine := s.posted.filter fun x => x.id == op && p x
  let gone : List LaneAccess := if r.code = 0 then mine.map postedLane else failing r.addr (mine.map postedLane)
  let isGone (x : Posted) : Bool := gone.any fun a => sameLane a (postedLane x)
  let s := { s with posted := s.posted.filter fun x => !(x.id == op && p x && isGone x) }
  let s := dropOpLanes s op fun a => gone.any (sameLane a)
  if r.code = 0 then s else (mine.filter isGone).foldl (fun s x => failPosted s x r) s

/-- The instruction that waits on an operation goes on: what its lanes do. -/
def resumeStrand (s : State) (o : Op) (f : Strand → Strand) : State :=
  let s := updStrand s o.owner fun k => if k.wait = some (.value o.id) then f { k with wait := none } else k
  completeOp s o

/-- CALL with its return addresses written: the lanes that passed, and those that the guard excluded (04 R142). -/
def endCall (k : Strand) (addr target : Word) (len : Nat) (here exec : Mask) : Strand :=
  let k := { k with lpc := setLanes here (fun _ => addr + BitVec.ofNat 32 len) k.lpc,
                    skipWatch := false, cancelled := none }
  { k with lpc := setLanes exec (fun _ => target) k.lpc, calls := setLanes exec (fun l => lane 0 k.calls l + 1) k.calls }
/-- RET with its addresses read. -/
def endRet (k : Strand) (addr : Word) (len : Nat) (here exec : Mask) (to_ : Nat → Word) : Strand :=
  let k := { k with lpc := setLanes here (fun _ => addr + BitVec.ofNat 32 len) k.lpc,
                    skipWatch := false, cancelled := none }
  { k with lpc := setLanes exec to_ k.lpc, calls := setLanes exec (fun l => lane 0 k.calls l - 1) k.calls }

/-- Bytes that an answer brings for a lane. -/
def OpBody.backSize (b : OpBody) (a : LaneAccess) : Nat :=
  match b with
  | .load size _ _ _ => size
  | .fill .. => a.data.length
  | .head _ => a.data.length
  | .tileLoad .. => 4
  | .retRead .. => 4
  | _ => 0
/-- A lane's bytes kept with it. -/
def setBack (a : LaneAccess) (bs : List Byte) (ls : List LaneAccess) : List LaneAccess :=
  ls.map fun x => if sameLane a x then { x with back := some bs } else x
/-- What came back for one lane: put in place, or kept until the whole operation has its bytes. -/
def giveLane (s : State) (id : Nat) (a : LaneAccess) (bs : List Byte) : State :=
  match opOf s id with
  | none => s
  | some o =>
    let put (b : OpBody) : State := updOp s id fun o => { o with body := b }
    match o.body with
    | .load _ d _ _ => dropOpLanes (deliverLoad s o.owner d a.lane bs) id (sameLane a)
    | .store .. => dropOpLanes s id (sameLane a)
    | .fill slot fmt m ls => put (.fill slot fmt m (setBack a bs ls))
    | .head ls => put (.head (setBack a bs ls))
    | .tileLoad c ls => put (.tileLoad c (setBack a bs ls))
    | .callWrite addr target len here ls =>
      (match ls.filter fun x => !sameLane a x with
       | [] => resumeStrand s o fun k => endCall k addr target len here o.exec
       | rest => put (.callWrite addr target len here rest))
    | .retRead addr len here ls =>
      let ls := setBack a bs ls
      if ls.all (·.back.isSome) then resumeStrand s o fun k => endRet k addr len here o.exec (returnWord ls)
      else put (.retRead addr len here ls)
    | _ => s

/-- Whether a write of this part to a line outside it has not been answered. -/
def writesOut (s : State) (t : Target) : Bool :=
  s.posted.any (fun x => x.target.lineStart == t.lineStart) ||
  s.ops.any fun o => o.body.changes && (o.body.laneList.any fun a => isRemote a.target && a.target.lineStart == t.lineStart)
/-- A leased line outside the part put in a core's L1 (12 R352; 17 R442); one that this part is writing is not kept, so that no
strand reads past its own store (11 R298). -/
def putFar (s : State) (core : Nat) (place : Target) (until_ : Nat) (bytes : List Byte) (stream : Bool) : State :=
  if until_ = 0 || writesOut s place then s
  else
    let s := { s with far := s.far.filter fun c => !(c.core == core && c.place == place) }
    let s := makeRoom s core
    { s with far := s.far ++ [{ core, place, until_, bytes, stream }] }
/-- Leased lines that came with a load's answer stay in the core's L1. -/
def keepLeases (s : State) (o : Op) (ls : List LaneAccess) (r : RemoteReply) : State :=
  match o.body with
  | .load _ _ scope _ =>
    let core := opCore s o
    (((ls.map fun a => a.target.lineStart).eraseDups).zip r.lines).foldl (fun s x =>
      putFar s core x.1 r.lease x.2 (streams scope)) s
  | _ => s
/-- A prefetched line that has come: kept as its home leases it; a failure is dropped, and a poisoned line is not kept, so that a
later load meets its mark (10 R295; 17 R449). -/
def endPrefetch (s : State) (x : Prefetch) (r : RemoteReply) : State :=
  let s := { s with prefetches := s.prefetches.filter (·.id != x.id) }
  if r.code = 0 ∧ ((lineBack x.place r.data)[66]?).getD 0 = 0 then
    putFar s x.core x.place r.lease (padTo 64 ((r.lines.head?).getD r.data)) false
  else s

/-- An answer about lanes of an operation that wait for one: their values, or the failure of some. -/
def replyLanes (s : State) (o : Op) (ls : List LaneAccess) (r : RemoteReply) : State :=
  if ls.isEmpty then s
  else if r.code = 0 then
    let s := keepLeases s o ls r
    (ls.zip (replyParts (ls.map o.body.backSize) r.data)).foldl (fun s x => giveLane s o.id x.1 x.2) s
  else
    let s := failLanes s o r.code.toNat r.sub.toNat (failing r.addr ls)
    match o.body, opOf s o.id with
    | .fill .., some o => completeOp s o
    | _, _ => s

/-! ## Atomics outside the part (R314, R318) -/

/-- Lanes of a group that are over, with the stage of their emulation. -/
def endGroup (s : State) (o : Op) (t : Target) (ls : List (LaneAccess × DWord × DWord)) : State :=
  let s := updOp s o.id fun o => { o with steps := o.steps.filter (·.target != t) }
  dropOpLanes s o.id fun a => ls.any fun x => sameLane a x.1
/-- CAS attempts of an emulation. -/
def casTries : Nat := 64
/-- A group answered: an atomic with the value it found; one in stages goes on to its next lane; an emulation goes on to its next stage, or ends. -/
def replyGroup (s : State) (o : Op) (f : AtomF) (returns : Bool) (t : Target) (ls : List (LaneAccess × DWord × DWord))
    (old : Nat) : State :=
  let tenant := opTenant s o
  let done (v : Nat) : State := endGroup (deliverGroup s o f returns v ls) o t ls
  match (o.steps.find? (·.target == t)).map HostStep.stage with
  | none => done old
  | some .each =>
    let s := dropOpLanes (deliverGroup s o f returns old (ls.take 1)) o.id fun a => (ls.take 1).any fun x => sameLane a x.1
    (match ls.drop 1 with
     | [] => endGroup s o t []
     | rest => setStage s tenant o f t rest .each)
  | some (.reading true) => setStage s tenant o f t ls (.trying old 1)
  | some (.reading false) => setStage s tenant o f t ls (.writing old)
  | some (.writing seen) => done seen
  | some (.trying seen n) =>
    if old = seen then done seen
    else if casTries ≤ n then endGroup (failLanes s o causeHOSTATOMIC 0 (ls.map (·.1))) o t ls
    else setStage s tenant o f t ls (.trying old (n + 1))
/-- An answer about groups of an atomic. -/
def replyAtomic (s : State) (o : Op) (f : AtomF) (returns : Bool) (gs : List (Target × List (LaneAccess × DWord × DWord)))
    (r : RemoteReply) : State :=
  if gs.isEmpty then s
  else if r.code = 0 then
    (gs.zip (replyParts (gs.map fun _ => atomSize f) r.data)).foldl (fun s x =>
      match opOf s o.id with
      | some o => replyGroup s o f returns x.1.1 x.1.2 (leNat x.2)
      | none => s) s
  else
    let bad := failing r.addr (groupLanes gs)
    let ended := gs.filter fun g => g.2.any fun x => bad.any (sameLane x.1)
    ended.foldl (fun s g => endGroup s o g.1 g.2) (failLanes s o r.code.toNat r.sub.toNat bad)

/-- An answer about the places p that an operation, or a unit's work, awaits: posted accesses first; an answer to them is none to
lanes that wait. -/
def replied (s : State) (op : Nat) (p : Target → Bool) (r : RemoteReply) : State :=
  if s.posted.any fun x => x.id == op && p x.target then ackPosted s op (fun x => p x.target) r
  else match opOf s op with
  | none => (match s.prefetches.find? fun x => x.id == op && p x.place with
      | some x => endPrefetch s x r
      | none => if s.unitReads.any (·.id == op) then repliedUnit s op p r else repliedPacket s op p r)
  | some o =>
    match o.body with
    | .copy j =>
      if j.asked.any fun x => p x.2 then
        (if r.code = 0 then
          setJob s o { j with got := j.got ++ linesBack p j.asked r, asked := stillAsked p j.asked }
        else linkFault s o j 7 (failedLine p j.asked r))
      else s
    | .atomic f returns ls => replyAtomic s o f returns ((remoteGroups ls).filter fun g => p g.1) r
    | b => replyLanes s o ((remoteLanes b.laneList).filter fun a => a.back.isNone && p a.target) r
where
  /-- A unit's read (14 R382, R386): a peer's whole line comes with its mark, and a marked one fails. -/
  repliedUnit (s : State) (op : Nat) (p : Target → Bool) (r : RemoteReply) : State :=
    { s with unitReads := s.unitReads.map fun x =>
        if x.id = op && x.back.isNone && p x.place then
          let marked := x.size == 64 && (((lineBack x.place r.data)[66]?).getD 0) != 0
          { x with back := some (if r.code ≠ 0 then (r.code.toNat, []) else if marked then (causePOISON, [])
              else (0, padTo x.size r.data)) }
        else x }
  /-- Lines that a COPY packet asked for (14 R383). -/
  repliedPacket (s : State) (op : Nat) (p : Target → Bool) (r : RemoteReply) : State :=
    { s with packets := s.packets.map fun x =>
        if x.id = op && x.asked.any (fun y => p y.2) then
          (if r.code = 0 then
            { x with got := x.got ++ linesBack p x.asked r, asked := stillAsked p x.asked }
          else { x with phase := .ending 0x0A, asked := [] })
        else x }

/-- Whether a request has not left the part: it is with the bridge, or waits. -/
def notSent (s : State) (op : Nat) (t : Target) : Bool :=
  (s.part.bridgeQ ++ s.waiting).any fun x => match x with
    | .request o t' .. => o == op && t' == t
    | _ => false
/-- The places that an answer from outside is about: an atomic's at the host come with HOST_ATOMIC_COMPLETION. -/
def answers (s : State) (op : Nat) (host : Bool) (t : Target) : Bool :=
  isRemote t && !notSent s op t &&
  (match (opOf s op).map Op.body with
   | some (.atomic ..) => isHost t == host
   | _ => !host)

/-! ## The bridge cache (17 R441, R442) -/

/-- Lines of the bridge cache: 8 MiB. -/
def bridgeLines : Nat := 131072
def setBridge (s : State) (line : Nat) (f : BridgeLine → BridgeLine) : State :=
  setPart s fun p => { p with bridge := p.bridge.map fun b => if b.line = line then f b else b }
/-- A full bridge makes room: its oldest line on which no lease runs goes, unless the host is to take it, written back where it is
dirty (log entry 65). -/
def bridgeRoom (s : State) : State :=
  if s.part.bridge.length < bridgeLines then s
  else match s.part.bridge.find? fun b => !b.snooped && decide (b.horizon ≤ s.ns) with
    | some b => setPart (writeBack s 0 b.line) fun p => { p with bridge := p.bridge.filter (·.line != b.line) }
    | none => s
/-- A line that the bridge asked of the host has come, or was refused: what waits for it then fails. -/
def bridgeFill (s : State) (line : Nat) (r : RemoteReply) : State :=
  let s := setPart s fun p => { p with fills := p.fills.filter (·.2 != line) }
  if r.code = 0 then
    let s := bridgeRoom s
    setPart s fun p => { p with bridge := p.bridge ++ [
      { line, bytes := padTo 64 r.data, tag := 0, poison := false, dirty := false, horizon := 0, snooped := false }] }
  else
    let mine (x : Sent) : Bool := match x with
      | .request _ (.host pa) .. => pa / 64 == line
      | _ => false
    let out := s.part.bridgeQ.filter mine
    let s := setPart s fun p => { p with bridgeQ := p.bridgeQ.filter fun x => !mine x }
    out.foldl (fun s x => match x with
      | .request op t .. => replied s op (· == t) r
      | _ => s) s

def plainReply (data : List Byte) : RemoteReply := { code := 0, sub := 0, addr := 0, data, lease := 0, lines := [] }
/-- Whether an operation is a plain load, or a prefetch, whose line an L1 may keep. -/
def leasesFar (s : State) (op : Nat) : Bool := match (opOf s op).map Op.body with
  | some (.load _ _ scope _) => decide (scopeOf scope ≤ scopeCORE) && !readsAcq scope
  | _ => s.prefetches.any (·.id == op)
/-- Whether an operation's lines travel with tag and mark. -/
def takesLines (s : State) (op : Nat) : Bool :=
  (match (opOf s op).map Op.body with
   | some (.copy _) => true
   | _ => false) || s.packets.any (·.id == op)
/-- An access to a line that the bridge holds: none while it must wait for leases to end. A read of a poisoned line fails, but for
a copy's, which takes the mark. -/
def bridgeAccess (s : State) (b : BridgeLine) (x : Sent) : Option State :=
  match x with
  | .request op (.host pa) _ kind size data atom tag poison _ =>
    let at_ := pa % 64
    let reply (s : State) (bs : List Byte) (lease : Nat) : State :=
      replied s op (· == .host pa) { plainReply bs with lease := lease, lines := if lease = 0 then [] else [b.bytes] }
    let bad (s : State) : State := replied s op (· == .host pa) { plainReply [] with code := 0x0A }
    let put (bs : List Byte) (whole : Bool) : State := setBridge s b.line fun b =>
      { b with bytes := overwrite b.bytes at_ bs, dirty := true, tag := if whole then tag else b.tag,
               poison := poison || (b.poison && bs.length != 64) }
    if readsOnly kind then
      if takesLines s op then
        some (replied s op (· == .host pa) { plainReply [] with lines := [gotBytes b.bytes b.tag b.poison] })
      else if b.poison then some (bad s)
      else if kind = .read ∧ leasesFar s op then
        let until_ := s.ns + 400
        some (reply (setBridge s b.line fun b => { b with horizon := max b.horizon until_ })
          ((b.bytes.drop at_).take size) until_)
      else some (reply s ((b.bytes.drop at_).take size) 0)
    else if s.ns < b.horizon then none
    else match atom with
      | some (o, ty, hm) =>
        if b.poison then some (bad s)
        else
          let n := atomBytes ty
          let old := (b.bytes.drop at_).take n
          some (reply (put (leBytes n (carriedSteps o ty hm data (leNat old))) false) old 0)
      | none => some (reply (put data (kind == .copyData)) [] 0)
  | _ => some s
/-- One access of those that the bridge has yet to perform, n places from the oldest; the line is asked of the host first. Accesses
to one line keep their order. -/
def bridgeServe (s : State) : List Sent → List Nat → State
  | [], _ => s
  | x :: rest, passed =>
    match x with
    | .request op (.host pa) tenant .. =>
      let line := pa / 64
      if passed.contains line || behindCrumb s op then bridgeServe s rest (line :: passed)
      else match s.part.bridge.find? (·.line == line) with
        | none =>
          if s.part.fills.any (·.2 == line) then bridgeServe s rest (line :: passed)
          else
            let id := s.nextId
            let s := sendOn { s with nextId := id + 1 } none (.request id (.host (64 * line)) tenant .read 64 [] none 0 false noName)
            setPart s fun p => { p with fills := p.fills ++ [(id, line)] }
        | some b =>
          if b.snooped then bridgeServe s rest (line :: passed)
          else
            let without := setPart s fun p => { p with bridgeQ := dropFirst (· == x) p.bridgeQ }
            match bridgeAccess without b x with
            | some s => s
            | none => bridgeServe s rest (line :: passed)
    | _ => bridgeServe s rest passed
/-- Lines that the host has asked for go to it once no lease runs on them. -/
def bridgeGive (s : State) : State :=
  (s.part.bridge.filter fun b => b.snooped && decide (b.horizon ≤ s.ns)).foldl (fun s b =>
    let s := { s with outbox := s.outbox ++ [.hostAnswer b.line b.bytes b.poison true] }
    setPart s fun p => { p with bridge := p.bridge.filter (·.line != b.line) }) s
/-- What the bridge does next. -/
def bridgeTurn (s : State) : State := let s := bridgeGive s; settle (bridgeServe s s.part.bridgeQ [])

/-! ## Answers and timeouts -/

/-- The places, with their addresses, at which an operation's lanes, a copy, a packet, a prefetch or a unit's read await an answer. -/
def lanesAwaited (s : State) (op : Nat) : List (Target × DWord) :=
  match opOf s op with
  | some o =>
    (match o.body with
     | .copy j => j.asked.map fun x => (x.2, BitVec.ofNat 64 (64 * x.1))
     | .atomic _ _ ls => (remoteLanes (ls.map (·.1))).map fun a => (a.target, a.va)
     | b => ((remoteLanes b.laneList).filter (·.back.isNone)).map fun a => (a.target, a.va))
  | none => ((s.packets.filter (·.id == op)).flatMap fun p => p.asked.map fun x => (x.2, BitVec.ofNat 64 (64 * x.1))) ++
      ((s.prefetches.filter (·.id == op)).map fun x => (x.place, 0)) ++
      ((s.unitReads.filter fun x => x.id == op && x.back.isNone).map fun x => (x.place, BitVec.ofNat 64 x.va))
/-- Those of its posted accesses too. -/
def awaited (s : State) (op : Nat) : List (Target × DWord) :=
  (s.posted.filter (·.id == op)).map (fun x => (x.target, x.va)) ++ lanesAwaited s op
def addressOf (s : State) (op : Nat) (t : Target) : DWord := (((awaited s op).find? (·.1 == t)).map (·.2)).getD 0
/-- Requests of an operation whose place nothing awaits any more are no longer out. -/
def dropAwaited (s : State) (op : Nat) : State :=
  let still := awaited s op
  { s with awaiting := s.awaiting.filter fun a => a.op != op || still.any (·.1 == a.target) }

/-- A line of the host, a line asked for by the bridge, or what an operation awaits: a request that is answered, or whose place
nothing awaits any more, is no longer out. -/
def answered (s : State) (op : Nat) (host : Bool) (r : RemoteReply) : State :=
  match s.part.fills.find? (·.1 == op) with
  | some (_, line) => dropAwaited (bridgeFill s line r) op
  | none => dropAwaited (replied s op (answers s op host) (if takesLines s op then { r with lines := [] } else r)) op
/-- REMOTE_ACK: a peer answers, or the host a load or store. -/
def execRemoteAck (op : Nat) (r : RemoteReply) (s : State) : Out := .next (settle (answered s op false r))
/-- HOST_ATOMIC_COMPLETION: the host's answer to an atomic. -/
def execHostAtomicCompletion (op : Nat) (r : RemoteReply) (s : State) : Out := .next (settle (answered s op true r))

/-- Nanoseconds after which a request without a response fails (17 R449). -/
def remoteLimit : Nat := 2000000
/-- The link's report of no response: a peer's, or the host's completion timeout. -/
def noResponse (host : Bool) (addr : DWord) : RemoteReply :=
  { plainReply [] with code := 0x0B, sub := if host then 5 else 1, addr := addr }
/-- The places of an operation whose request has been out for 2 ms. -/
def late (s : State) (a : Awaited) : Bool := decide (a.since + remoteLimit ≤ s.ns)
def overdue (s : State) (op : Nat) : List (Target × DWord) :=
  ((s.awaiting.filter fun a => a.op == op && late s a).map (·.target)).eraseDups.map fun t => (t, addressOf s op t)
/-- REMOTE_TIMEOUT: what has had no response within 2 ms fails. -/
def execRemoteTimeout (op : Nat) (s : State) : Out :=
  .next (settle (match s.part.fills.find? (·.1 == op), overdue s op with
    | some (_, line), _ :: _ => dropAwaited (bridgeFill s line (noResponse true (BitVec.ofNat 64 (64 * line)))) op
    | _, ts => ts.foldl (fun s x => dropAwaited (replied s op (· == x.1) (noResponse (isHost x.1) x.2)) op) s))
/-- The numbers of what has had no response for 2 ms. -/
def overdueIds (s : State) : List Nat := ((s.awaiting.filter (late s)).map (·.op)).eraseDups

/-! ## Engine queue entries and TRYWAIT (04 R136, R151) -/

/-- The EM queue entry of an EMITC or EVSET that waits, accepted by the record unit. -/
def acceptEm (s : State) (core : Nat) : State :=
  let holds (k : Strand) : Bool := k.em == some true
  let release (k : Strand) : Strand := { k with em := some false }
  let here (w : Warp) : Bool := w.core == core && (w.strands ++ w.kernel.toList).any holds
  { s with warps := updFirst here (fun w =>
      if w.strands.any holds then { w with strands := updFirst holds release w.strands }
      else { w with kernel := w.kernel.map release }) s.warps }
/-- QUEUE_ENTRY_RELEASE: the oldest entry of a core's queue. -/
def execQueueEntryRelease (core : Nat) (q : EngineQueue) (s : State) : Out :=
  match q with
  | .em =>
    let d := dieOf s (dieOfCore core)
    let waits (e : StrandRef × Bool) : Bool := e.2 && coreOfWarp s e.1.warp == some core
    if !d.emitting.any waits then .next (acceptEm s core) else
    let es := updFirst (fun e => e.2 && coreOfWarp s e.1.warp == some core) (fun e => (e.1, false)) d.emitting
    .next (setDie s (dieOfCore core) { d with emitting := es })
  | .cp => .next (match (copiesOf s core).find? (engineReads s core) with
      | some o => readCommand s o
      | none => s)
  | q =>
    let mine (o : Op) : Bool := o.queued == some q && coreOfWarp s o.owner.warp == some core
    .next { s with ops := updFirst mine (fun o => { o with queued := none }) s.ops }

/-- The TRYWAIT at which a strand waits, executed; other instructions are none of this event's. -/
def resample (i : Instr) (s : State) : Out :=
  match i with
  | .trywaitRackfill sp j h => execTrywaitRackfill sp j h s
  | .trywaitRackfree sp j h => execTrywaitRackfree sp j h s
  | .trywaitPhase sp j h => execTrywaitPhase sp j h s
  | .trywaitCtr sp t c h => execTrywaitCtr sp t c h s
  | .trywaitFull sp j h => execTrywaitFull sp j h s
  | _ => .next s
/-- A parcel of a launch's code as memory of this part now holds it, where it can still be read (log entry 7). -/
def presentParcel (s : State) (l : Launch) (i : Nat) : Option Parcel :=
  match checkUnit s l.tenant (unitReq false l.privileged) (l.image.toNat + l.codeOff + 2 * i) with
  | .ok t => if isRemote t then none else some (BitVec.ofNat 16 (leNat (readPlace s t 2)))
  | .error _ => none
/-- A parcel as one fetch finds it: as the launch was accepted, or, once the code has changed, either value (02 R45). -/
def parcelAt (s : State) (l : Launch) (i : Nat) : Parcel :=
  let old := (l.code[i]?).getD 0
  match presentParcel s l i with
  | some v => if v = old then old else if Config.fetchesNew s.fresh i then v else old
  | none => old
/-- The parcels of the instruction at an address, as its first parcel counts them, as far as the strand's extent goes
(02 R44, R53). -/
def fetchParcels (s : State) (l : Launch) (k : Strand) (a : Nat) : List Parcel :=
  let room := min (k.entry + k.length) l.code.length - a
  if k.entry ≤ a ∧ 0 < room then (countFrom a (min room (parcelCount (parcelAt s l a)))).map (parcelAt s l) else []

/-! ## The charge of an issue (16 R437) -/

/-- Cycles that an issue at an address charges to the other strands of its core (16 R437). -/
def chargeFor (s : State) (c : Ctx) : Nat :=
  let x := coreOf s c.w0.core
  if x.xctl.getLsbD 7 && field x.xctl 31 16 == c.l.number.toNat && field x.xctl 15 10 == c.tenant &&
     decide (x.xlo.toNat ≤ c.addr.toNat) && decide (c.addr.toNat < x.xhi.toNat)
  then ceilDiv (4 * min (field x.xctl 6 0) 100) 100 else 0
/-- Whether a strand that was about to execute an instruction stands in front of it still, waiting (04 R126): it has not
issued it. One that traps has. -/
def notIssued (s' : State) (c : Ctx) : Bool :=
  ((warpOf s' c.ref.warp).any fun w => w.mode == c.w0.mode) && (gangOf s' c.g.uid).any (fun g => g.phase == c.g.phase) &&
    (strandOf s' c.ref).any fun k => k.lpc == c.k0.lpc && !inCall s' k && k.wait.isSome
/-- The charge of an instruction that has issued, added to XDELAY and to every other strand resident on the core. -/
def charge (c : Ctx) (s : State) : State :=
  let d := chargeFor c.s c
  if d = 0 || notIssued s c then s
  else
    let x := coreOf s c.w0.core
    let s := setCore s c.w0.core { x with xdelay := x.xdelay + BitVec.ofNat 32 d }
    let bump (w : Warp) (k : Strand) : Strand :=
      if w.uid = c.ref.warp ∧ k.no = c.ref.no then k else { k with debt := k.debt + d }
    { s with warps := s.warps.map fun w =>
        if w.core = c.w0.core ∧ (gangOf s w.gang).any (·.resident) then
          { w with strands := w.strands.map (bump w),
                   kernel := w.kernel.map fun k => if c.ref = ⟨w.uid, kernelNo⟩ then k else { k with debt := k.debt + d } }
        else w }

/-- The same of what the instruction answers. -/
def charged (c : Ctx) : Out → Out
  | .next s => .next (charge c s)
  | o => o

/-- TRYWAIT_DEADLINE: the wait ends and the condition is sampled. -/
def execTrywaitDeadline (warp strand : Nat) (s : State) : Out :=
  let r : StrandRef := { warp, no := strand }
  match warpOf s warp, strandOf s r with
  | some w, some k =>
    match k.wait, nodeOf s w with
    | some (.tryUntil d), some (_, l, _) =>
      if d ≤ s.cycles ∧ k.debt = 0 then
        match decode (fetchParcels s l k (k.issueAddress w.launched).toNat) with
        | .ok i =>
          let s := { s with focus := some r }
          (match focusCtx s none 1 0 with
           | some c => charged c (resample i s)
           | none => resample i s)
        | .error _ => .next s
      else .next s
    | _, _ => .next s
  | _, _ => .next s

end Sys2Proof.Machine
end

