-- ==== Sys2Proof/Machine/Placing.lean ====
section
/-! DEFINITION. Record cells, groups, what a gang needs of a core and where it fits, and how it is placed and resumed
(spec/01_work.md R16, R28, R31 to R34; spec/05_registers.md R155 to R158; spec/07_buffers.md R207, R217;
spec/08_matrix.md R229; spec/10_memory.md R288; spec/13_nodes.md R353 to R366; spec/14_queues.md R390). -/

namespace Sys2Proof.Machine

/-! ## Free places -/

def roundUp (a n : Nat) : Nat := ceilDiv n a * a
/-- The lowest place for n units, aligned, that meets no used extent and ends within total. DESIGN CHOICE (log entry 11):
the spec leaves open which free place is taken. -/
def lowestFree (align : Nat) (uses : List (Nat × Nat)) (total n : Nat) : Option Nat :=
  if n = 0 then some 0
  else leastBy id ((0 :: uses.map fun u => roundUp align (u.1 + u.2)).filter fun c =>
    decide (c + n ≤ total) && uses.all fun u => !overlaps c n u.1 u.2)

/-- The area of a register pair laid out as RAREA: enabled, base, bytes (13 R361). -/
def areaEnabled (base : DWord) : Bool := base.getLsbD 0
def areaBase (base : DWord) : Nat := field base 55 16 * 65536
def areaBytes (size : DWord) : Nat := field size 39 16 * 65536

/-! ## Record cells (13 R359 to R364) -/

/-- Cells in use: first cell, how many, the die whose unit allocated them, and whether they are on-chip. -/
structure CellUse where
  first : Nat
  count : Nat
  die : Nat
  onChip : Bool
  deriving DecidableEq, Repr

def NodeEntry.cells (n : NodeEntry) : Nat := ceilDiv (16 * n.recordSize) 64
def cellAddr (t : Tenant) (cell : Nat) : DWord := BitVec.ofNat 64 (areaBase t.rareaBase + 64 * cell)
def cellIndex (t : Tenant) (a : DWord) : Nat := (a.toNat - areaBase t.rareaBase) / 64

def RecordRef.use (t : Tenant) (n : NodeEntry) (r : RecordRef) : Option CellUse :=
  r.cells.map fun c => { first := cellIndex t r.addr, count := n.cells, die := c.1, onChip := c.2 }
def Alloc.use (t : Tenant) (a : Alloc) : CellUse :=
  { first := cellIndex t a.addr, count := a.size, die := a.die, onChip := a.onChip }

/-- The cells a launch holds: records in its troughs, records and live allocations of its gangs. -/
def Launch.uses (s : State) (t : Tenant) (l : Launch) : List CellUse :=
  ((l.troughs.zip l.nodes).flatMap fun x => x.1.queues.flatten.filterMap (·.use t x.2)) ++
  (s.gangs.filter (·.launch == l.uid)).flatMap fun g =>
    ((g.allocs.filter (!·.committed)).map (·.use t)) ++
    (match l.nodes[g.node]? with
     | some n => g.records.filterMap (·.use t n)
     | none => [])
def cellUses (s : State) (tenant : Nat) : List CellUse :=
  (s.launches.filter (·.tenant == tenant)).flatMap (·.uses s (tenantOf s tenant))

/-- On-chip cells of a tenant in use on a die, and its quota (13 R360, R361). -/
def onChipUsed (us : List CellUse) (die : Nat) : Nat :=
  ((us.filter fun u => u.onChip && u.die == die).map (·.count)).foldl (· + ·) 0
def poolQuota (t : Tenant) (die : Nat) : Nat := field t.rpool (15 * die + 14) (15 * die)

/-- n records of k cells each, allocated one after another by a die's unit; none where they do not all fit. -/
def allotCells (t : Tenant) (die k : Nat) : Nat → List CellUse → Option (List CellUse)
  | 0, _ => some []
  | n + 1, us =>
    match lowestFree 1 (us.map fun u => (u.first, u.count)) (areaBytes t.rareaSize / 64) k with
    | none => none
    | some c =>
      let u : CellUse := { first := c, count := k, die, onChip := decide (onChipUsed us die < poolQuota t die) }
      (allotCells t die k n (u :: us)).map (u :: ·)

/-- Whether a warp's strands go on: none has stopped at a trap, a halt or a pre-emption, or before a wait that one ends. -/
def Warp.goesOn (w : Warp) : Bool := w.mode == .running && !w.haltPending && !w.preemptPending
/-- The requests that still stand at a die's record unit: those of strands on its cores that wait in EMITA,
in warps that no stop has reached. -/
def emitLine (s : State) (die : Nat) : List (StrandRef × Bool) :=
  (dieOf s die).emitting.filter fun e =>
    ((strandOf s e.1).any fun k => k.wait == some .records) && (warpOf s e.1.warp).any fun w => w.goesOn && dieOfCore w.core == die

/-! ## Groups (13 R355 to R358) -/

/-- Ascending insertion, stable, by a key. -/
def insertBy {α : Type} (key : α → Nat) (x : α) : List α → List α
  | [] => [x]
  | y :: ys => if key x < key y then x :: y :: ys else y :: insertBy key x ys
def sortBy {α : Type} (key : α → Nat) : List α → List α
  | [] => []
  | x :: xs => insertFront key x (sortBy key xs)
where
  insertFront (key : α → Nat) (x : α) : List α → List α
    | [] => [x]
    | y :: ys => if key x ≤ key y then x :: y :: ys else y :: insertFront key x ys

def Launch.isGrid (l : Launch) : Bool := l.seedAddr == 0
/-- The die queue of a node. -/
def dieQueue (l : Launch) (node die : Nat) : List RecordRef :=
  match l.troughs[node]? with
  | some t => (t.queues[die]?).getD []
  | none => []
def setTrough (l : Launch) (node : Nat) (f : Trough → Trough) : Launch :=
  { l with troughs := l.troughs.modify node f }

/-- The group's index (R26, R357): at the seed node of a grid launch the block number, and from the last block on for groups of
records emitted there (log entry 23); else the trough's counter. -/
def groupIndex (l : Launch) (n : NodeEntry) (node : Nat) (t : Trough) (rs : List RecordRef) : Nat × Trough :=
  match rs.head? with
  | some r =>
    let counted := { t with groups := (t.groups + 1) % 2 ^ 32 }
    if l.isGrid && node == l.seedNode then
      (if r.cells.isNone then (r.index / n.target, t) else (ceilDiv l.seeds n.target + t.groups, counted))
    else (t.groups, counted)
  | none => (t.groups, { t with groups := (t.groups + 1) % 2 ^ 32 })

/-- A group started from a die queue with up to the target's records (R357). -/
def startGroup (s : State) (die launch node : Nat) : State :=
  match launchOf s launch with
  | none => s
  | some l =>
    match l.nodes[node]?, l.troughs[node]? with
    | some n, some t =>
      let rs := (dieQueue l node die).take n.target
      if rs.isEmpty then s
      else
        let (index, t) := groupIndex l n node t rs
        let t := { t with queues := t.queues.modify die (·.drop rs.length) }
        let l := { l with troughs := l.troughs.set node t }
        let g : Gang :=
          { uid := s.nextId, launch, node, index := BitVec.ofNat 32 index, die, records := rs,
            phase := .queued s.cycles s.ns false l.priority, cores := [], teams := [], save := 0, allocs := [], freed := [],
            compactSince := s.cycles, moved := [], clearing := none, compact := false, wBase := [], aBase := [], lastSave := 0 }
        let s := { updLaunch s launch (fun _ => l) with nextId := s.nextId + 1, gangs := s.gangs ++ [g] }
        let s := crumb s l g 0 0 false die 0 0 2 0 rs.length
        changeCounter s launch fun c => c - rs.length + 1
    | _, _ => s

/-! ## What a core has free (01 R16; 05 R155; 07 R207, R217) -/

def residentGangs (s : State) : List Gang := s.gangs.filter (·.resident)
def warpsOn (s : State) (core : Nat) : List Warp :=
  s.warps.filter fun w => w.core == core && (gangOf s w.gang).any (·.resident)
/-- Teams of a gang on a core, with the %vcore. -/
def Gang.teamsOn (g : Gang) (core : Nat) : List Team := g.teams.filter fun t => g.cores[t.vcore]? == some core
/-- The gangs on a core with the %vcore they have there. -/
def gangsOn (s : State) (core : Nat) : List (Gang × Nat) :=
  (residentGangs s).filterMap fun g => (g.cores.findIdx? (· == core)).map fun v => (g, v)

def slotsUsed (s : State) (core : Nat) : List Nat := (warpsOn s core).map (·.slot)
def blocksUsed (s : State) (core c : Nat) : List (Nat × Nat) :=
  ((warpsOn s core).filterMap fun w => w.blocks[c]?).filter (·.2 != 0)
/-- The tile frames of a cluster, 0 and 1, in use. -/
def framesUsed (s : State) (core c : Nat) : List Nat :=
  (warpsOn s core).flatMap fun w =>
    (List.range (w.tiles.filter (·.1 == c)).length).map fun i => (w.frames[c]?).getD 0 + i
def granulesOf (wbuf : Bool) (ts : List Team) : Nat := ((ts.map fun t => (if wbuf then t.w else t.a).limit).foldl (· + ·) 0) / 4096
def rangesUsed (s : State) (core : Nat) (wbuf : Bool) : List (Nat × Nat) :=
  ((gangsOn s core).map fun x =>
    (((if wbuf then x.1.wBase else x.1.aBase)[x.2]?).getD 0, granulesOf wbuf (x.1.teamsOn core))).filter (·.2 != 0)
def teamsUsed (s : State) (core : Nat) : Nat := ((gangsOn s core).map fun x => (x.1.teamsOn core).length).foldl (· + ·) 0
def racksUsed (s : State) (core : Nat) : Nat :=
  ((gangsOn s core).flatMap fun x => (x.1.teamsOn core).map fun t => t.racks.length).foldl (· + ·) 0

/-! ## What a gang needs, and where it fits -/

/-- Cores a gang of a node occupies, and its teams on each. -/
def NodeEntry.coreCount (n : NodeEntry) : Nat := (n.cores.foldl max 0) + 1
def NodeEntry.teamsAt (n : NodeEntry) (v : Nat) : Nat := (n.cores.filter (· == v)).length
def NodeEntry.granulesAt (n : NodeEntry) (c : Nat) : Nat := (n.granules[c]?).getD 0
def NodeEntry.tilesAt (n : NodeEntry) (c : Nat) : Nat := (n.tiles[c]?).getD 0

/-- What one core gives a gang: for each of its warps there a slot, a block and the first frame on each cluster; and
its ranges of W and A. -/
structure CoreFit where
  core : Nat
  slots : List Nat
  blocks : List (List (Nat × Nat))   -- by cluster, then by warp
  frames : List (List Nat)
  wBase : Nat
  aBase : Nat
  deriving DecidableEq, Repr

/-- Blocks of n granules for a number of warps, each at the lowest place left. -/
def takeBlocks (n : Nat) : Nat → List (Nat × Nat) → Option (List (Nat × Nat))
  | 0, _ => some []
  | k + 1, us =>
    if n = 0 then (takeBlocks n k us).map ((0, 0) :: ·)
    else match lowestFree 1 us 32 n with
      | none => none
      | some b => (takeBlocks n k ((b, n) :: us)).map ((b, n) :: ·)
/-- First frames for a number of warps of t frames each. -/
def takeFrames (t : Nat) : Nat → List Nat → Option (List Nat)
  | 0, _ => some []
  | k + 1, free =>
    if free.length < t then none
    else (takeFrames t k (free.drop t)).map ((if t = 0 then 0 else (free.head?).getD 0) :: ·)
/-- Every element, or none. -/
def allSome {α : Type} : List (Option α) → Option (List α)
  | [] => some []
  | none :: _ => none
  | some x :: xs => (allSome xs).map (x :: ·)
def clusters : List Nat := List.range 8

/-- What a core gives the teams of %vcore v, if it can. A frame that an earlier gang on the core left unused counts as free (DESIGN
CHOICE, log entry 60). -/
def fitCore (s : State) (n : NodeEntry) (v core : Nat) : Option CoreFit :=
  let k := n.teamsAt v
  let nw := k * n.warps
  let slots := (List.range 32).filter fun i => !(slotsUsed s core).contains i
  if slots.length < nw ∨ 8 < teamsUsed s core + k ∨ 32 < racksUsed s core + k * n.racks then none
  else do
    let blocks ← allSome (clusters.map fun c => takeBlocks (n.granulesAt c) nw (blocksUsed s core c))
    let frames ← allSome (clusters.map fun c =>
      takeFrames (n.tilesAt c) nw ([0, 1].filter fun i => !(framesUsed s core c).contains i))
    let wBase ← lowestFree 1 (rangesUsed s core true) 128 (k * n.wGranules)
    let aBase ← lowestFree 1 (rangesUsed s core false) 128 (k * n.aGranules)
    some { core, slots := slots.take nw, blocks, frames, wBase, aBase }

/-- Whether a core has the room counting free granules, whatever their places (05 R157, 07 R209). -/
def fitsCounting (s : State) (n : NodeEntry) (v core : Nat) : Bool :=
  let k := n.teamsAt v
  let nw := k * n.warps
  let total (us : List (Nat × Nat)) : Nat := (us.map (·.2)).foldl (· + ·) 0
  decide ((slotsUsed s core).length + nw ≤ 32) && decide (teamsUsed s core + k ≤ 8) &&
  decide (racksUsed s core + k * n.racks ≤ 32) &&
  clusters.all (fun c => decide (total (blocksUsed s core c) + nw * n.granulesAt c ≤ 32) &&
    decide ((framesUsed s core c).length + nw * n.tilesAt c ≤ 2)) &&
  decide (total (rangesUsed s core true) + k * n.wGranules ≤ 128) &&
  decide (total (rangesUsed s core false) + k * n.aGranules ≤ 128)

/-- Different cores for the %vcores listed, each with what it gives. -/
def assignCores {α : Type} (fit : Nat → Nat → Option α) : List Nat → List Nat → Option (List α)
  | [], _ => some []
  | v :: vs, avail => avail.findSome? fun core =>
    match fit v core with
    | none => none
    | some f => (assignCores fit vs (avail.erase core)).map (f :: ·)

def yardCores (yard : Nat) : List Nat := (List.range 4).map (4 * yard + ·)
/-- Where a gang of a node fits on a yard. -/
def fitYard (s : State) (n : NodeEntry) (yard : Nat) : Option (List CoreFit) :=
  assignCores (fitCore s n) (List.range n.coreCount) (yardCores yard)
/-- Where the yard could hold it, counting free granules. -/
def countYard (s : State) (n : NodeEntry) (yard : Nat) : Option (List Nat) :=
  assignCores (fun v core => if fitsCounting s n v core then some core else none) (List.range n.coreCount) (yardCores yard)

/-- A core with nothing on it: whether the shape could be placed on an empty yard (01 R16). -/
def shapeFits (n : NodeEntry) : Bool :=
  (List.range n.coreCount).all fun v => fitsCounting State.reset n v 0

/-! ## Private memory and save areas (10 R288; 14 R390) -/

/-- Bytes of a save area: header, frames, and for each team its buffers with tags and 1 KiB. -/
def NodeEntry.kBytes (n : NodeEntry) : Nat := 16384 * n.warps * (n.tiles.foldl (· + ·) 0)
def NodeEntry.saveBytes (n : NodeEntry) : Nat :=
  let buf := 4096 * (n.wGranules + n.aGranules) + n.kBytes
  256 + 0xB000 * (n.teams * n.warps) + n.teams * (buf + buf / 64 * 2 + 1024)
def NodeEntry.privateBytes (l : Launch) : Nat := 64 * l.privBytes

def launchesOf (s : State) (tenant : Nat) : List Launch := s.launches.filter (·.tenant == tenant)
/-- Extents of a tenant's private pool in use, and of its save pool; offsets from the pool's base. -/
def privUses (s : State) (t : Tenant) : List (Nat × Nat) :=
  (launchesOf s t.num).flatMap fun l =>
    if l.privBytes = 0 then []
    else (s.warps.filter fun w => (gangOf s w.gang).any fun g => g.launch == l.uid).map fun w =>
      (w.stack.toNat - areaBase t.privBase, 64 * l.privBytes)
def saveUses (s : State) (t : Tenant) : List (Nat × Nat) :=
  (launchesOf s t.num).flatMap fun l =>
    (s.gangs.filter fun g => g.launch == l.uid && !g.cores.isEmpty).filterMap fun g =>
      (l.nodes[g.node]?).map fun n => (g.save.toNat - areaBase t.csaveBase, roundUp 4096 n.saveBytes)

/-- Starts of private memory for a number of warps. -/
def takeStacks (t : Tenant) (bytes : Nat) : Nat → List (Nat × Nat) → Option (List DWord)
  | 0, _ => some []
  | k + 1, us =>
    if bytes = 0 then (takeStacks t bytes k us).map ((0 : DWord) :: ·)
    else if !areaEnabled t.privBase then none
    else match lowestFree 16 us (areaBytes t.privSize) bytes with
      | none => none
      | some o => (takeStacks t bytes k ((o, bytes) :: us)).map (BitVec.ofNat 64 (areaBase t.privBase + o) :: ·)
def takeSave (s : State) (t : Tenant) (n : NodeEntry) : Option DWord :=
  if !areaEnabled t.csaveBase then none
  else (lowestFree 4096 (saveUses s t) (areaBytes t.csaveSize) n.saveBytes).map fun o =>
    BitVec.ofNat 64 (areaBase t.csaveBase + o)

/-! ## Placing a gang for the first time (01 R28, R31, R32; 05 R158, R167; 07 R207) -/

/-- What the fits give warp num of a team. -/
structure WarpPlace where
  core : Nat
  slot : Nat
  blocks : List (Nat × Nat)
  frames : List Nat
  deriving DecidableEq, Repr
def warpPlace (n : NodeEntry) (fits : List CoreFit) (team num : Nat) : WarpPlace :=
  let v := (n.cores[team]?).getD 0
  let i := n.warps * ((n.cores.take team).filter (· == v)).length + num
  match fits[v]? with
  | some f => { core := f.core, slot := (f.slots[i]?).getD 0, blocks := f.blocks.map fun b => (b[i]?).getD (0, 0),
                frames := f.frames.map fun b => (b[i]?).getD 0 }
  | none => { core := 0, slot := 0, blocks := [], frames := [] }

/-- The record of a thread, by the warp's position and the lane. -/
def recordAt (n : NodeEntry) (rs : List RecordRef) (pos l : Nat) : Option RecordRef :=
  if n.warpGrain then rs[pos]? else rs[64 * pos + l]?

def Rack.reset : Rack :=
  { init := false, base := 0, size := 0, count := 0, pcur := 0, ccur := 0, ahead := 0, pseq := 0, cseq := 0,
    slots := List.replicate 16 (.free, 0) }
def Point.reset : Point := { init := false, expected := 0, pending := 0, phase := 0 }
def Buffer.empty (limit : Nat) : Buffer := { limit, bytes := [], tags := [], poison := [] }
def newTeam (n : NodeEntry) (t : Nat) : Team :=
  { vcore := (n.cores[t]?).getD 0, w := Buffer.empty (4096 * n.wGranules), a := Buffer.empty (4096 * n.aGranules),
    racks := List.replicate n.racks Rack.reset, points := List.replicate n.points Point.reset }

/-- A warp as it is launched. -/
def newWarp (s : State) (l : Launch) (g : Gang) (n : NodeEntry) (fits : List CoreFit) (pos : Nat) (stack : DWord) : Warp :=
  let team := pos / n.warps
  let num := pos % n.warps
  let p := warpPlace n fits team num
  let rec_ := recordAt n g.records pos
  let free (i : Nat) : Nat := match rec_ i with
    | some r => if l.isGrid then g.index.toNat else r.index
    | none => 0
  let w : Warp :=
    { uid := s.nextId + pos, gang := g.uid, team, num, core := p.core, slot := p.slot,
      launched := maskOf fun i => (rec_ i).isSome,
      free := lanes64.map free
      record := lanes64.map fun i => ((rec_ i).map (·.addr)).getD 0
      depth := lanes64.map fun i => ((rec_ i).map (·.depth)).getD 0
      strands := [], kernel := none, gregs := List.replicate 64 (List.replicate 64 0), full := n.fullAtLaunch,
      sregs := l.sregs, seen := n.seenAtLaunch,
      tiles := clusters.flatMap fun c => List.replicate (n.tilesAt c) (c, [])
      tilePoison := []
      blocks := p.blocks, frames := p.frames, stack,
      tframe := g.save + BitVec.ofNat 64 (0x100 + 0xB000 * pos), formed := [], mode := .running,
      haltPending := (tenantOf s l.tenant).dbg.contains l.uid, preemptPending := false, preemptAt := 0, forced := false,
      traps := 0 }
  { w with strands := n.strands.map fun k => Strand.atLaunch k.1 k.2.1 k.2.2 (seedFor l w k.1) s.cycles }

/-- A gang's wait is over: the moves made during it count no more (05 R157). -/
def forgetMoves (s : State) (gang : Nat) : State :=
  { s with gangs := s.gangs.map fun g => { g with moved := g.moved.filter (· != gang) } }
/-- The gang placed where it fits; none where a pool has no room. A group's start is an acquire of its records at PKG scope: its cores
drop their leased copies (13 R369). -/
def placeGang (s : State) (l : Launch) (g : Gang) (n : NodeEntry) (fits : List CoreFit) : Option State := do
  let t := tenantOf s l.tenant
  let save ← takeSave s t n
  let nw := n.teams * n.warps
  let stackList ← takeStacks t (64 * l.privBytes) nw (privUses s t)
  let g := { g with phase := .placed, clearing := none, cores := fits.map (·.core), wBase := fits.map (·.wBase),
                    aBase := fits.map (·.aBase),
                    teams := (List.range n.teams).map (newTeam n), save }
  let ws := (List.range nw).zip stackList |>.map fun x => newWarp s l g n fits x.1 x.2
  let s := updGang (forgetMoves s g.uid) g.uid fun _ => g
  let s := { s with nextId := s.nextId + nw, warps := s.warps ++ ws }
  let s := g.cores.foldl dropLeases s
  some ((ws.map (·.uid)).foldl settleWarp s)

/-! ## Resuming a saved gang (01 R33; 07 R210) -/

/-- The gang placed again on other cores, with its state as saved; what a dead register reads afterwards was chosen at its save
(02 R54; log entry 53). -/
def resumeGang (s : State) (l : Launch) (g : Gang) (n : NodeEntry) (fits : List CoreFit) : State :=
  let die := match fits.head? with
    | some f => dieOfCore f.core
    | none => g.die
  let g := { g with phase := .placed, clearing := none, die, cores := fits.map (·.core), wBase := fits.map (·.wBase),
                    aBase := fits.map (·.aBase), compact := false }
  let s := updGang (forgetMoves s g.uid) g.uid fun _ => g
  let back (w : Warp) : Warp :=
    let p := warpPlace n fits w.team w.num
    { w with core := p.core, slot := p.slot, blocks := p.blocks, frames := p.frames,
             mode := (match w.mode with | .preempted => .running | m => m),
             preemptPending := false, forced := false,
             haltPending := w.haltPending ||
               ((tenantOf s l.tenant).dbg.contains l.uid && w.mode == .preempted) }
  let s := { s with warps := s.warps.map fun w => if w.gang = g.uid then back w else w }
  let s := crumb s l g 0 0 false die 0 0 5 0 die
  ((s.warps.filter (·.gang == g.uid)).map (·.uid)).foldl settleWarp s

/-- Whether its tenant's pools have room for a waiting gang (10 R288; 14 R390); a saved one keeps what it was allotted. -/
def poolsHold (s : State) (g : Gang) : Bool :=
  match g.phase, launchOf s g.launch, (launchOf s g.launch).bind fun l => l.nodes[g.node]? with
  | .queued _ _ true _, _, _ => true
  | _, some l, some n =>
    let t := tenantOf s l.tenant
    (takeSave s t n).isSome && (takeStacks t (64 * l.privBytes) (n.teams * n.warps) (privUses s t)).isSome
  | _, _, _ => false
/-- A waiting gang given a yard, new or saved, if it fits there. -/
def tryYard (s : State) (g : Gang) (yard : Nat) : Option State := do
  let l ← launchOf s g.launch
  let n ← l.nodes[g.node]?
  let fits ← fitYard s n yard
  match g.phase with
  | .queued _ _ true _ => some (resumeGang s l g n fits)
  | .queued _ _ false _ => placeGang s l g n fits
  | _ => none

/-! ## The placement queue (01 R34) -/

def capPriority (p : Nat) : Nat := min p 15
/-- The ageing period of a die in ns (14 R381). -/
def ageingPeriod (s : State) (die : Nat) : Nat := 1000 * max 1 (dieOf s die).ageper.toNat
/-- The place of a waiting gang in the order in which gangs are served. -/
def waitKey (g : Gang) : Nat :=
  match g.phase with
  | .queued _ ns saved eprio => ((15 - eprio) * 2 + (if saved then 0 else 1)) * 2 ^ 80 + ns
  | _ => 0
def Gang.precedes (a b : Gang) : Bool := decide (waitKey a < waitKey b) || (waitKey a == waitKey b && decide (a.uid < b.uid))
/-- Gangs that wait on a die, in that order. -/
def waitingGangs (s : State) (die : Nat) : List Gang :=
  sortBy waitKey (s.gangs.filter fun g => g.die == die && (match g.phase with | .queued _ _ _ _ => true | _ => false))
def dieYards (die : Nat) : List Nat := (List.range 21).map (21 * die + ·)
/-- A list from its n-th element round to it. -/
def rotate {α : Type} (n : Nat) (xs : List α) : List α := xs.drop (n % max 1 xs.length) ++ xs.take (n % max 1 xs.length)
/-- The yards that may take a waiting gang: those of its die, then for a saved gang those of the other dies (R33; log entry
54). -/
def yardsFor (g : Gang) : List Nat :=
  match g.phase with
  | .queued _ _ true _ => dieYards g.die ++ ([0, 1, 2, 3].filter (· != g.die)).flatMap dieYards
  | _ => dieYards g.die

/-- Gangs of a yard that a waiting gang may displace: placed, of lower launch priority. -/
def displaceable (s : State) (eprio yard : Nat) : List Gang :=
  s.gangs.filter fun g => g.phase == .placed && g.cores.any (fun c => yardOfCore c == yard) &&
    (match launchOf s g.launch with | some l => decide (l.priority < eprio) | none => false)
/-- Where a gang fits on a yard once those it may displace are gone, but for one that stays. -/
def clearedFit (s : State) (n : NodeEntry) (eprio yard stays : Nat) : Option (List CoreFit) :=
  let ds := (displaceable s eprio yard).filter (·.uid != stays)
  fitYard { s with gangs := s.gangs.filter fun g => !(ds.any fun d => d.uid == g.uid) } n yard
/-- Whether a gang of lower launch priority, placed on a yard as s' has it, takes the room that pre-emption makes there for
a waiting gang that is served before it (R34; so that of two that wait for one yard the first is never turned away, R35). One
that its tenant's pools keep out holds back no other. -/
def takesRoom (s s' : State) (g : Gang) (yard : Nat) : Bool :=
  s.gangs.any fun v => v.uid != g.uid && v.clearing == some yard && v.precedes g && poolsHold s v &&
    (match v.phase, launchOf s g.launch, (launchOf s v.launch).bind fun l => l.nodes[v.node]? with
     | .queued _ _ _ eprio, some l, some n =>
       decide (l.priority < eprio) && (clearedFit s n eprio yard 0).isSome && (clearedFit s' n eprio yard g.uid).isNone
     | _, _, _ => false)
/-- A waiting gang placed on a yard, if it fits there and takes no room that is made for another. -/
def tryPlace (s : State) (g : Gang) (yard : Nat) : Option State :=
  (tryYard s g yard).bind fun s' => if takesRoom s s' g yard then none else some s'
/-- The first waiting gang that fits a yard, placed; the search for a yard starts at a chosen one. -/
def placeOne (s : State) (die choice : Nat) : Option State :=
  (waitingGangs s die).findSome? fun g => (rotate choice (dieYards die) ++ (yardsFor g).drop 21).findSome? (tryPlace s g)

/-! ## Pre-emption requests (15 R415 to R417) -/

/-- A request to a gang: its warps stop at safe points; the 20 µs of a warp in its trap kernel start when it leaves it. -/
def requestPreempt (s : State) (gang : Nat) (forced : Bool) : State :=
  match gangOf s gang with
  | some g =>
    (match g.phase with
     | .placed =>
       { s with warps := s.warps.map fun w =>
           if w.gang = gang then { w with preemptPending := true, forced := w.forced || forced,
                                          preemptAt := if w.preemptPending then w.preemptAt else s.ns } else w }
     | _ => s)
  | none => s

end Sys2Proof.Machine
end

