-- ==== Sys2Proof/Machine/Coherence.lean ====
section
/-! DEFINITION. Events at the home slices, the range table and protocol slots (spec/12_protocols.md R322 to R352;
spec/11_ordering.md R305 to R307). -/

namespace Sys2Proof.Machine

/-! ## Accesses of cores (R331) -/

/-- An event of a core's access; a unit of the part is no core. -/
def coreEvent (s : State) (ev core op : Nat) : HomeEvent :=
  { ev, core := if core = unitCore then none else some core, op, since := s.ns, req := none }

/-- RD: a miss of a core's L1. -/
def execRd (core line : Nat) (s : State) : Out := .next (settle (fetchLine s core 0 line evRD false).1)
/-- AQ: a read at a point of coherence. -/
def execAq (core line : Nat) (s : State) : Out := .next (settle (fetchLine s core 0 line evAQ true).1)

/-- The range whose bound sync word bytes of memory meet (11 R307). -/
def boundSync (s : State) (pa n : Nat) : Option RangeEntry :=
  match s.part.rangeOf pa with
  | some (_, r) => if r.bound && overlaps pa n r.sync 8 then some r else none
  | none => none

/-- REDUCE: the update copies that a core holds of a range return to their homes. -/
def returnCopies (s : State) (core : Nat) (r : RangeEntry) : State :=
  let mine (c : L1Copy) : Bool := c.core == core && isUpdate c.kind && r.covers (lineBase c.line)
  (s.l1.filter mine).foldl returnCopy s
/-- HALO: RL for each strip line whose writers include the core. -/
def pushStrips (s : State) (core : Nat) (r : RangeEntry) : State :=
  (s.homes.filter fun x => r.covers (lineBase x.1) && x.2.writers.contains core).foldl
    (fun s x => (dispatch s x.1 (coreEvent s evRL core 0)).1) s
/-- What comes before the store of a REL of a bound sync word. -/
def beforeSync (s : State) (core : Nat) (r : RangeEntry) : State :=
  if r.proto = 3 then returnCopies s core r else if r.proto = 5 then pushStrips s core r else s

/-- Whether an older store of the core waits for the same location: the same bytes, or a line and its tag (03 R122); or an older
crumb of the tenant, at its home or outside the part, since crumbs are written in sequence order (16 R429). -/
def behindPending (s : State) (p : Pending) : Bool :=
  let crumbs : Bool := match p.writer with
    | .crumb _ => true
    | _ => false
  (crumbs && s.posted.any fun x => x.writer == p.writer && decide (x.id < p.op)) ||
  (s.pend.takeWhile (·.id != p.id)).any fun q => (q.core == p.core && q.line == p.line &&
    (q.window != p.window || overlaps q.pa q.bytes.length p.pa p.bytes.length)) || (crumbs && q.writer == p.writer)

/-- A pending store's event at its home; a copy that a streaming store brings to the L1 is marked. -/
def storeEvent (s : State) (ev : Nat) (p : Pending) : State :=
  let had := (copyOf s p.core p.line).isSome
  let s := (homeAccess s p.line (coreEvent s ev p.core p.id)).1
  if p.stream && !had then markStream s p.core p.line else s
/-- A store of a core reaches its home, or the line its core holds. -/
def sendPending (s : State) (p : Pending) : State :=
  let line := p.line
  if behindPending s p || changing s line then s
  else
    match (if p.rel && !p.window then boundSync s p.pa p.bytes.length else none) with
    | some r =>
      if waitsAt s line evRL p.id then s
      else
        let s := beforeSync s p.core r
        if holdsLine s p.core line then performStore s p.id
        else storeEvent s evRL p
    | none =>
      if holdsLine s p.core line then performStore s p.id
      else if waitsAt s line evWR p.id then s
      else storeEvent s evWR p

/-- The writes of the part's units, which go on to their homes at once. -/
def isUnitWrite (p : Pending) : Bool := match p.writer with
  | .strand => false
  | .copy => false
  | _ => true
def drainUnits (s : State) : State :=
  let out := s.pend.filter isUnitWrite
  if out.isEmpty then s else settle (out.foldl sendPending s)

/-- WR: a store reaches its home. -/
def execWr (entry : Nat) (s : State) : Out :=
  match s.pend.find? (·.id == entry) with
  | some p => .next (settle (sendPending s p))
  | none => .next s
/-- RL: a releasing store to a bound sync word reaches its home; where the core has none, its strip line is pushed. -/
def execRl (core line : Nat) (s : State) : Out :=
  match s.pend.find? fun p => p.core == core && p.rel && !p.window && lineOf p.pa == line with
  | some p => .next (settle (sendPending s p))
  | none => .next (settle (homeAccess s line (coreEvent s evRL core 0)).1)

def atomicOf (s : State) (op : Nat) (ret : Bool) : Option Op :=
  match opOf s op with
  | some o => (match o.body with
    | .atomic _ returns _ => if returns = ret then some o else none
    | _ => none)
  | none => none
/-- AT and RE: an atomic's line reaches its home. -/
def execAt (op : Nat) (s : State) : Out :=
  match atomicOf s op true with
  | some o => .next (settle (atomLine s o))
  | none => .next s
def execRe (op : Nat) (s : State) : Out :=
  match atomicOf s op false with
  | some o => .next (settle (atomLine s o))
  | none => .next s

/-! ## Horizons, timeouts, eviction and pins (R327, R329, R333; 11 R306) -/

/-- LX: a horizon passes. -/
def execLx (line : Nat) (s : State) : Out :=
  if horizonPassed s line then .next (settle (expire s line evLX)) else .next s
/-- TO: a held event has waited for its time. -/
def execTo (line : Nat) (s : State) : Out :=
  if timeUp (homeOf s line) s.ns then .next (settle (expire s line evTO)) else .next s

def pinned (s : State) (line : Nat) : Bool := s.l1.any fun c => c.line == line && isPin c.kind
/-- Whether a line holds part of a live on-chip record, which is never evicted (13 R360). -/
def onChipLine (s : State) (line : Nat) : Bool :=
  s.tenants.any fun t => (cellUses s t.num).any fun u => u.onChip &&
    (countFrom u.first u.count).any fun cell =>
      match translateFresh s t.num (cellAddr t cell).toNat with
      | .ok e => (match placeOf e.leaf e.bits (cellAddr t cell).toNat with
          | some (.mem pa) => lineOf pa == line
          | _ => false)
      | .error _ => false
/-- Whether a line may be evicted. -/
def evictable (s : State) (line : Nat) : Bool :=
  let h := homeOf s line
  h.held.isEmpty && !pinned s line &&
  (h.horizon.isNone || horizonPassed s line || s.part.sealedAt (lineBase line)) && !onChipLine s line
/-- EV: a slice evicts a line. -/
def execEv (line : Nat) (s : State) : Out :=
  if evictable s line then .next (settle (dispatch s line (partEvent s evEV)).1) else .next s

/-- PN: a strand's core asks for a pin. -/
def execPn (warp strand line : Nat) (s : State) : Out :=
  match coreOfWarp s warp with
  | some core =>
    if hasPin s core line || changing s line then .next s
    else .next (settle (askPin s { warp, no := strand } core line))
  | none => .next s
/-- UN: a pin is published. -/
def execUn (line : Nat) (s : State) : Out :=
  if pinned s line then .next (settle (publishPin s line)) else .next s
/-- Cycles for which a pin may be held (11 R306). -/
def pinCycles : Nat := 4096
/-- A pin's 4,096 cycles have passed. -/
def execPinTimeout (core line : Nat) (s : State) : Out :=
  match copyOf s core line with
  | some (.pin _ since _ _) => if since + pinCycles ≤ s.cycles then .next (settle (publishPin s line)) else .next s
  | _ => .next s

/-! ## Peers and the host at the home (R331, R352) -/

/-- The event of a request: reads as RR, AQ or HS; a release of a bound sync word as RL; the host's writes and atomics as
those of a core. -/
def requestEvent (s : State) (r : PeerRequest) : Nat :=
  let host := fromHost r
  match r.kind with
  | .read => if host then evHS else evRR
  | .acquire => if host then evHS else evAQ
  | .copyData => if host then evWR else evRW
  | .atomic => if host then evAT else evRW
  | .release => if host then evWR else if (boundSync s r.addr.toNat r.size).isSome then evRL else evRW
  | .write => if host then evWR else evRW
  | .reduce => if host then evRE else evRW
/-- The part of a request that falls on one line. -/
def requestPiece (r : PeerRequest) (at_ n : Nat) : PeerRequest :=
  { r with addr := BitVec.ofNat 64 at_, size := n, data := (r.data.drop (at_ - r.addr.toNat)).take n }
/-- A read or write that covers several lines, as one request for each (17 R438; log entry 72). -/
def requestLines (r : PeerRequest) : List PeerRequest :=
  match r.kind with
  | .atomic => [r]
  | .reduce => [r]
  | _ => if r.size ≤ 64 - r.addr.toNat % 64 then [r] else (spansOf r.addr.toNat r.size).map fun x => requestPiece r x.1 x.2
/-- A request within one line dispatched at its home; one that is refused there is sent again. -/
def dispatchLine (s : State) (r : PeerRequest) : State :=
  let e : HomeEvent := { ev := requestEvent s r, core := none, op := 0, since := s.ns, req := some r }
  match homeAccess s (lineOf r.addr.toNat) e with
  | (s, .retry) => refuse s (lineOf r.addr.toNat) e
  | (s, _) => s
/-- A request dispatched at the home of each of its lines, and answered by each. -/
def dispatchRequest (s : State) (r : PeerRequest) : State := (requestLines r).foldl dispatchLine s
/-- The refused requests sent again. -/
def sendRetries (s : State) : State :=
  settle (s.again.foldl (fun s x => drainLine s x.1 x.2) (s.retries.foldl dispatchRequest { s with retries := [], again := [] }))
/-- A host read of a whole line. -/
def hostRead (line : Nat) : PeerRequest :=
  { src := 0x200, tenant := 0, kind := .read, addr := BitVec.ofNat 64 (lineBase line), size := 64, data := [], op := 0,
    ty := 0, hm := 0, tag := 0, poison := false, name := noName, seq := 0 }

/-! ## The range table (R322 to R326, R349) -/

def validEntry (p : Part) (i : Nat) : Option RangeEntry := (p.ranges.find? (·.1 == i)).map (·.2)
/-- Valid entries that a tenant holds. -/
def usedEntries (p : Part) (t : Nat) : Nat := (p.ranges.filter fun e => e.2.tenant == t).length

def tileLines (r : RangeEntry) : Nat := field r.q3 55 32
def pitchLines (r : RangeEntry) : Nat := field r.q3 31 16
/-- R343's geometry. -/
def haloValid (r : RangeEntry) : Bool :=
  let lines := (r.limit + 1 - r.base) * 1024
  decide (1 ≤ pitchLines r) && decide (1 ≤ tileLines r) && tileLines r % pitchLines r == 0 && lines % tileLines r == 0

/-- A reserved field that is not 0 (R323, R326), result code 0x02; a quadword 0x18 that is not 0 with a protocol other than 5 counts as
one (DESIGN CHOICE, log entry 80). -/
def reservedSet (r : RangeEntry) : Bool :=
  field r.q0 62 60 != 0 || field r.q0 55 54 != 0 || r.q0.getLsbD 47 || r.q0.getLsbD 23 ||
  field r.q1 46 18 != 0 || field r.q2 63 52 != 0 || field r.q2 2 0 != 0 || field r.q3 63 56 != 0 || field r.q3 15 2 != 0 ||
  (r.proto != 5 && r.q3 != 0)

/-- The windows of a tenant that are enabled, local and writable: first and last granule. -/
def localWindows (t : Tenant) : List (Nat × Nat) :=
  (t.windows.filter fun w => w.1.getLsbD 63 && field w.1 62 61 == 0 && w.2.getLsbD 0).map fun w =>
    (field w.1 51 16, field w.2 51 16)
/-- Whether granules from a to b all lie in such windows. -/
def granulesCovered (ws : List (Nat × Nat)) : Nat → Nat → Nat → Bool
  | 0, _, _ => false
  | fuel + 1, a, b =>
    if b < a then true
    else match ws.find? fun w => decide (w.1 ≤ a) && decide (a ≤ w.2) with
      | some w => granulesCovered ws fuel (w.2 + 1) b
      | none => false

/-- The code of a write of an entry (R326), the first check that fails. -/
def rangeCode (s : State) (i : Nat) (r : RangeEntry) : Nat :=
  let p := s.part
  let others := p.ranges.filter (·.1 != i)
  let t := r.tenant
  let mine := (others.filter fun e => e.2.tenant == t).length
  if reservedSet r || decide (r.limit < r.base) || decide (65536 < field r.q1 16 0) then 0x02
  else if r.proto == 7 || (decide (8 ≤ r.proto) && !(p.protos.any (·.1 == r.proto))) then 0x03
  else if others.any fun e => decide (e.2.base ≤ r.limit) && decide (r.base ≤ e.2.limit) then 0x04
  else if r.valid && decide (tget 0 p.quotas t < mine + 1) then 0x05
  else if r.bound && !(r.covers r.sync) then 0x06
  else if r.proto == 5 && !haloValid r then 0x07
  else if !granulesCovered (localWindows (tenantOf s t)) 18 r.base r.limit then 0x08
  else 0

/-- The staged entry, not sealed. -/
def stagedEntry (p : Part) : RangeEntry :=
  let q (i : Nat) : DWord := (p.staging[i]?).getD 0
  { q0 := q 0, q1 := q 1 &&& ~~~(1#64 <<< 47), q2 := q 2, q3 := q 3 }
def setRtcode (s : State) (c : Nat) : State := { s with part := { s.part with rtcode := c } }

/-- RTCMD op 0: the staged entry checked, and the change begun. An entry staged with V = 0 leaves its index invalid. -/
def execRangeWrite (index : BitVec 10) (s : State) : Out :=
  if s.part.change.isSome then .next s
  else
    let i := index.toNat
    let r := stagedEntry s.part
    let c := rangeCode s i r
    if c = 0 then .next { s with part := { s.part with rtcode := 0, change := some (i, if r.valid then some r else none) } }
    else .next (setRtcode s c)
/-- RTCMD op 1: the entry read into staging; one that is not valid reads as zeros. -/
def execRangeRead (index : BitVec 10) (s : State) : Out :=
  if s.part.change.isSome then .next s
  else
    let st := match validEntry s.part index.toNat with
      | some r => [r.q0, r.q1, r.q2, r.q3]
      | none => [0, 0, 0, 0]
    .next (setRtcode { s with part := { s.part with staging := st } } 0)
/-- RTCMD op 2. -/
def execRangeInvalidate (index : BitVec 10) (s : State) : Out :=
  if s.part.change.isSome then .next s
  else match validEntry s.part index.toNat with
    | some _ => .next { s with part := { s.part with rtcode := 0, change := some (index.toNat, none) } }
    | none => .next (setRtcode s 0)

/-- Ascending insertion of an entry, or its removal. -/
def putEntry (i : Nat) (r : Option RangeEntry) : List (Nat × RangeEntry) → List (Nat × RangeEntry)
  | [] => (match r with | some r => [(i, r)] | none => [])
  | (k, x) :: t =>
    if i < k then (match r with | some r => (i, r) :: (k, x) :: t | none => (k, x) :: t)
    else if i = k then (match r with | some r => (i, r) :: t | none => t)
    else (k, x) :: putEntry i r t

/-- The lines of a change's extents that are not at rest. -/
def changedLines (s : State) : List Nat := (s.homes.map (·.1)).filter (rangeChanging s)
/-- Steps 1 and 2: cores drop their copies of the entry, an owner its line (R334); pins are published. -/
def beginChange (s : State) (i : Nat) : State :=
  let s := dropEntries s (· == i)
  let s := (s.l1.filter fun c => rangeChanging s c.line && c.kind == .own).foldl returnCopy s
  publishPins s fun c => rangeChanging s c.line
/-- Step 4, and the infinite leases of step 5: EV for every line not in I. -/
def evictChanged (s : State) : State :=
  let s := (changedLines s).foldl (fun s line =>
    if (homeOf s line).state = 0 then s else (dispatch s line (partEvent s evEV)).1) s
  { s with l1 := s.l1.filter fun c => !(rangeChanging s c.line && c.kind == .lease .never) }
def horizonAhead (s : State) (line : Nat) : Bool := match (homeOf s line).horizon with
  | some (.at t) => decide (s.ns < t)
  | _ => false
/-- R349, steps 1 to 6, as far as they can go now. -/
def execRangeChangeComplete (s : State) : Out :=
  match s.part.change with
  | none => .next s
  | some (i, r) =>
    let s := beginChange s i
    if (changedLines s).any fun line => !(homeOf s line).held.isEmpty then .next (settle s)
    else
      let s := evictChanged s
      if (changedLines s).any (horizonAhead s) then .next (settle s)
      else
        let next : Option (Nat × Option RangeEntry) := (s.part.leaving.head?).map fun j => (j, none)
        .next (settle { s with part := { s.part with
            ranges := putEntry i r s.part.ranges, rtcode := 0, change := next, leaving := s.part.leaving.drop 1 } })

/-- A quota above 1,024, or one that makes the sum exceed 1,024, is ignored (R325). -/
def execRquotaWrite (tenant : Nat) (value : DWord) (s : State) : Out :=
  let q := field value 10 0
  let qs := tput 0 s.part.quotas tenant q
  if 1024 < q ∨ 1024 < (qs.map (·.2)).foldl (· + ·) 0 ∨ 64 ≤ tenant then .next s
  else .next { s with part := { s.part with quotas := qs } }

/-! ## Loading a protocol (R346 to R348) -/

/-- A loaded table: state s's words stand from 16 s. -/
abbrev ProtoTable := List Word
def tword (t : ProtoTable) (st e : Nat) : Word := (t[16 * st + e]?).getD 0xFFFFFFFF#32
def present (t : ProtoTable) (st : Nat) : Bool := (List.range 16).any fun e => tword t st e != 0xFFFFFFFF#32
/-- States and events in the order of the checks. -/
def wordPlaces : List (Nat × Nat) := (List.range 16).flatMap fun st => (List.range 16).map fun e => (st, e)

/-- Columns that R347 leaves out. -/
def skipsColumn (e : Nat) : Bool := e == evEV || e == evLX || e == evTO
/-- The least set of states that seed names, closed under the words of its own states that carry passes. -/
def stateSet (t : ProtoTable) (seed carry : Word → Bool) : Nat → List Nat → List Nat
  | 0, l => l
  | fuel + 1, l =>
    let named := wordPlaces.filterMap fun (st, e) =>
      let w := tword t st e
      if present t st && !skipsColumn e && (seed w || (l.contains st && carry w)) then some (wordNext w) else none
    stateSet t seed carry fuel (List.eraseDups (l ++ named))
def leaseStates (t : ProtoTable) : List Nat := stateSet t (wordHas · bitGL) (fun w => !wordHas w bitWT) 16 []
def updateStates (t : ProtoTable) : List Nat := stateSet t (wordHas · bitUP) (fun w => !wordHas w bitRC) 16 []

/-- The action bits of a word. -/
def actionBits (w : Word) : Nat := field w 27 13
/-- The words that a check rejects, by code. -/
def wordBad (t : ProtoTable) (code st e : Nat) : Bool :=
  let w := tword t st e
  let has (b : Nat) : Bool := wordHas w b
  match code with
  | 0x10 =>
    (has bitWT && actionBits w != 2 ^ (bitWT - 13)) || (has bitER && actionBits w != 2 ^ (bitER - 13)) ||
    (wordTsel w != 0 && !has bitWT) || (wordEcode w != 0 && (!has bitER || decide (1 < wordEcode w))) ||
    (wordOpmask w != 0 && !has bitUP)
  | 0x11 => !present t (wordNext w)
  | 0x12 => e == evEV && wordNext w != 0
  | 0x13 =>
    (has bitWD || has bitOW || has bitPG) &&
    ((leaseStates t).contains st || ((updateStates t).contains st && !has bitRC))
  | 0x14 => has bitWT && wordHas (tword t (wordNext w) evTO) bitWT
  | 0x15 => has bitUP && (wordOpmask w == 0 || (wordOpmask w).testBit 5)
  | _ =>
    (has bitUP && e != evRE) || (has bitPG && e != evPN) || (has bitPH && e != evRL) ||
    (has bitWT && (e == evLX || e == evTO || e == evEV)) ||
    (e == evHS && (has bitGL || has bitGP || has bitOW || has bitPG || has bitUP)) ||
    ((e == evRR || e == evRW) && (has bitGP || has bitOW || has bitPG || has bitUP))

/-- The first failing check, with its state and event (R348). -/
def tableFault (t : ProtoTable) : Option (Nat × Nat × Nat) :=
  [0x10, 0x11, 0x12, 0x13, 0x14, 0x15, 0x16].findSome? fun code =>
    if code = 0x11 && !present t 0 then some (0x11, 0, 0)
    else (wordPlaces.find? fun (st, e) => present t st && wordBad t code st e).map fun x => (code, x.1, x.2)

def setPtstat (s : State) (code st e : Nat) : State :=
  { s with part := { s.part with ptcode := code, ptstate := st, ptevent := e } }
/-- Ascending insertion of an accepted table. -/
def putTable (slot : Nat) (t : ProtoTable) : List (Nat × ProtoTable) → List (Nat × ProtoTable)
  | [] => [(slot, t)]
  | (k, x) :: r => if slot < k then (slot, t) :: (k, x) :: r else if slot = k then (slot, t) :: r else (k, x) :: putTable slot t r

/-- PTCMD: a table read, checked and installed. -/
def execProtocolLoad (src : BitVec 42) (slot : BitVec 4) (s : State) : Out :=
  let n := slot.toNat
  let pa := src.toNat * 1024
  if n < 8 then .next (setPtstat s 0x01 0 0)
  else if s.part.ranges.any fun e => e.2.proto == n then .next (setPtstat s 0x02 0 0)
  else if memSize < pa + 1024 ∨ (List.range 16).any (fun i => s.mem.poisoned (lineOf pa + i)) then
    .next (setPtstat s 0x03 0 0)
  else
    let t : ProtoTable := (List.range 256).map fun i => BitVec.ofNat 32 (leNat (s.mem.read (pa + 4 * i) 4))
    match tableFault t with
    | some (c, st, e) => .next (setPtstat s c st e)
    | none =>
      let s := setPtstat s 0 0 0
      .next { s with part := { s.part with protos := putTable n t s.part.protos } }

end Sys2Proof.Machine
end

