-- ==== Sys2Proof/Machine/IntArith.lean ====
section
/-! DEFINITION. Integer and bit instructions (spec/06_slot_arith.md R176 to R184). -/

namespace Sys2Proof.Machine

/-! ## Two operands (R177): d, a and b are the destination's old value, the slot and the register -/

def execIaddShort (f : S16) (s : State) : Out := shortOp (.iaddShort f) f s fun _ a b => a + b
def execIadd (f : LR) (s : State) : Out := longOp (.iadd f) f s fun _ a b => a + b
def execIsubShort (f : S16) (s : State) : Out := shortOp (.isubShort f) f s fun _ a b => a - b
def execIsub (f : LR) (s : State) : Out := longOp (.isub f) f s fun _ a b => a - b
def execImulShort (f : S16) (s : State) : Out := shortOp (.imulShort f) f s fun _ a b => a * b
def execImul (f : LR) (s : State) : Out := longOp (.imul f) f s fun _ a b => a * b
def execImadShort (f : S16) (s : State) : Out := shortOp (.imadShort f) f s fun d a b => d + a * b
def execImad (f : LR) (s : State) : Out := longOp (.imad f) f s fun d a b => d + a * b
def execAndShort (f : S16) (s : State) : Out := shortOp (.andShort f) f s fun _ a b => a &&& b
def execAnd (f : LR) (s : State) : Out := longOp (.and f) f s fun _ a b => a &&& b
def execOrShort (f : S16) (s : State) : Out := shortOp (.orShort f) f s fun _ a b => a ||| b
def execOr (f : LR) (s : State) : Out := longOp (.or f) f s fun _ a b => a ||| b
def execXorShort (f : S16) (s : State) : Out := shortOp (.xorShort f) f s fun _ a b => a ^^^ b
def execXor (f : LR) (s : State) : Out := longOp (.xor f) f s fun _ a b => a ^^^ b
def execAndn (f : LR) (s : State) : Out := longOp (.andn f) f s fun _ a b => a &&& ~~~b

/-- Signedness bit of an LR form: 1 is unsigned (R56). -/
def lrUnsigned (f : LR) : Bool := f.m.getLsbD 0
/-- A value widened to 64 bits by its signedness. -/
def widen (unsigned : Bool) (a : Word) : DWord := if unsigned then a.setWidth 64 else a.signExtend 64
def execImulh (f : LR) (s : State) : Out :=
  longOp (.imulh f) f s fun _ a b => (widen (lrUnsigned f) a * widen (lrUnsigned f) b).hi

/-- The lesser of two values, and the greater. -/
def intMin (unsigned : Bool) (a b : Word) : Word := if (if unsigned then b.ult a else b.slt a) then b else a
def intMax (unsigned : Bool) (a b : Word) : Word := if (if unsigned then a.ult b else a.slt b) then b else a
def execIminShort (f : S16) (s : State) : Out := shortOp (.iminShort f) f s fun _ a b => intMin false a b
def execImin (f : LR) (s : State) : Out := longOp (.imin f) f s fun _ a b => intMin (lrUnsigned f) a b
def execImaxShort (f : S16) (s : State) : Out := shortOp (.imaxShort f) f s fun _ a b => intMax false a b
def execImax (f : LR) (s : State) : Out := longOp (.imax f) f s fun _ a b => intMax (lrUnsigned f) a b

/-! ## Shifts (R178): amounts from the low six bits do not wrap at 32 -/

def shiftLeft (a b : Word) : Word := a <<< (b.toNat % 64)
def shiftRight (a b : Word) : Word := a >>> (b.toNat % 64)
def shiftArith (a b : Word) : Word := a.sshiftRight (b.toNat % 64)
def execShlShort (f : S16) (s : State) : Out := shortOp (.shlShort f) f s fun _ => shiftLeft
def execShl (f : LR) (s : State) : Out := longOp (.shl f) f s fun _ => shiftLeft
def execShrShort (f : S16) (s : State) : Out := shortOp (.shrShort f) f s fun _ => shiftRight
def execShr (f : LR) (s : State) : Out := longOp (.shr f) f s fun _ => shiftRight
def execSarShort (f : S16) (s : State) : Out := shortOp (.sarShort f) f s fun _ => shiftArith
def execSar (f : LR) (s : State) : Out := longOp (.sar f) f s fun _ => shiftArith
def execRotl (f : LR) (s : State) : Out := longOp (.rotl f) f s fun _ a b => a.rotateLeft (b.toNat % 32)

/-- An S16 form on slot a and its six-bit field. -/
def shortImmOp (i : Instr) (f : S16) (s : State) (op : Word → Word) : Out :=
  withStrand i none s fun c => (c.setSlot f.d.toNat fun l => op (c.slot f.a.toNat l)).retire
def execShli (f : S16) (s : State) : Out := shortImmOp (.shli f) f s fun a => a <<< f.g.toNat
def execShri (f : S16) (s : State) : Out := shortImmOp (.shri f) f s fun a => a >>> f.g.toNat

/-! ## Immediates (R179) -/

def execIaddiShort (f : S16) (s : State) : Out := shortImmOp (.iaddiShort f) f s fun a => a + shortImm f
def execIaddi (f : LI) (s : State) : Out := immOp (.iaddi f) f s fun a => a + liSext f
def execAndi (f : LI) (s : State) : Out := immOp (.andi f) f s fun a => a &&& liZext f
def execOri (f : LI) (s : State) : Out := immOp (.ori f) f s fun a => a ||| liZext f
def execXori (f : LI) (s : State) : Out := immOp (.xori f) f s fun a => a ^^^ liZext f
def execImuli (f : LI) (s : State) : Out := immOp (.imuli f) f s fun a => a * liSext f

/-! ## Uniform operands (R180) -/

def execIaddsShort (f : S16) (s : State) : Out :=
  withShortU (.iaddsShort f) f s fun c =>
    (c.setSlot f.d.toNat fun l => c.slot f.a.toNat l + c.sReg (f.g.toNat % 32)).retire
def execIadds (f : LS) (s : State) : Out :=
  withLS (.iadds f) f false s fun c =>
    (c.setSlot f.d.toNat fun l => c.slot f.a.toNat l + c.sReg f.u.toNat).retire
def execImas (f : LS) (s : State) : Out :=
  withLS (.imas f) f true s fun c =>
    (c.setSlot f.d.toNat fun l => c.slot f.a.toNat l * c.gLane f.g.toNat l + c.sReg f.u.toNat).retire

/-! ## 64 bits (R181) -/

def execImul64w (f : LR) (s : State) : Out :=
  withLR (.imul64w f) f s fun c g =>
    (c.setPair f.d.toNat fun l => widen (lrUnsigned f) (c.slot f.a.toNat l) * widen (lrUnsigned f) (g l)).retire
def execIadd64 (f : LR) (s : State) : Out :=
  withLRPair (.iadd64 f) f s fun c g => (c.setPair f.d.toNat fun l => c.pair f.a.toNat l + g l).retire
def execIsub64 (f : LR) (s : State) : Out :=
  withLRPair (.isub64 f) f s fun c g => (c.setPair f.d.toNat fun l => c.pair f.a.toNat l - g l).retire

/-! ## One operand (R182) -/

/-- Number of 1 bits among the first n. -/
def onesBelow (a : Word) : Nat → Nat
  | 0 => 0
  | n + 1 => onesBelow a n + if a.getLsbD n then 1 else 0
/-- Number of 0 bits above the highest 1 among the first n. -/
def zerosAbove (a : Word) : Nat → Nat
  | 0 => 0
  | n + 1 => if a.getLsbD n then 0 else zerosAbove a n + 1
def execIabs (f : LR) (s : State) : Out :=
  unaryOp (.iabs f) f s fun a => if !lrUnsigned f && a.msb then -a else a
def execIneg (f : LR) (s : State) : Out := unaryOp (.ineg f) f s fun a => 0 - a
def execPopc (f : LR) (s : State) : Out := unaryOp (.popc f) f s fun a => BitVec.ofNat 32 (onesBelow a 32)
def execClz (f : LR) (s : State) : Out := unaryOp (.clz f) f s fun a => BitVec.ofNat 32 (zerosAbove a 32)
def execBrev (f : LR) (s : State) : Out := unaryOp (.brev f) f s fun a => a.reverse

/-! ## Bit fields (R183) -/

/-- Position and length used. -/
def bitField (b : Word) : Nat × Nat := (field b 4 0, min (field b 13 8) (32 - field b 4 0))
def bitExtract (unsigned : Bool) (a b : Word) : Word :=
  let (p, w) := bitField b
  let v := a.toNat / 2 ^ p % 2 ^ w
  if w = 0 then 0
  else if !unsigned && 2 ^ (w - 1) ≤ v then BitVec.ofNat 32 (v + 2 ^ 32 - 2 ^ w) else BitVec.ofNat 32 v
def bitInsert (d a b : Word) : Word :=
  let (p, w) := bitField b
  let m : Word := BitVec.ofNat 32 ((2 ^ w - 1) * 2 ^ p)
  (d &&& ~~~m) ||| ((a <<< p) &&& m)
def execBfx (f : LR) (s : State) : Out := longOp (.bfx f) f s fun _ a b => bitExtract (lrUnsigned f) a b
def execBfi (f : LR) (s : State) : Out := longOp (.bfi f) f s bitInsert

/-! ## Division traps on every HN-7 part (R184) -/

def execIdiv (f : LR) (s : State) : Out := withLR0 (.idiv f) f s fun c => c.decodeTrap causeILLEGAL 1
def execIrem (f : LR) (s : State) : Out := withLR0 (.irem f) f s fun c => c.decodeTrap causeILLEGAL 1

end Sys2Proof.Machine
end

