-- ==== Sys2Proof/Machine/ConvertLane.lean ====
section
/-! DEFINITION. Conversions and the instructions across lanes (spec/06_slot_arith.md R195 to R203). -/

namespace Sys2Proof.Machine

/-! ## Type codes (R61) -/

/-- Width and signedness of an integer type code. -/
def intType (t : Nat) : Nat × Bool :=
  match t with
  | 0 => (32, true)
  | 1 => (32, false)
  | 2 => (64, true)
  | 3 => (64, false)
  | 4 => (16, true)
  | 5 => (16, false)
  | 6 => (8, true)
  | _ => (8, false)
def intLow (t : Nat × Bool) : Int := if t.2 then -(2 ^ (t.1 - 1) : Int) else 0
def intHigh (t : Nat × Bool) : Int := if t.2 then 2 ^ (t.1 - 1) - 1 else 2 ^ t.1 - 1
/-- A number read as an integer of a type from its low bits. -/
def intOf (t : Nat × Bool) (v : Nat) : Int :=
  let v := v % 2 ^ t.1
  if t.2 ∧ 2 ^ (t.1 - 1) ≤ v then (v : Int) - 2 ^ t.1 else v
/-- A floating-point type code. -/
def fpType (t : Nat) : Fmt :=
  match t with
  | 0 => fp32
  | 1 => fp16
  | _ => bf16
/-- A value in the low bits of a slot. -/
def fpLow (fm : Fmt) (w : Word) : Val := fm.unpack (w.toNat % 2 ^ (1 + fm.eb + fm.mb))
/-- An integer as an exact result. -/
def Exact.ofInt (i : Int) : Exact := if i = 0 then .zero false else .real (decide (i < 0)) (.dyadic i.natAbs 0)

/-! ## Conversions -/

/-- R195. -/
def execCvti (f : LR) (s : State) : Out :=
  withLR0 (.cvti f) f s fun c =>
    let t := intType (field f.g 2 0)
    let rm := c.rounding (lrRound f)
    let fm := fpType (field f.g 5 3)
    let conv (l : Nat) (us : List Nat) : Nat × Flags :=
      let (q, fl) := (fpLow fm (c.slot f.a.toNat l)).toInt rm ((us[0]?).getD 0) (intLow t) (intHigh t)
      ((BitVec.ofInt 64 q).toNat, fl)
    c.fpFrame rm 1 conv (if t.1 = 64 then writePair f.d.toNat else writeWord f.d.toNat)

/-- R196: an integer of a type, from slot or pair a, to a floating-point type in slot d. -/
def Ctx.toFloat (c : Ctx) (rm : Rm) (t : Nat × Bool) (fm : Fmt) (d a : Nat) : Out :=
  let src (l : Nat) : Int := intOf t (if t.1 = 64 then (c.pair a l).toNat else (c.slot a l).toNat)
  c.fpFrame rm 1 (fun l us => fm.result rm ((us[0]?).getD 0) false (.ofInt (src l))) (writeWord d)
def execCvtf (f : LR) (s : State) : Out :=
  withLR0 (.cvtf f) f s fun c =>
    c.toFloat (c.rounding (lrRound f)) (intType (field f.g 2 0)) (fpType (field f.g 5 3)) f.d.toNat f.a.toNat
def execCvtfF32I32 (f : S16) (s : State) : Out :=
  withStrand (.cvtfF32I32 f) none s fun c => c.toFloat (c.rounding 0) (32, true) fp32 f.d.toNat f.a.toNat

/-- R197: the slot gives the low half, the destination the high half. -/
def execPack2 (f : LR) (s : State) : Out :=
  withLR0 (.pack2 f) f s fun c =>
    c.packedOp (if f.g.getLsbD 0 then bf16 else fp16) (c.rounding (lrRound f)) f.d.toNat fun l h =>
      .ofVal (fpLow fp32 (if h = 0 then c.slot f.a.toNat l else c.slot f.d.toNat l))

/-- R198: exact widening; a signalling NaN raises invalid. -/
def execUnpk2 (f : LR) (s : State) : Out :=
  withLR0 (.unpk2 f) f s fun c =>
    let fm := if f.g.getLsbD 0 then bf16 else fp16
    c.fpFrame .rn 1
      (fun l _ => fp32.result .rn 0 false (.ofVal (halfIn fm (c.slot f.a.toNat l) (if f.g.getLsbD 1 then 1 else 0))))
      (writeWord f.d.toNat)

/-- The 8-bit code of an FP32 value (R199, R102). -/
def cvtnCode (fmt : Nat) (rm : Rm) (u : Nat) (v : Val) : Nat × Flags :=
  match fmt with
  | 0 => e4m3.result rm u false (.ofVal v)
  | 1 => e5m2.result rm u false (.ofVal v)
  | 2 => e3m2.result rm u false (.ofVal v)
  | 3 => e2m3.result rm u false (.ofVal v)
  | _ =>
    let (q, fl) := v.toInt rm u (-128) 127
    ((BitVec.ofInt 8 q).toNat, fl)
/-- A word with byte b replaced. -/
def withByte (w : Word) (b v : Nat) : Word := withField w (8 * b + 7) (8 * b) v
def execCvtn (f : LR) (s : State) : Out :=
  withLR0 (.cvtn f) f s fun c =>
    let rm := c.rounding (lrRound f)
    c.fpFrame rm 1
      (fun l us => cvtnCode (field f.g 2 0) rm ((us[0]?).getD 0) (fpLow fp32 (c.slot f.a.toNat l)))
      fun c v => c.setSlot f.d.toNat fun l => withByte (c.slot f.d.toNat l) (field f.g 4 3) (v l)

/-! ## Across lanes -/

/-- Segment width of a code (R201). -/
def segWidth (code : Nat) : Nat :=
  match code with
  | 0 => 64
  | 1 => 16
  | 2 => 8
  | _ => 4

/-- The source lane of lane l (R201). -/
def lxchSource (mode w l c : Nat) : Nat :=
  let p := l % w
  let b := l - p
  match mode with
  | 0 => b + c % w
  | 1 => b + (p + 64 - c) % w
  | 2 => b + (p ^^^ c) % w
  | _ => b + (w - 1 - p + c) % w

/-- What a cross-lane instruction reads of lane j's slot: 0 where the lane was never launched (R200). -/
def Ctx.laneValue (c : Ctx) (i j : Nat) : Word := if c.w0.launched.getLsbD j then c.slot i j else 0
/-- R201. A never-launched lane's slots are 0 (R200, R158). -/
def execLxch (f : LR) (s : State) : Out :=
  withLR (.lxch f) f s fun c g =>
    let w := segWidth (field f.m 3 2)
    (c.setSlot f.d.toNat fun l =>
      c.laneValue f.a.toNat (lxchSource (field f.m 1 0) w l (field (g l) 5 0))).retire

/-- R202. -/
def execBallot (f : LR) (s : State) : Out :=
  withLR0 (.ballot f) f s fun c =>
    let m := maskOf fun l => c.exec.getLsbD l && (c.k0.pred (field f.g 2 0) l != f.g.getLsbD 3)
    (c.setPair f.d.toNat fun _ => m).retire

/-- One step of a fold on raw words, with its flags (R203). -/
def foldStep (op : Nat) (ftz : Bool) (a b : Word) : Word × Flags :=
  let fp (r : Nat × Flags) : Word × Flags := (BitVec.ofNat 32 r.1, r.2)
  match op with
  | 0 => (a + b, 0)
  | 1 => (a &&& b, 0)
  | 2 => (a ||| b, 0)
  | 3 => (a ^^^ b, 0)
  | 4 => (intMin false a b, 0)
  | 5 => (intMax false a b, 0)
  | 6 => (intMin true a b, 0)
  | 7 => (intMax true a b, 0)
  | 8 => fp (fp32.result .rn 0 ftz ((fpIn ftz a).add .rn (fpIn ftz b)))
  | 9 => fp (fp32.minMax false ftz a.toNat b.toNat)
  | _ => fp (fp32.minMax true ftz a.toNat b.toNat)

/-- The value of a lone lane of a floating-point fold. -/
def foldAlone (op : Nat) (ftz : Bool) (a : Word) : Word × Flags :=
  if op < 8 then (a, 0)
  else
    let v := fpIn ftz a
    if v.isNaN then (0x7FC00000#32, if v.isSNaN then flagNV else 0)
    else if ftz && fp32.isSub a.toNat then (a &&& 0x80000000#32, 0) else (a, 0)

/-- A segment's fold over the values of its lanes of Exec, ascending. -/
def foldValues (op : Nat) (ftz : Bool) : List Word → Word × Flags
  | [] => (0, 0)
  | [a] => foldAlone op ftz a
  | a :: rest => rest.foldl (fun acc v =>
      let r := foldStep op ftz acc.1 v
      (r.1, acc.2 ||| r.2)) (a, 0)

def execFold (f : LR) (s : State) : Out :=
  withLR0 (.fold f) f s fun c =>
    let w := segWidth (field f.g 1 0)
    let segs := (List.range (64 / w)).map fun i =>
      foldValues f.m.toNat c.k0.ftz (((countFrom (i * w) w).filter fun l => c.exec.getLsbD l).map (c.slot f.a.toNat))
    let res l := (segs[l / w]?).getD (0, 0)
    c.exceptions (lanes64.map fun l => if c.exec.getLsbD l then (res l).2 else 0) fun c =>
      (c.setSlot f.d.toNat fun l => (res l).1).retire

end Sys2Proof.Machine
end

