-- ==== Sys2Proof/Machine/FloatArith.lean ====
section
/-! DEFINITION. FP32 arithmetic, functions and packed 16-bit pairs (spec/06_slot_arith.md R185 to R194). -/

namespace Sys2Proof.Machine

/-! ## The exact results (R186): d, a, b are the destination, the slot and the other operand -/

def opAdd (rm : Rm) (_ a b : Val) : Exact := a.add rm b
def opSub (rm : Rm) (_ a b : Val) : Exact := a.add rm b.negate
def opMul (_ : Rm) (_ a b : Val) : Exact := a.mul b
def opFma (rm : Rm) (d a b : Val) : Exact := d.fma rm a b
def opFms (rm : Rm) (d a b : Val) : Exact := d.fma rm a.negate b
def opDiv (_ : Rm) (_ a b : Val) : Exact := a.div b

def execFaddShort (f : S16) (s : State) : Out := shortFp (.faddShort f) f s opAdd
def execFadd (f : LR) (s : State) : Out := longFp (.fadd f) f s opAdd
def execFsubShort (f : S16) (s : State) : Out := shortFp (.fsubShort f) f s opSub
def execFsub (f : LR) (s : State) : Out := longFp (.fsub f) f s opSub
def execFmulShort (f : S16) (s : State) : Out := shortFp (.fmulShort f) f s opMul
def execFmul (f : LR) (s : State) : Out := longFp (.fmul f) f s opMul
def execFfmaShort (f : S16) (s : State) : Out := shortFp (.ffmaShort f) f s opFma
def execFfma (f : LR) (s : State) : Out := longFp (.ffma f) f s opFma
def execFfmsShort (f : S16) (s : State) : Out := shortFp (.ffmsShort f) f s opFms
def execFfms (f : LR) (s : State) : Out := longFp (.ffms f) f s opFms
def execFdiv (f : LR) (s : State) : Out := longFp (.fdiv f) f s opDiv

/-! ## Uniform and immediate operands (R187) -/

def execFfmasShort (f : S16) (s : State) : Out := shortFpU (.ffmasShort f) f s opFma
def execFmulsShort (f : S16) (s : State) : Out := shortFpU (.fmulsShort f) f s opMul
def execFmas (f : LS) (s : State) : Out := uniformFp (.fmas f) f true s fun rm _ a g u => u.fma rm a g
def execFadds (f : LS) (s : State) : Out := uniformFp (.fadds f) f false s fun rm _ a _ u => a.add rm u
def execFmuls (f : LS) (s : State) : Out := uniformFp (.fmuls f) f false s fun _ _ a _ u => a.mul u
def execFfmas (f : LS) (s : State) : Out := uniformFp (.ffmas f) f false s fun rm d a _ u => d.fma rm a u
def execFaddi (f : LI) (s : State) : Out := immFp (.faddi f) f s opAdd
def execFmuli (f : LI) (s : State) : Out := immFp (.fmuli f) f s opMul
def execFfmai (f : LI) (s : State) : Out := immFp (.ffmai f) f s opFma

/-! ## Forms that do not round (R188, R192) -/

def execFminShort (f : S16) (s : State) : Out :=
  withShort (.fminShort f) f s fun c => c.minMaxOp false c.k0.ftz f.d.toNat f.a.toNat (c.gLane f.g.toNat)
def execFmin (f : LR) (s : State) : Out :=
  withLR (.fmin f) f s fun c g => c.minMaxOp false (c.lrFtz f) f.d.toNat f.a.toNat g
def execFmaxShort (f : S16) (s : State) : Out :=
  withShort (.fmaxShort f) f s fun c => c.minMaxOp true c.k0.ftz f.d.toNat f.a.toNat (c.gLane f.g.toNat)
def execFmax (f : LR) (s : State) : Out :=
  withLR (.fmax f) f s fun c g => c.minMaxOp true (c.lrFtz f) f.d.toNat f.a.toNat g
def execFabs (f : LR) (s : State) : Out := unaryOp (.fabs f) f s fun a => a &&& 0x7FFFFFFF#32
def execFneg (f : LR) (s : State) : Out := unaryOp (.fneg f) f s fun a => a ^^^ 0x80000000#32
def execFclass (f : LR) (s : State) : Out := unaryOp (.fclass f) f s fun a => BitVec.ofNat 32 (fclass a.toNat)

/-! ## One operand (R189) and the functions (R190, R191) -/

def execFrcpShort (f : S16) (s : State) : Out :=
  withStrand (.frcpShort f) none s fun c =>
    c.fp32Op (c.rounding 0) c.k0.ftz f.d.toNat fun l => (fpIn c.k0.ftz (c.slot f.a.toNat l)).rcp
def execFrcp (f : LR) (s : State) : Out := unaryFp (.frcp f) f s Val.rcp
def execFrsq (f : LR) (s : State) : Out := unaryFp (.frsq f) f s Val.rsq
def execFsqrt (f : LR) (s : State) : Out := unaryFp (.fsqrt f) f s Val.sqrt

/-- A function instruction: rounded to nearest whatever %rmode holds, with no generator step. -/
def functionOp (i : Instr) (f : LR) (s : State) (op : Bool → Val → Nat × Flags) : Out :=
  withLR0 i f s fun c =>
    let z := c.lrFtz f
    c.fpFrame .rn 1 (fun l _ => op z (fpIn z (c.slot f.a.toNat l))) (writeWord f.d.toNat)
def execFexp2 (f : LR) (s : State) : Out := functionOp (.fexp2 f) f s fexp2
def execFlog2 (f : LR) (s : State) : Out := functionOp (.flog2 f) f s flog2
def execFsin (f : LR) (s : State) : Out := functionOp (.fsin f) f s fsin
def execFcos (f : LR) (s : State) : Out := functionOp (.fcos f) f s fcos
def execFtanh (f : LR) (s : State) : Out := functionOp (.ftanh f) f s ftanh

/-- FRND: .rs in %rmode rounds under .rn and takes no step. -/
def execFrnd (f : LR) (s : State) : Out :=
  withLR0 (.frnd f) f s fun c =>
    let rm := match c.rounding (lrRound f) with
      | .rs => .rn
      | r => r
    let z := c.lrFtz f
    c.fpFrame .rn 1 (fun l _ => fp32.integral rm (fpIn z (c.slot f.a.toNat l))) (writeWord f.d.toNat)

/-! ## Packed pairs (R194) -/

def execHadd2 (f : LR) (s : State) : Out := longPacked (.hadd2 f) f fp16 s opAdd
def execHmul2 (f : LR) (s : State) : Out := longPacked (.hmul2 f) f fp16 s opMul
def execHfma2Short (f : S16) (s : State) : Out := shortPacked (.hfma2Short f) f fp16 s opFma
def execHfma2 (f : LR) (s : State) : Out := longPacked (.hfma2 f) f fp16 s opFma
def execBadd2 (f : LR) (s : State) : Out := longPacked (.badd2 f) f bf16 s opAdd
def execBmul2 (f : LR) (s : State) : Out := longPacked (.bmul2 f) f bf16 s opMul
def execBfma2Short (f : S16) (s : State) : Out := shortPacked (.bfma2Short f) f bf16 s opFma
def execBfma2 (f : LR) (s : State) : Out := longPacked (.bfma2 f) f bf16 s opFma

/-- HMIN2 and HMAX2: each half under R90. -/
def packedMinMax (i : Instr) (f : LR) (max : Bool) (s : State) : Out :=
  withLR i f s fun c g =>
    c.fpFrame .rn 2
      (fun l _ =>
        let lo := fp16.minMax max false (half (c.slot f.a.toNat l) 0) (half (g l) 0)
        let hi := fp16.minMax max false (half (c.slot f.a.toNat l) 1) (half (g l) 1)
        (lo.1 + 65536 * hi.1, lo.2 ||| hi.2))
      (writeWord f.d.toNat)
def execHmin2 (f : LR) (s : State) : Out := packedMinMax (.hmin2 f) f false s
def execHmax2 (f : LR) (s : State) : Out := packedMinMax (.hmax2 f) f true s

end Sys2Proof.Machine
end

