-- ==== Sys2Proof/Machine/Hash.lean ====
section
/-! DEFINITION. SHA-256, and LMS signatures made and checked (spec/18_package.md R457 to R459, R461,
R462). The spec names SHA-256 and LMS_SHA256_M32_H20 with LMOTS_SHA256_N32_W8 by name alone; their meaning is that of FIPS 180-4
and RFC 8554: PRESUMED (log entry 9). -/

namespace Sys2Proof.Machine

/-! ## SHA-256

Its constants are the first 32 bits of the fractional parts of cube roots and square roots of primes; they are computed. -/

/-- The numbers below n that no smaller number from 2 up divides. -/
def primesBelow (n : Nat) : List Nat :=
  (countFrom 2 (n - 2)).filter fun p => ((List.range p).drop 2).all fun d => p % d != 0
/-- The greatest x + y with y below 2^b whose power k is at most n, for an x whose power is. -/
def rootFrom (k n : Nat) : Nat → Nat → Nat
  | 0, x => x
  | b + 1, x => rootFrom k n b (if (x + 2 ^ b) ^ k ≤ n then x + 2 ^ b else x)
/-- The first 32 bits of the fractional part of the k-th root of p, a number whose root lies below 256. -/
def rootFraction (k p : Nat) : Word := BitVec.ofNat 32 (rootFrom k (p * 2 ^ (32 * k)) 40 0)
/-- The additive constants of the 64 rounds, and the value that hashing starts from. -/
def roundConstants : List Word := (primesBelow 312).map (rootFraction 3)
def startValue : List Word := (primesBelow 20).map (rootFraction 2)

def turnRight (x : Word) (n : Nat) : Word := x.rotateRight n
/-- Three rotated, or two rotated and one shifted, copies of a word added without carry. -/
def mix (x : Word) (i j k : Nat) (last : Word → Nat → Word) : Word := turnRight x i ^^^ turnRight x j ^^^ last x k

/-- One round on the eight working words, with its constant and schedule word added as one. -/
def hashRound (kw : Word) : List Word → List Word
  | [a, b, c, d, e, f, g, h] =>
    let choice := (e &&& f) ||| (~~~e &&& g)
    let majority := (a &&& (b ||| c)) ||| (b &&& c)
    let heat := kw + choice + h + mix e 6 11 25 turnRight
    [heat + majority + mix a 2 13 22 turnRight, a, b, c, heat + d, e, f, g]
  | v => v

/-- The word of the message schedule that follows the sixteen held. -/
def nextScheduled (ws : List Word) : Word :=
  let word (i : Nat) : Word := (ws[i]?).getD 0
  mix (word 14) 17 19 10 (· >>> ·) + word 9 + mix (word 1) 7 18 3 (· >>> ·) + word 0
/-- The rounds of one block, over the sixteen words held of its schedule. -/
def hashRounds (ws : List Word) (v : List Word) : List Word → List Word
  | [] => v
  | k :: ks => hashRounds (ws.tail ++ [nextScheduled ws]) (hashRound (k + (ws.head?).getD 0) v) ks

/-- Bytes as a big-endian number, and the other way. -/
def beNat (bs : List Byte) : Nat := leNat bs.reverse
def beBytes (n v : Nat) : List Byte := (leBytes n v).reverse
/-- The first n groups of k bytes. -/
def groupsOf (k : Nat) : Nat → List Byte → List (List Byte)
  | 0, _ => []
  | n + 1, bs => bs.take k :: groupsOf k n (bs.drop k)

/-- A block folded into the value so far. -/
def hashBlock (v : List Word) (block : List Byte) : List Word :=
  let ws := (groupsOf 4 16 block).map fun x => BitVec.ofNat 32 (beNat x)
  (hashRounds ws v roundConstants).zipWith (· + ·) v
/-- A message padded to whole blocks: a one bit, zeros, and its length in bits in the last eight bytes. -/
def padded (m : List Byte) : List Byte :=
  m ++ 0x80#8 :: List.replicate ((119 - m.length % 64) % 64) 0 ++ beBytes 8 (8 * m.length)
def sha256 (m : List Byte) : List Byte :=
  let p := padded m
  ((groupsOf 64 (p.length / 64) p).foldl hashBlock startValue).flatMap fun w => beBytes 4 w.toNat

/-! ## LMS (RFC 8554) -/

/-- One Winternitz chain of w 8: from step i upwards. -/
def lmChain (ident : List Byte) (q i : Nat) : Nat → Nat → List Byte → List Byte
  | 0, _, x => x
  | n + 1, j, x => lmChain ident q i n (j + 1) (sha256 (ident ++ beBytes 4 q ++ beBytes 2 i ++ beBytes 1 j ++ x))

/-- The checksum of a digest at w 8: 16 bits, shift 0. -/
def lmChecksum (bs : List Byte) : Nat := (bs.map fun b => 255 - b.toNat).foldl (· + ·) 0

/-- The candidate public key of an LM-OTS signature: type, randomiser and 34 chains. -/
def lmOtsKey (ident : List Byte) (q : Nat) (sig msg : List Byte) : List Byte :=
  let digest := sha256 (ident ++ beBytes 4 q ++ [0x81, 0x81] ++ (sig.drop 4).take 32 ++ msg)
  let digits := digest ++ beBytes 2 (lmChecksum digest)
  let zs := digits.zipIdx.map fun x =>
    lmChain ident q x.2 (255 - x.1.toNat) x.1.toNat ((sig.drop (36 + 32 * x.2)).take 32)
  sha256 (ident ++ beBytes 4 q ++ [0x80, 0x80] ++ zs.flatten)

/-- The path to the root from node n. -/
def lmPath (ident : List Byte) : Nat → Nat → List Byte → List Byte → List Byte
  | 0, _, x, _ => x
  | k + 1, n, x, path =>
    let sib := path.take 32
    let pair := if n % 2 = 1 then sib ++ x else x ++ sib
    lmPath ident k (n / 2) (sha256 (ident ++ beBytes 4 (n / 2) ++ [0x83, 0x83] ++ pair)) (path.drop 32)

/-- Whether a signature holds for a message under a public key: type (4), OTS type (4), identifier (16), root (32).
Height 20: LMS type 8, OTS type 4. -/
def lmsVerify (key msg sig : List Byte) : Bool :=
  let ident := (key.drop 8).take 16
  let q := beNat (sig.take 4)
  let ots := (sig.drop 4).take 1124
  let path := sig.drop 1132
  let leaf := sha256 (ident ++ beBytes 4 (2 ^ 20 + q) ++ [0x82, 0x82] ++ lmOtsKey ident q ots msg)
  key.length == 56 && beNat (key.take 4) == 8 && beNat ((key.drop 4).take 4) == 4 &&
  sig.length == 1772 && decide (q < 2 ^ 20) && beNat (ots.take 4) == 4 && beNat ((sig.drop 1128).take 4) == 8 &&
  lmPath ident 20 (2 ^ 20 + q) leaf path == (key.drop 24).take 32

/-- A private LM-OTS element of a leaf, made from a seed (RFC 8554, Appendix A). -/
def lmSecret (ident seed : List Byte) (q i : Nat) : List Byte := sha256 (ident ++ beBytes 4 q ++ beBytes 2 i ++ [0xFF] ++ seed)
/-- An LM-OTS signature: type, randomiser, and each chain run as far as its digit. -/
def lmOtsSign (ident seed : List Byte) (q : Nat) (c msg : List Byte) : List Byte :=
  let digest := sha256 (ident ++ beBytes 4 q ++ [0x81, 0x81] ++ c ++ msg)
  let digits := digest ++ beBytes 2 (lmChecksum digest)
  beBytes 4 4 ++ c ++ (digits.zipIdx.map fun x => lmChain ident q x.2 x.1.toNat 0 (lmSecret ident seed q x.2)).flatten
/-- The public key of a leaf: every chain run to its end. -/
def lmLeafKey (ident seed : List Byte) (q : Nat) : List Byte :=
  let ends := (List.range 34).map fun i => lmChain ident q i 255 0 (lmSecret ident seed q i)
  sha256 (ident ++ beBytes 4 q ++ [0x80, 0x80] ++ ends.flatten)
/-- Node r of the tree, h levels above its leaves. -/
def lmNode (ident seed : List Byte) : Nat → Nat → List Byte
  | 0, r => sha256 (ident ++ beBytes 4 r ++ [0x82, 0x82] ++ lmLeafKey ident seed (r - 2 ^ 20))
  | h + 1, r => sha256 (ident ++ beBytes 4 r ++ [0x83, 0x83] ++ lmNode ident seed h (2 * r) ++ lmNode ident seed h (2 * r + 1))
/-- The signature of leaf q: the leaf, its LM-OTS signature, the type, and the siblings on the way to the root. -/
def lmsSign (ident seed : List Byte) (q : Nat) (c msg : List Byte) : List Byte :=
  beBytes 4 q ++ lmOtsSign ident seed q c msg ++ beBytes 4 8 ++
  (List.range 20).flatMap fun k =>
    let r := (2 ^ 20 + q) / 2 ^ k
    lmNode ident seed k (if r % 2 = 0 then r + 1 else r - 1)
/-- The public key of a seed. -/
def lmsKey (ident seed : List Byte) : List Byte := beBytes 4 8 ++ beBytes 4 4 ++ ident ++ lmNode ident seed 20 1

end Sys2Proof.Machine
end

