-- ==== Sys2Proof/Machine/Nodes.lean ====
section
/-! DEFINITION. Records, groups, event bits set by strands, and placement (spec/13_nodes.md R353 to R372;
spec/01_work.md R31 to R34; spec/05_registers.md R157, R164; spec/14_queues.md R388). -/

namespace Sys2Proof.Machine

/-! ## The event vector (14 R388) -/

/-- A packet's wait mask (14 R382). -/
def Packet.waitMask (p : Packet) : BitVec 256 := BitVec.ofNat 256 (leNat ((p.bytes.drop 0x10).take 32))
/-- A change of a tenant's vector; each waiting packet's mask is tested after it. -/
def changeEvents (s : State) (tenant : Nat) (f : BitVec 256 → BitVec 256) : State :=
  let s := updTenant s tenant fun t => { t with events := f t.events }
  let v := (tenantOf s tenant).events
  { s with packets := s.packets.map fun p =>
      if p.tenant = tenant then
        (match p.phase with
         | .waiting false => if p.waitMask &&& v = p.waitMask then { p with phase := .waiting true } else p
         | _ => p)
      else p }
def setEventBit (s : State) (tenant bit : Nat) : State := changeEvents s tenant fun v => v ||| (1#256 <<< (bit % 256))

/-! ## EMITA (R363, R365, R368) -/

/-- The records granted: their addresses, and the allocations they are. -/
def allocsOf (t : Tenant) (node : Nat) (us : List CellUse) (depths : List Nat) : List Alloc :=
  (us.zip depths).map fun x =>
    { addr := cellAddr t x.1.first, node, depth := x.2, size := x.1.count, die := x.1.die, onChip := x.1.onChip,
      committed := false }

/-- Lanes of an EMITA that stand for one record each. -/
def Ctx.emitLanes (c : Ctx) (one : Bool) : List Nat := if one then c.lanes.take 1 else c.lanes
/-- The depth of the record that a lane's allocation takes (R365). -/
def Ctx.emitDepth (c : Ctx) (l : Nat) : Nat := lane 0 c.w0.depth l + 1

/-- The record unit grants the request: cells, counter, addresses. -/
def Ctx.granted (c : Ctx) (f : EmitaF) (us : List CellUse) : Out :=
  let t := tenantOf c.s c.tenant
  let ls := c.emitLanes f.one
  let as := allocsOf t f.node.toNat us (ls.map c.emitDepth)
  let die := dieOfCore c.w0.core
  let d := dieOf c.s die
  let s := setDie c.s die { d with emitting := (emitLine c.s die).filter (·.1 != c.ref) }
  let s := updGang s c.g.uid fun g => { g with allocs := g.allocs ++ as }
  let s := changeCounter s c.l.uid (· + as.length)
  let addrs := ls.zip (as.map (·.addr))
  let at_ (l : Nat) : DWord :=
    if f.one then ((as.head?).map (·.addr)).getD 0
    else match addrs.find? (·.1 == l) with
      | some x => x.2
      | none => 0
  (({ c with s } : Ctx).setPair f.d.toNat at_).retire

/-- Whether the record unit grants a strand's request now: it stands first and fits. -/
def grantFor (s : State) (die : Nat) (r : StrandRef) (tenant k n : Nat) : Option (List CellUse) :=
  let line := emitLine s die
  let first := match line.find? fun _ => true with
    | some e => e.1 == r
    | none => true
  if first then allotCells (tenantOf s tenant) die k n (cellUses s tenant) else none

def execEmita (f : EmitaF) (s : State) : Out :=
  withStrand (.emita f) none s fun c => c.notInKernel <|
    let node := BitVec.ofNat 64 f.node.toNat
    match c.l.nodes[f.node.toNat]? with
    | none => c.trap causePOOL 3 node c.exec
    | some n =>
      if !areaEnabled (tenantOf s c.tenant).rareaBase then c.trap causePOOL 4 0 c.exec
      else if (c.emitLanes f.one).any fun l => decide (n.maxDepth < c.emitDepth l) then
        c.trap causeDEPTH 0 node c.exec
      else
        let die := dieOfCore c.w0.core
        let line := emitLine s die
        let standing := line.any (·.1 == c.ref)
        if !standing && !queueGrants s c.w0.core .em then c.stall (.engineQueue .em)
        else if c.exec = 0 then c.retire
        else
          match grantFor s die c.ref c.tenant n.cells (c.emitLanes f.one).length with
          | some us => c.granted f us
          | none =>
            if standing then c.stall .records
            else ({ c with s := setDie c.s die { dieOf c.s die with emitting := line ++ [(c.ref, true)] } } : Ctx).stall .records

/-- An EMITC or EVSET takes an EM queue entry as it issues, and holds it while it waits (04 R136, R369, R372). -/
def Ctx.takeEmEntry (c : Ctx) (f : Ctx → Out) : Out :=
  if c.k0.em.isSome then f c
  else if !queueGrants c.s c.w0.core .em then c.stall (.engineQueue .em)
  else f { c with k0 := { c.k0 with em := some true }, k := { c.k with em := some true } }

/-! ## EMITC (R354, R369 to R371) -/

/-- A record committed at its trough (R354). -/
def commitRecord (s : State) (launch gang die : Nat) (addr : DWord) : State :=
  match gangOf s gang with
  | none => s
  | some g =>
    match g.allocs.find? fun a => a.addr == addr && !a.committed with
    | none => s
    | some a =>
      let s := updGang s gang fun g =>
        { g with allocs := updFirst (fun a => a.addr == addr && !a.committed) (fun a => { a with committed := true }) g.allocs }
      updLaunch s launch fun l => setTrough l a.node fun t =>
        let r : RecordRef := { index := t.commits, addr, depth := a.depth, since := s.cycles, cells := some (a.die, a.onChip) }
        { t with commits := t.commits + 1, queues := t.queues.modify die (· ++ [r]) }

/-- Lanes of an EMITC whose record the gang never allocated, and those whose record is committed or named before. -/
def Ctx.unknownRecords (c : Ctx) (a : Nat) (ls : List Nat) : List Nat :=
  ls.filter fun l => !(c.g.allocs.any fun x => x.addr == c.pair a l)
def Ctx.usedRecords (c : Ctx) (a : Nat) (ls : List Nat) : List Nat :=
  ls.filter fun l => (c.g.allocs.any fun x => x.addr == c.pair a l) &&
    (!(c.g.allocs.any fun x => x.addr == c.pair a l && !x.committed) ||
     ls.any fun m => decide (m < l) && c.pair a m == c.pair a l)

def execEmitc (f : EmitcF) (s : State) : Out :=
  withStrand (.emitc f) none s fun c => c.notInKernel <|
    let ls := c.emitLanes f.one
    let a := f.a.toNat
    match c.unknownRecords a ls with
    | l :: bad => c.trap causePOOL 1 (c.pair a l) (maskOfList (l :: bad))
    | [] =>
      match c.usedRecords a ls with
      | l :: bad => c.trap causePOOL 2 (c.pair a l) (maskOfList (l :: bad))
      | [] =>
        c.takeEmEntry fun c => c.release scopePKG fun c =>
          let s := ls.foldl (fun s l => commitRecord s c.l.uid c.g.uid (dieOfCore c.w0.core) (c.pair a l)) c.s
          ({ c with s } : Ctx).retire

/-! ## EVSET (R372) -/

def execEvset (f : EvsetF) (s : State) : Out :=
  withStrand (.evset f) none s fun c =>
    match c.leader with
    | none => c.retire
    | some l =>
      c.takeEmEntry fun c => c.release f.scope.toNat fun c =>
        let bit := if f.ind then (c.slot f.a.toNat l).toNat % 256 else f.bit.toNat
        ({ c with s := setEventBit c.s c.tenant bit } : Ctx).retire

/-! ## Groups (R356 to R358) -/

/-- GROUP_START: a die queue that holds its node's target. -/
def execGroupStart (die launch node : Nat) (s : State) : Out :=
  match launchOf s launch with
  | some l =>
    match l.nodes[node]? with
    | some n => if n.target ≤ (dieQueue l node die).length then .next (startGroup s die launch node) else .next s
    | none => .next s
  | none => .next s

/-- NODE_TIMER: a die queue whose oldest record has waited the node's timer. -/
def execNodeTimer (die launch node : Nat) (s : State) : Out :=
  match launchOf s launch with
  | some l =>
    match l.nodes[node]?, (dieQueue l node die).head? with
    | some n, some r => if r.since + n.timer ≤ s.cycles then .next (startGroup s die launch node) else .next s
    | _, _ => .next s
  | none => .next s

/-! ## Waits that end in a trap (R364; 05 R164) -/

/-- A strand that is not ready, with the instruction at which it waits. -/
def stuckCtx (s : State) (r : StrandRef) : Option Ctx := do
  let c ← focusCtx { s with focus := some r } none 1 0
  match decode (fetchParcels s c.l c.k0 c.addr.toNat) with
  | .ok i => some { c with len := (encode i).length, value := instrValue (encode i) }
  | .error _ => some c

def poolCycles : Nat := 2 ^ 20
/-- POOL_TIMEOUT: an EMITA that has waited with no cell freed. -/
def execPoolTimeout (warp strand : Nat) (s : State) : Out :=
  match stuckCtx s { warp, no := strand } with
  | some c =>
    if c.k0.wait = some .records ∧ c.w0.goesOn ∧ c.k0.waitSince + poolCycles ≤ s.cycles then
      c.waitTraps causePOOL 0 (Config.freeAddress c.s.fresh) c.exec
    else .next s
  | none => .next s

/-- Whether a strand waits on presence (05 R159, R161), and with what subcode and register. -/
def presenceWait (k : Strand) : Option (Nat × Nat) := k.wait.bind presenceOf
def meetCycles : Nat := 2 ^ 16
/-- The strands that could issue: the trap kernel's while it runs, else those that are not done. -/
def Warp.liveStrands (w : Warp) : List (Nat × Strand) :=
  match w.kernel with
  | some k => [(kernelNo, k)]
  | none => (w.strands.filter fun k => !k.isDone w.launched).map fun k => (k.no, k)
/-- The strands whose issues count (05 R164): the trap kernel's while it runs, else all of the warp's, done ones too. -/
def Warp.countedStrands (w : Warp) : List Strand :=
  match w.kernel with
  | some k => [k]
  | none => w.strands
/-- The lowest strand of a warp whose every live strand has waited on presence for 2^16 cycles in which no strand issued. -/
def deadlocked (s : State) (w : Warp) : Option (Nat × Strand) :=
  match w.mode with
  | .running => if w.goesOn then find else none
  | .handler => find
  | _ => none
where
  find : Option (Nat × Strand) :=
    if (w.liveStrands.all fun x => (presenceWait x.2).isSome && decide (x.2.waitSince + meetCycles ≤ s.cycles)) &&
       (w.countedStrands.all fun k => decide (k.lastIssue + meetCycles ≤ s.cycles)) then
      w.liveStrands.head?
    else none

/-- MEET_DEADLOCK. The lanes of the trap are not laid down: free (log entry 10). -/
def execMeetDeadlock (warp : Nat) (s : State) : Out :=
  match warpOf s warp with
  | none => .next s
  | some w =>
    match deadlocked s w with
    | none => .next s
    | some (no, k) =>
      match stuckCtx s { warp, no }, presenceWait k with
      | some c, some (sub, reg) => c.waitTraps causeMEETDEADLOCK sub (BitVec.ofNat 64 reg) (Config.freeLanes s.fresh)
      | _, _ => .next s

/-! ## Placement (01 R34; 05 R157) -/

/-- PLACEMENT: the first waiting gang of a die that fits is placed. -/
def execPlacement (die choice : Nat) (s : State) : Out := .next ((placeOne s die choice).getD s)

/-- The effective priority of a gang that waits. -/
def agedPriority (s : State) (die priority since : Nat) : Nat :=
  capPriority (priority + (s.ns - since) / ageingPeriod s die)
def ageGang (s : State) (g : Gang) : Gang :=
  match g.phase, launchOf s g.launch with
  | .queued c ns saved _, some l => { g with phase := .queued c ns saved (agedPriority s g.die l.priority ns) }
  | _, _ => g
/-- PLACEMENT_AGEING: the waiting gangs of a die take the priority their wait gives them. -/
def execPlacementAgeing (die : Nat) (s : State) : Out :=
  .next { s with gangs := s.gangs.map fun g => if g.die = die then ageGang s g else g }

/-- How much a waiting gang would displace on a yard, if it would then fit. DESIGN CHOICE (log entry 54): the spec says
'the least' and gives no measure; the model counts the gangs of lower launch priority placed on the yard. -/
def displaceCost (s : State) (n : NodeEntry) (eprio yard : Nat) : Option Nat :=
  (clearedFit s n eprio yard 0).map fun _ => (displaceable s eprio yard).length
def displaceNs : Nat := 20000
/-- Whether a yard is one where a gang of the node displaces the least. -/
def leastYard (s : State) (n : NodeEntry) (eprio yard : Nat) (yards : List Nat) : Bool :=
  match displaceCost s n eprio yard with
  | none => false
  | some c => yards.contains yard && yards.all fun y => match displaceCost s n eprio y with
    | some d => decide (c ≤ d)
    | none => true
/-- Whether gangs of the yard that is cleared for a waiting gang have still to leave it. -/
def stillClearing (s : State) (g : Gang) (eprio : Nat) : Bool :=
  match g.clearing with
  | some y => (displaceable s eprio y).any fun d => s.warps.any fun w => w.gang == d.uid && w.preemptPending
  | none => false
/-- PLACEMENT_DISPLACE: after 20 µs the gangs of lower priority on one yard are pre-empted, and its room is kept for the
gang that waits (R34), unless that would not place it, its tenant's pools having no room. -/
def execPlacementDisplace (gang yard : Nat) (s : State) : Out :=
  match gangOf s gang with
  | none => .next s
  | some g =>
    match g.phase, (launchOf s g.launch).bind fun l => l.nodes[g.node]? with
    | .queued _ ns _ eprio, some n =>
      if ns + displaceNs ≤ s.ns && poolsHold s g && !stillClearing s g eprio && leastYard s n eprio yard (yardsFor g) then
        .next ((displaceable s eprio yard).foldl (fun s d => requestPreempt s d.uid false)
          (updGang s gang fun g => { g with clearing := some yard }))
      else .next s
    | _, _ => .next s

/-- The team to move on a core: of lowest priority, not moved during the gang's wait; ties to the lowest warp slot. -/
def moveVictim (s : State) (gang core : Nat) : Option Gang :=
  let ws := (warpsOn s core).filterMap fun w => match gangOf s w.gang with
    | some g => if g.moved.contains gang || g.phase != .placed then none
                else (launchOf s g.launch).map fun l => (l.priority * 64 + w.slot, g)
    | none => none
  (leastBy (·.1) ws).map (·.2)
/-- Yards that could hold a waiting gang of a node, counting free granules, and cannot take it (R157). -/
def blockedYards (s : State) (g : Gang) (n : NodeEntry) : List Nat :=
  (yardsFor g).filter fun y => (countYard s n y).isSome && (fitYard s n y).isNone
/-- Whether contiguity alone keeps a core from what a gang of a node needs of some core. -/
def blockedCore (s : State) (n : NodeEntry) (core : Nat) : Bool :=
  (List.range n.coreCount).any fun v => fitsCounting s n v core && (fitCore s n v core).isNone
/-- A gang is moved for one that waits: pre-empted, to be restored on its own cores. -/
def moveFor (s : State) (waiting gang : Nat) : State :=
  requestPreempt (updGang s gang fun v => { v with moved := v.moved ++ [waiting], compact := true }) gang false
/-- REGISTER_COMPACTION: a gang that contiguity alone has held back for 2^20 cycles, on one yard or more: a team is moved on
each core where that is so. -/
def execRegisterCompaction (gang yard : Nat) (s : State) : Out :=
  match gangOf s gang with
  | none => .next s
  | some g =>
    match g.phase, (launchOf s g.launch).bind fun l => l.nodes[g.node]? with
    | .queued _ _ _ _, some n =>
      let ys := blockedYards s g n
      if s.cycles < g.compactSince + poolCycles ∨ !ys.contains yard then .next s
      else
        let victims := ((ys.flatMap yardCores).filter (blockedCore s n)).filterMap (moveVictim s gang)
        .next (((victims.map (·.uid)).eraseDups).foldl (fun s v => moveFor s gang v)
          (updGang s gang fun g => { g with compactSince := s.cycles }))
    | _, _ => .next s

end Sys2Proof.Machine
end

