-- ==== Sys2Proof/Machine/Queues.lean ====
section
/-! DEFINITION. Queues: control blocks, doorbells, enabling and disabling, ageing, and the slots that the shipped
firmware maps queues onto (spec/14_queues.md R376 to R381). -/

namespace Sys2Proof.Machine

/-! ## Reads of the part's units, which go through the homes of their lines (R377, R383, R384, R386, R393) -/

/-- What becomes of a unit's read: it has what it read; a home refuses or holds a line for now, so that it tries again; or it
fails with a code. -/
inductive Reading (α : Type)
  | ok (s : State) (a : α)
  | wait (s : State)
  | fail (s : State) (code : Nat)
def Reading.bind {α β : Type} (r : Reading α) (f : State → α → Reading β) : Reading β :=
  match r with
  | .ok s a => f s a
  | .wait s => .wait s
  | .fail s c => .fail s c

/-- The event of a read at a scope: at a point of coherence beyond a core AQ, as for a strand (12 R331). -/
def scopeEvent (scope : Nat) : Nat := if scope ≤ scopeCORE then evRD else evAQ
/-- Lines of the part that places lie on. -/
def unitLines (ts : List (Target × Nat)) : List Nat :=
  (ts.flatMap fun t => match t.1 with
    | .mem pa => [lineOf pa]
    | .tagWindow o => tagLines o t.2
    | _ => []).eraseDups
/-- Lines read by a unit, which keeps no copy of them. -/
def readHomes (ev : Nat) : List Nat → State → State × HomeResult
  | [], s => (s, .done)
  | l :: ls, s =>
    match answerOf s l none ev 0 with
    | some a => (match a.error with
      | some c => (dropAnswers s none 0 [l], .error c)
      | none => readHomes ev ls s)
    | none =>
      if waitsAt s l ev 0 then (s, .retry)
      else match homeAccess s l (partEvent s ev) with
        | (s, .done) => readHomes ev ls s
        | x => x
/-- What a unit reads of lines, as their homes answered it. -/
def unitTakes {α : Type} (s : State) (lines : List Nat) (f : State → α) : Reading α :=
  .ok (dropAnswers s none 0 lines) (f (asAnswered s none 0))

/-- n bytes of memory, read at a scope: first what lies outside the part comes, then the homes of its lines answer for the rest. A
failure has the code given. -/
def UnitReader.read (u : UnitReader) (s : State) (priv : Bool) (scope va n code : Nat) : Reading (List Byte) :=
  match checkSpans s u.tenant (unitReq false priv) (spansOf va n) with
  | .error _ => .fail s code
  | .ok ts =>
    let s := (((spansOf va n).map (·.1)).zip ts).foldl (u.ask scope) s
    let far := ts.filter fun t => isRemote t.1
    if far.any fun t => (u.came s t).isNone then .wait s
    else if far.any fun t => (u.came s t).any (·.1 != 0) then .fail (u.drop s ts) code
    else match readHomes (scopeEvent scope) (unitLines ts) s with
      | (s, .done) => unitTakes (u.drop s ts) (unitLines ts) fun s' => ts.flatMap (u.piece { s' with unitReads := s.unitReads })
      | (s, .error _) => .fail (u.drop s ts) code
      | (s, _) => .wait s
/-- A read of a packet's unit. -/
def packetRead (s : State) (packet tenant : Nat) (priv : Bool) (scope va n code : Nat) : Reading (List Byte) :=
  UnitReader.read { packet, tenant, kept := false } s priv scope va n code
/-- A read for a queue or a front-end processor. -/
def unitRead (s : State) (tenant : Nat) (priv : Bool) (scope va n code : Nat) : Reading (List Byte) :=
  packetRead s 0 tenant priv scope va n code
/-- Bytes of local memory at a physical address, read by a unit. -/
def unitReadAt (s : State) (pa n : Nat) : Reading (List Byte) :=
  let lines := unitLines ((spansOf pa n).map fun x => (.mem x.1, x.2))
  match readHomes evAQ lines s with
  | (s, .done) => unitTakes s lines fun s => s.mem.read pa n
  | (s, .error _) => .fail s 0
  | (s, _) => .wait s
def scopeSYSTEM : Nat := 7

/-! ## Queue records and their control blocks (R376) -/

def queueCount (tn : Tenant) : Nat := 4 * (field tn.qtable 7 0 + 1)
def blockAddr (tn : Tenant) (q : Nat) : Nat := field tn.qtable 55 8 * 256 + 256 * q
def QueueState.code : QueueState → Nat
  | .idle => 0
  | .pending => 1
  | .mapped => 2
  | .error => 3
  | .disabled => 4

/-- Bytes of a block written for a queue; a failed write is dropped and puts the queue in error 4 (R384). -/
def writeBlock (s : State) (t q off : Nat) (bs : List Byte) : State :=
  match unitWrite s t (queueOf s t q).privileged unitCore (.block t q) false (blockAddr (tenantOf s t) q + off) bs with
  | some s => s
  | none => queueError s t q 4
/-- State, effective priority, error and read index as the block mirrors them. -/
def Queue.mirrored (x : Queue) : List Byte :=
  leBytes 1 x.state.code ++ leBytes 1 x.eprio ++ leBytes 2 x.error ++ leBytes 4 x.rindex.toNat
def mirrorQueue (s : State) (t q : Nat) : State := writeBlock s t q 0x0C (queueOf s t q).mirrored
/-- The part's saved dispatch state, which is opaque (R376). -/
def savedState (s : State) : List Byte := (List.range 192).map (Config.freeSaved s.fresh)

/-- A queue in error, with its block. -/
def queueFails (s : State) (t q code : Nat) : State := mirrorQueue (queueError s t q code) t q
/-- A queue that could not be enabled: its block keeps the indices that software wrote. -/
def enableFails (s : State) (t q : Nat) (priv : Bool) : State :=
  let s := queueError (setQueue s t { Queue.blank q with privileged := priv }) t q 3
  writeBlock s t q 0x0C ((queueOf s t q).mirrored.take 4)

/-! ## Started packets -/

def isStarted (p : Packet) : Bool :=
  match p.phase with
  | .waiting _ => false
  | _ => true
/-- The packets of a queue itself that have been read: those of an array belong to their INDIRECT packet. -/
def packetsOf (s : State) (t q : Nat) : List Packet :=
  s.packets.filter fun p => p.tenant == t && p.queue == q && p.parent.isNone
def startedOf (s : State) (t q : Nat) : List Packet := (packetsOf s t q).filter isStarted
def waitingOf (s : State) (t q : Nat) : Option Packet := (packetsOf s t q).find? fun p => !isStarted p
def dropWaiting (s : State) (t q : Nat) : State :=
  dropReads { s with packets := s.packets.filter fun p => !(p.tenant == t && p.queue == q && p.parent.isNone && !isStarted p) } t 0

/-! ## The firmware's mapping of queues to slots (R380) -/

/-- Where a queue's next packet stands. -/
def Queue.entryAddr (x : Queue) : Nat := x.ring.toNat + 128 * (x.rindex.toNat % 2 ^ x.log2size)
def waitMaskOf (bs : List Byte) : BitVec 256 := BitVec.ofNat 256 (leNat ((bs.drop 0x10).take 32))
/-- Whether a pending queue is passed over, as the wait mask of its next packet, read by a slot or peeked at as QFETCH reads it,
is unmet; none while the packet cannot be read. -/
def passedOver (s : State) (t : Nat) (x : Queue) : State × Option Bool :=
  match waitingOf s t x.num with
  | some p => (s, some (match p.phase with | .waiting met => !met | _ => false))
  | none =>
    if x.rindex = x.windex then (s, some false)
    else match unitRead s t x.privileged scopeSYSTEM x.entryAddr 128 0 with
      | .ok s bs => (s, some (waitMaskOf bs &&& (tenantOf s t).events != waitMaskOf bs))
      | .wait s => (s, none)
      | .fail s _ => (s, some false)

/-- Queues of a die in a state, with their tenants. -/
def dieQueues (s : State) (die : Nat) (st : QueueState) : List (Nat × Queue) :=
  s.tenants.flatMap fun tn => (tn.queues.filter fun x => x.die == die && x.state == st).map fun x => (tn.num, x)
/-- The order of pending queues: highest effective priority, earliest ptime, lowest tenant and number. -/
def pendingKey (x : Nat × Queue) : Nat := ((15 - x.2.eprio) * 2 ^ 80 + x.2.ptime) * 2 ^ 20 + x.1 * 1024 + x.2.num
/-- What a step of the mapping rules comes to: it is made, it waits for a line, or no rule applies. -/
inductive Mapping
  | step (s : State)
  | wait (s : State)
  | done
def firstMappable : List (Nat × Queue) → State → (State → Nat → Queue → Mapping) → Mapping
  | [], _, _ => .done
  | x :: xs, s, f =>
    match passedOver s x.1 x.2 with
    | (s, none) => .wait s
    | (s, some true) => firstMappable xs s f
    | (s, some false) => f s x.1 x.2

/-- A queue as its block has it, for QLOAD, where the block passes its check: software may have changed the ring, the priority and
the vector while the queue was idle; the write index is the one that the doorbells have set (log entry 37). -/
def loadBlock (die : Nat) (x : Queue) (b : List Byte) : Option Queue :=
  let log2 := sliceNat b 8 1
  if log2 < 6 ∨ 16 < log2 ∨ sliceNat b 0xA 1 ≠ die ∨ sliceNat b 0xC 1 ≠ 1 then none
  else some { x with ring := BitVec.ofNat 64 (sliceNat b 0 8), log2size := log2, base := sliceNat b 9 1 % 16,
                     vector := sliceNat b 0xB 1 % 8, rindex := BitVec.ofNat 32 (sliceNat b 0x10 4) }
/-- QLOAD: a queue mapped onto a free slot. -/
def mapQueue (s : State) (die t slot : Nat) (x : Queue) : State :=
  let d := dieOf s die
  let s := setDie s die { d with slots := d.slots.set slot (some (t, x.num)) }
  mirrorQueue (setQueue s t { x with state := .mapped, eprio := x.base, mappedAt := s.ns }) t x.num
/-- What QSAVE writes: offsets in the block, and bytes. -/
def savedFields (s : State) (x : Queue) : List (Nat × List Byte) :=
  [(0xC, leBytes 1 1 ++ leBytes 1 x.eprio), (0x10, leBytes 4 x.rindex.toNat ++ leBytes 4 x.windex.toNat ++ leBytes 8 x.ptime),
   (0x40, savedState s)]
/-- A mapped queue that leaves its slot to be pending afresh. -/
def Queue.repending (s : State) (x : Queue) : Queue := { x with state := .pending, eprio := x.base, ptime := s.ns }
/-- QSAVE: a mapped queue saved and made pending afresh. -/
def unmapQueue (s : State) (t q : Nat) : State :=
  let x := (queueOf s t q).repending s
  let s := setQueue (freeSlotOf s t q) t x
  (savedFields s x).foldl (fun s y => writeBlock s t q y.1 y.2) s
/-- A mapped queue with nothing left returned to idle. -/
def idleQueue (s : State) (t q : Nat) : State :=
  let s := freeSlotOf s t q
  let s := updQueue s t q fun x => { x with state := .idle, eprio := x.base }
  mirrorQueue s t q

def slotsOf (s : State) (die : Nat) : List (Nat × Option (Nat × Nat)) := (List.range 32).zip (dieOf s die).slots
/-- Mapped queues of a die by ascending slot. -/
def mappedSlots (s : State) (die : Nat) : List (Nat × Nat × Queue) :=
  (slotsOf s die).filterMap fun x => x.2.map fun y => (x.1, y.1, queueOf s y.1 y.2)

/-- Whether everything written to a queue's block is performed. -/
def blockSettled (s : State) (t q : Nat) : Bool :=
  !(s.pend.any (·.writer == .block t q)) && !(s.posted.any (·.writer == .block t q))
/-- A pending queue loaded, once its block can be read: first the slot's queue is made to leave, then this one takes the slot. One
whose block cannot be read, or fails QLOAD's check, enters error 3 (R376). -/
def loadQueue (s : State) (die t : Nat) (x : Queue) (slot : Nat) (leave : State → State) : Mapping :=
  if !blockSettled s t x.num then .wait s
  else match unitRead s t x.privileged scopeSYSTEM (blockAddr (tenantOf s t) x.num) 256 0 with
    | .wait s => .wait s
    | .fail s _ => .step (queueFails s t x.num 3)
    | .ok s b => (match loadBlock die x b with
        | some x => .step (mapQueue (leave s) die t slot x)
        | none => .step (queueFails s t x.num 3))
/-- One step of the mapping rules on a die: the pending queue that comes first is mapped, onto the lowest free slot (DESIGN CHOICE,
log entry 11) or in the place of a queue that is idle or of lower priority. -/
def firmwareStep (s : State) (die : Nat) : Mapping :=
  firstMappable (sortBy pendingKey (dieQueues s die .pending)) s fun s t x =>
    match (slotsOf s die).find? (·.2.isNone) with
    | some (slot, _) => loadQueue s die t x slot id
    | none =>
      match (mappedSlots s die).find? fun m => m.2.2.rindex == m.2.2.windex && (startedOf s m.2.1 m.2.2.num).isEmpty with
      | some m => .step (idleQueue s m.2.1 m.2.2.num)
      | none =>
        match leastBy (fun m => m.2.2.eprio)
            ((mappedSlots s die).filter fun m => decide (m.2.2.mappedAt + ageingPeriod s die ≤ s.ns)) with
        | some m =>
          if (mappedSlots s die).any (fun n => decide (n.2.2.eprio < m.2.2.eprio)) || decide (x.eprio ≤ m.2.2.eprio) then .done
          else loadQueue s die t x m.1 fun s => unmapQueue s m.2.1 m.2.2.num
        | none => .done
/-- The rules applied until none applies; whether they still wait for a line. -/
def firmwareSteps (die : Nat) : Nat → State → State × Bool
  | 0, s => (s, true)
  | n + 1, s => match firmwareStep s die with
    | .step s => firmwareSteps die n s
    | .wait s => (s, true)
    | .done => (s, false)
/-- The firmware applies the rules to a die. -/
def applyRules (s : State) (die : Nat) : State :=
  let (s, due) := firmwareSteps die 96 s
  setDie s die { dieOf s die with rulesDue := due }
/-- The firmware at a doorbell or a completion: the rules are due on every die, and applied to this one at once. -/
def firmware (s : State) (die : Nat) : State :=
  applyRules { s with dies := s.dies.map fun d => { d with rulesDue := true } } die

/-! ## Signals to the front end (R393) -/

def sigDB : Nat := 0
def sigTMR : Nat := 1
def sigPKT : Nat := 2
def sigFLT : Nat := 3
/-- A signal pends at every front-end processor of a die. -/
def signal (s : State) (die bit : Nat) : State :=
  let d := dieOf s die
  setDie s die { d with fes := d.fes.map fun f => { f with signals := f.signals ||| (1#4 <<< bit) } }

/-! ## Doorbells (R378) -/

/-- A queue that a doorbell may name. -/
def ringable (s : State) (t q : Nat) (priv : Bool) : Bool :=
  let tn := tenantOf s t
  let x := queueOf s t q
  tn.enabled && decide (q < queueCount tn) && x.state != .disabled && x.privileged == priv

/-- A doorbell with bit 63 clear; it is applied at once also while a reset waits (DESIGN CHOICE, log entry 30). -/
def ringDoorbell (s : State) (t q : Nat) (priv : Bool) (w' : Word) : State :=
  if !ringable s t q priv then s
  else
    let x := queueOf s t q
    if (w' - x.windex).toNat + (x.windex - x.rindex).toNat ≤ 2 ^ x.log2size then
      let idle := x.state == .idle
      let s := setQueue s t (if idle then { x with windex := w', state := .pending, ptime := s.ns, eprio := x.base }
                             else { x with windex := w' })
      let s := if idle then signal (mirrorQueue s t q) x.die sigDB else s
      firmware s x.die
    else firmware (queueFails s t q 1) x.die
/-- A doorbell with bit 63 set is accepted and waits; a second one takes its place (DESIGN CHOICE, log entry 30). -/
def ringReset (s : State) (t q : Nat) (priv : Bool) (w' : Word) : State :=
  if ringable s t q priv then updQueue s t q fun x => { x with resetTo := some w' } else s

def execDoorbell (tenant queue : Nat) (windex : Word) (s : State) : Out := .next (ringDoorbell s tenant queue false windex)
def execPdoorbell (tenant queue : Nat) (windex : Word) (s : State) : Out := .next (ringDoorbell s tenant queue true windex)
def execDoorbellReset (tenant queue : Nat) (windex : Word) (s : State) : Out := .next (ringReset s tenant queue false windex)
def execPdoorbellReset (tenant queue : Nat) (windex : Word) (s : State) : Out := .next (ringReset s tenant queue true windex)

/-- DOORBELL_RESET_COMPLETE: both indices take the reset's, error is cleared, and the queue is idle. -/
def execDoorbellResetComplete (tenant queue : Nat) (s : State) : Out :=
  let x := queueOf s tenant queue
  match x.resetTo with
  | some w =>
    if (startedOf s tenant queue).isEmpty && x.state != .disabled then
      let s := dropWaiting (freeSlotOf s tenant queue) tenant queue
      let s := setQueue s tenant { x with state := .idle, rindex := w, windex := w, error := 0, eprio := x.base, resetTo := none }
      .next (firmware (mirrorQueue s tenant queue) x.die)
    else .next s
  | none => .next s

/-! ## Enabling and disabling (R377) -/

/-- A block read and checked; none where it fails. -/
def readBlock (bs : List Byte) (q : Nat) (priv : Bool) : Option Queue :=
  let ring := sliceNat bs 0 8
  let log2 := sliceNat bs 8 1
  let prio := sliceNat bs 9 1
  let die := sliceNat bs 0xA 1
  let vec := sliceNat bs 0xB 1
  let r := sliceNat bs 0x10 4
  let w := sliceNat bs 0x14 4
  if ring % 128 = 0 ∧ 6 ≤ log2 ∧ log2 ≤ 16 ∧ prio < 16 ∧ die < 4 ∧ vec < 8 ∧ sliceNat bs 0x20 32 = 0 ∧ r = w then
    some { Queue.blank q with
      state := .idle, privileged := priv, ring := BitVec.ofNat 64 ring, log2size := log2, base := prio, die, vector := vec,
      eprio := prio, rindex := BitVec.ofNat 32 r, windex := BitVec.ofNat 32 w }
  else none

/-- An enable of a disabled queue; while a home refuses its block the enable stays in progress. -/
def enableQueue (s : State) (t q : Nat) (priv : Bool) : State :=
  let tn := tenantOf s t
  let s := updTenant s t fun tn => { tn with enabling := none }
  if !tn.enabled || decide (queueCount tn ≤ q) || (queueOf s t q).state != .disabled then s
  else if !blockSettled s t q then updTenant s t fun tn => { tn with enabling := some (q, priv) }
  else
    match unitRead s t priv scopeSYSTEM (blockAddr tn q) 256 0 with
    | .ok s bs =>
      (match readBlock bs q priv with
       | some x => mirrorQueue (setQueue s t x) t q
       | none => enableFails s t q priv)
    | .fail s _ => enableFails s t q priv
    | .wait s => updTenant s t fun tn => { tn with enabling := some (q, priv) }
/-- A write of QCTL or QCTLP, which a state change in progress makes the part ignore (R377). -/
def unlessBusy (s : State) (t : Nat) (f : State → State) : Out :=
  .next (if (tenantOf s t).enabling.isSome then s else f s)

def execQctlEnable (tenant queue : Nat) (s : State) : Out := unlessBusy s tenant fun s => enableQueue s tenant queue false
def execQctlpEnable (tenant queue : Nat) (p : Bool) (s : State) : Out := unlessBusy s tenant fun s => enableQueue s tenant queue p

/-- A disable: the queue starts no more packets. -/
def disableQueue (s : State) (t q : Nat) (priv : Bool) : State :=
  let x := queueOf s t q
  if x.state == .disabled || (x.privileged && !priv) then s else setQueue s t { x with disabling := true }
def execQctlDisable (tenant queue : Nat) (s : State) : Out := unlessBusy s tenant fun s => disableQueue s tenant queue false
def execQctlpDisable (tenant queue : Nat) (s : State) : Out := unlessBusy s tenant fun s => disableQueue s tenant queue true

/-- QUEUE_DISABLE_COMPLETE: indices and saved state go to the block, and the queue is disabled. Its slot is free then, and the mapping
rules are applied at once (DESIGN CHOICE, log entry 11). -/
def execQueueDisableComplete (tenant queue : Nat) (s : State) : Out :=
  let x := queueOf s tenant queue
  if x.disabling && (startedOf s tenant queue).isEmpty then
    let s := dropWaiting (freeSlotOf s tenant queue) tenant queue
    let s := setQueue s tenant { x with state := .disabled, disabling := false, resetTo := none }
    let s := writeBlock s tenant queue 0x10 (leBytes 4 x.rindex.toNat ++ leBytes 4 x.windex.toNat)
    let s := writeBlock s tenant queue 0x40 (savedState s)
    .next (firmware (mirrorQueue s tenant queue) x.die)
  else .next s

/-! ## Ageing (R380, R381) -/

/-- QUEUE_AGEING: pending queues of a die take the priority their wait gives them, and the rules are applied. -/
def agedQueue (s : State) (x : Queue) : Nat := capPriority (x.base + (s.ns - x.ptime) / ageingPeriod s x.die)
/-- Whether a whole ageing period since a pending queue became pending has ended since the die's last ageing step: one beyond
priority 15 is a step too (DEDUCED, log entry 11). -/
def agesNow (s : State) (die : Nat) (x : Queue) : Bool :=
  let p := ageingPeriod s x.die
  agedQueue s x != x.eprio || (s.ns - x.ptime) / p != ((dieOf s die).rulesAt - x.ptime) / p
def execQueueAgeing (die : Nat) (s : State) : Out :=
  let age (s : State) (y : Nat × Queue) : State :=
    let e := agedQueue s y.2
    if e = y.2.eprio then s else mirrorQueue (setQueue s y.1 { y.2 with eprio := e }) y.1 y.2.num
  let s := (dieQueues s die .pending).foldl age s
  .next (applyRules (setDie s die { dieOf s die with rulesAt := s.ns }) die)

/-! ## The vector's registers (R375) -/

def execEvsetr (tenant : Nat) (bits : BitVec 256) (s : State) : Out := .next (changeEvents s tenant fun v => v ||| bits)
def execEvclr (tenant : Nat) (bits : BitVec 256) (s : State) : Out := .next (changeEvents s tenant fun v => v &&& ~~~bits)

end Sys2Proof.Machine
end

