-- ==== Sys2Proof/Machine/Tenants.lean ====
section
/-! DEFINITION. Tenants: enabling and teardown, cached translations, page migration, replay answers and the record area's
registers (spec/14_queues.md R374, R377; spec/10_memory.md R283 to R287; spec/13_nodes.md R361; spec/18_package.md
R462). -/

namespace Sys2Proof.Machine

/-! ## Attestation records (18 R460, R462) -/

def Attest.blank : Attest :=
  { addr := 0, busy := false, nonce := List.replicate 4 0, measure := List.replicate 32 0, images := [],
    leaf := 0, job := none }
def attestOf (s : State) (t : Nat) : Attest := ((s.part.attests.find? (·.1 == t)).map (·.2)).getD Attest.blank
/-- Ascending insertion. -/
def putAttest (t : Nat) (a : Attest) : List (Nat × Attest) → List (Nat × Attest)
  | [] => [(t, a)]
  | (k, x) :: r => if t < k then (t, a) :: (k, x) :: r else if t = k then (t, a) :: r else (k, x) :: putAttest t a r
def setAttest (s : State) (t : Nat) (a : Attest) : State :=
  { s with part := { s.part with attests := putAttest t a s.part.attests } }

/-! ## Stopping launches (14 R374, R383) -/

/-- The kind under which a gang ends with no fault record: teardown, timeout and thermal trip (log entry 32). -/
def noRecord : Nat := 255
/-- A gang ended by the part: one that waits for placement counts as retired at once. -/
def stopGang (s : State) (gang : Nat) : State :=
  match gangOf s gang with
  | none => s
  | some g =>
    match g.phase with
    | .queued _ _ _ _ => retireGang s gang true
    | .placed => terminate s gang noRecord 0 none
    | .terminating _ w n => updGang s gang fun g => { g with phase := .terminating noRecord w n }
    | .recording _ _ => s
    | .retired => s
/-- The records that wait in a launch's troughs are discarded, then its gangs end. -/
def stopLaunch (s : State) (launch : Nat) : State :=
  match launchOf s launch with
  | none => s
  | some l =>
    let n := (l.troughs.map fun t => t.queues.flatten.length).foldl (· + ·) 0
    let s := updLaunch s launch fun l =>
      { l with troughs := l.troughs.map fun t => { t with queues := t.queues.map fun _ => [] } }
    let s := if l.troughs.any fun t => t.queues.flatten.any (·.cells.isSome) then restartEmita s l.tenant else s
    let gs := (s.gangs.filter (·.launch == launch)).map (·.uid)
    gs.foldl stopGang (changeCounter s launch fun c => c - n)

/-! ## Enabling and teardown (14 R374, R377) -/

/-- TENANT_ENABLE: every queue is disabled and unprivileged; the image measurement starts afresh. -/
def execTenantEnable (tenant : Nat) (s : State) : Out :=
  if (tenantOf s tenant).enabled || decide (64 ≤ tenant) then .next s
  else
    let s := updTenant s tenant fun t => { t with enabled := true, queues := [] }
    .next (setAttest s tenant { attestOf s tenant with measure := List.replicate 32 0, images := [] })

/-- A queue's state byte as teardown leaves it. -/
def disableMirror (s : State) (t q : Nat) : State :=
  unitStore s t (queueOf s t q).privileged .unit (blockAddr (tenantOf s t) q + 0xC) [BitVec.ofNat 8 QueueState.disabled.code]
/-- A tenant's work in slots and packet buffers dropped. -/
def dropTenantWork (s : State) (t : Nat) : State :=
  { s with
    packets := s.packets.filter (·.tenant != t)
    unitReads := s.unitReads.filter (·.tenant != t)
    dies := s.dies.map fun d =>
      let mine (i : Nat) : Bool := match d.entries[i]? with
        | some (some e) => e.tenant == t
        | _ => false
      { d with slots := d.slots.map fun x => if x.any (·.1 == t) then none else x
               pktq := d.pktq.filter fun i => !mine i
               entries := d.entries.map fun e => if e.any (·.tenant == t) then none else e } }
/-- Every held access of a tenant cancelled (R286). -/
def cancelHeld (s : State) (t : Nat) : State :=
  ((tenantOf s t).rplHeld).foldl cancelAccess (updTenant s t fun tn => { tn with rplHeld := [] })
/-- Every entry of a tenant is invalidated, one after another (12 R322, R349). -/
def leaveRanges (s : State) (t : Nat) : State :=
  let mine := (s.part.ranges.filter fun e => e.2.tenant == t).map (·.1)
  match s.part.change, mine with
  | none, i :: rest => { s with part := { s.part with change := some (i, none), leaving := s.part.leaving ++ rest } }
  | _, is => { s with part := { s.part with leaving := s.part.leaving ++ is } }

/-- TENANT_TEARDOWN. -/
def execTenantTeardown (tenant : Nat) (s : State) : Out :=
  if !(tenantOf s tenant).enabled then .next s
  else
    let s := ((tenantOf s tenant).queues.map (·.num)).foldl (fun s q => disableMirror s tenant q) s
    let s := dropTenantWork s tenant
    let s := updTenant s tenant fun t => { t with enabled := false, queues := [] }
    let s := cancelHeld s tenant
    let s := ((launchesOf s tenant).map (·.uid)).foldl stopLaunch s
    .next (leaveRanges s tenant)

/-! ## Cached translations (10 R283) -/

def TlbEntry.first (e : TlbEntry) : Nat := e.page * 2 ^ e.bits
/-- TLB entries of a tenant that satisfy p, dropped from every TLB. -/
def dropTlb (s : State) (t : Nat) (p : TlbEntry → Bool) : State :=
  let keep (es : List TlbEntry) : List TlbEntry := es.filter fun e => !(e.tenant == t && p e)
  { s with cores := s.cores.map fun c => { c with tlb := keep c.tlb }, yards := s.yards.map keep }
/-- Whether an access that used a translation of n bytes from va has still to be accepted at its home. -/
def translationsUsed (s : State) (va n : Nat) : Bool :=
  let inside (a : Nat) : Bool := decide (va ≤ a) && decide (a < va + n)
  let asks (xs : List (Nat × Target)) : Bool := xs.any fun x => inside (64 * x.1)
  (s.ops.any fun o => (o.body.laneList.any fun a => inside a.va.toNat) || (match o.body with
    | .copy j => asks j.asked
    | _ => false)) ||
  (s.packets.any fun p => asks p.asked) || (s.unitReads.any fun x => x.back.isNone && inside x.va) ||
  (s.pend.any fun p => inside p.va.toNat) || (s.posted.any fun p => inside p.va.toNat)

/-- XCMD op 0: pages of 64 KiB from a virtual address. -/
def execInvalidateTranslations (tenant : Nat) (va : BitVec 44) (arg : BitVec 16) (s : State) : Out :=
  if (tenantOf s tenant).xbusy.isSome then .next s
  else .next (updTenant s tenant fun t =>
    { t with xbusy := some (.invalidate (va.toNat * 65536) (arg.toNat + 1)), xerr := false })
/-- INVALIDATION_COMPLETE: no TLB holds a matching entry, and every access that used one has been accepted. -/
def execInvalidationComplete (tenant : Nat) (s : State) : Out :=
  match (tenantOf s tenant).xbusy with
  | some (.invalidate va pages) =>
    let n := pages * 65536
    let s := dropTlb s tenant fun e => overlaps e.first (2 ^ e.bits) va n
    if translationsUsed s va n then .next s
    else .next (updTenant s tenant fun t => { t with xbusy := none })
  | _ => .next s

/-! ## Page migration (10 R287) -/

/-- Where the entry at which a walk ends stands. -/
def leafAddr (m : Memory) (va table : Nat) : List (Nat × Nat) → Nat
  | [] => table
  | (shift, bits) :: rest =>
    let a := table + 8 * (va / 2 ^ shift % 2 ^ bits)
    let e := BitVec.ofNat 64 (leNat (m.read a 8))
    if pteLeaf e then a else leafAddr m va (pteAddr e) rest
/-- A valid leaf that maps a page of 2^bits bytes in local memory. -/
def localLeaf (e : DWord) (bits : Nat) : Bool :=
  pteV e && pteLeaf e && !pteReserved e && pteTarget e == 0 && pteDevice e == 0 && pteAddr e % 2 ^ bits == 0 &&
  decide (pteAddr e + 2 ^ bits ≤ memSize)
/-- Enabled local windows, writable or not. -/
def enabledLocal (t : Tenant) : List (Nat × Nat) :=
  (t.windows.filter fun w => w.1.getLsbD 63 && field w.1 62 61 == 0).map fun w => (field w.1 51 16, field w.2 51 16)

def linesMoving (s : State) (x : XCommand) : List Nat := (s.homes.map (·.1)).filter x.moves
/-- XCMD op 1: refused, or the page's homes enter the moving state. -/
def execMigratePage (tenant : Nat) (va : BitVec 44) (arg : BitVec 16) (s : State) : Out :=
  let tn := tenantOf s tenant
  let refuse : Out := .next (updTenant s tenant fun t => { t with xerr := true })
  if tn.xbusy.isSome then .next s
  else if 32 ≤ arg.toNat then refuse
  else
    let leaf := (tn.xleaf[arg.toNat]?).getD 0
    let a := va.toNat * 65536
    match walk s.mem tn.ptroot.toNat a with
    | .fail _ => refuse
    | .leaf e bits =>
      if !localLeaf e bits || !localLeaf leaf bits ||
         !granulesCovered (enabledLocal tn) 18 (pteAddr leaf / 65536) ((pteAddr leaf + 2 ^ bits - 1) / 65536) then refuse
      else
        let x : XCommand := .migrate (a / 2 ^ bits * 2 ^ bits) (pteAddr e) (pteAddr leaf) bits
          (leafAddr s.mem a tn.ptroot.toNat levels) leaf
        let s := updTenant s tenant fun t => { t with xbusy := some x, xerr := false }
        let s := publishPins s fun c => x.moves c.line
        .next (settle ((linesMoving s x).foldl (fun s line => drainLine s line (partEvent s evMG)) s))

/-- Entries of a table from key a on moved to b: n keys. -/
def moveKeys {α : Type} [DecidableEq α] (d : α) (t : Table α) (a b n : Nat) : Table α :=
  let src := t.filter fun e => decide (a ≤ e.1) && decide (e.1 < a + n)
  let rest := t.filter fun e => !(decide (b ≤ e.1) && decide (e.1 < b + n))
  src.foldl (fun t e => tput d t (e.1 - a + b) e.2) rest
/-- Data, tags and poison marks copied from one frame to another. -/
def Memory.copyFrame (m : Memory) (old new size : Nat) : Memory :=
  let ps := m.poison.filter fun l => decide (lineOf old ≤ l) && decide (l < lineOf (old + size))
  let keep := m.poison.filter fun l => !(decide (lineOf new ≤ l) && decide (l < lineOf (new + size)))
  { m with cells := moveKeys unwritten m.cells old new size
           tags := moveKeys 0 m.tags (lineOf old) (lineOf new) (size / 64)
           poison := ps.foldl (fun q l => insertNat (l - lineOf old + lineOf new) q) keep }

/-- An access that the old frame's homes have not accepted is refused there with a moved response: its requester, a strand, a unit
of the part, a peer or the host, sends it again until its walk yields the new frame. -/
def resentTo (old new bits pa : Nat) : Nat := if pa / 2 ^ bits = old / 2 ^ bits then pa - old + new else pa
def LaneAccess.resent (old new bits : Nat) (a : LaneAccess) : LaneAccess :=
  match a.target with
  | .mem pa => { a with target := .mem (resentTo old new bits pa) }
  | _ => a
def OpBody.mapLanes (b : OpBody) (f : LaneAccess → LaneAccess) : OpBody :=
  match b with
  | .load sz d sc ls => .load sz d sc (ls.map f)
  | .store sz sc rel ls => .store sz sc rel (ls.map f)
  | .fill sl fm m ls => .fill sl fm m (ls.map f)
  | .head ls => .head (ls.map f)
  | .atomic a r ls => .atomic a r (ls.map fun x => (f x.1, x.2))
  | .tileLoad c ls => .tileLoad c (ls.map f)
  | .tileStore c sz code ls => .tileStore c sz code (ls.map f)
  | .callWrite a t n h ls => .callWrite a t n h (ls.map f)
  | .retRead a n h ls => .retRead a n h (ls.map f)
  | b => b
def Pending.resent (old new bits : Nat) (p : Pending) : Pending :=
  if p.window then p else { p with pa := resentTo old new bits p.pa }
def resentRequest (old new bits : Nat) (r : PeerRequest) : PeerRequest :=
  { r with addr := BitVec.ofNat 64 (resentTo old new bits r.addr.toNat) }

/-- MIGRATION_DRAIN_COMPLETE: once the old homes have drained, the page is copied and mapped at its new frame. -/
def execMigrationDrainComplete (tenant : Nat) (s : State) : Out :=
  match (tenantOf s tenant).xbusy with
  | some (.migrate va old new bits leafAt leaf) =>
    let x : XCommand := .migrate va old new bits leafAt leaf
    let drained (line : Nat) : Bool :=
      let h := homeOf s line
      h.state == 0 && h.held.isEmpty && (h.horizon.isNone || horizonPassed s line)
    if !((linesMoving s x).all drained) || s.again.any (fun y => x.moves y.1) then .next s
    else
      let m := (s.mem.copyFrame old new (2 ^ bits)).write leafAt (leBytes 8 leaf.toNat)
      let s := { s with
        mem := m
        homes := s.homes.filter fun e => !x.moves e.1
        lineAnswers := s.lineAnswers.filter fun a => !x.moves a.line
        l1 := s.l1.filter fun c => !x.moves c.line
        ops := s.ops.map fun o => { o with body := o.body.mapLanes (·.resent old new bits) }
        pend := s.pend.map (·.resent old new bits)
        retries := s.retries.map (resentRequest old new bits) }
      let s := dropTlb s tenant fun e => overlaps e.first (2 ^ e.bits) va (2 ^ bits)
      .next (updTenant s tenant fun t => { t with xbusy := none })
  | _ => .next s

/-! ## Answers to replayable faults (10 R285, R286) -/

def heldBySeq (s : State) (t : Nat) (seq : BitVec 48) : Option HeldAccess :=
  (tenantOf s t).rplHeld.find? fun h => h.seq % 2 ^ 48 == seq.toNat
/-- REPLAY: the access is forgotten by the TLBs and walks again as its instruction issues again, or its copy runs again. -/
def execReplay (tenant : Nat) (seq : BitVec 48) (s : State) : Out :=
  match heldBySeq s tenant seq with
  | some h =>
    .next (h.vas.foldl (fun s va => dropTlb s tenant fun e => e.matches tenant va.toNat) (dropHeld s tenant h.seq))
  | none => .next s
/-- CANCEL: the held cause is raised. -/
def execCancel (tenant : Nat) (seq : BitVec 48) (s : State) : Out :=
  match heldBySeq s tenant seq with
  | some h => .next (cancelAccess (dropHeld s tenant h.seq) h)
  | none => .next s

/-! ## The record area's registers (13 R361) -/

/-- A write of quotas that would make some die's sum exceed its pool is ignored. -/
def execRpoolWrite (tenant : Nat) (value : DWord) (s : State) : Out :=
  let v := value &&& 0x0FFFFFFFFFFFFFFF#64
  let s' := updTenant s tenant fun t => { t with rpool := v }
  let sum (d : Nat) : Nat := (s'.tenants.map fun t => poolQuota t d).foldl (· + ·) 0
  if (List.range 4).all fun d => decide (sum d ≤ 24576) then .next s' else .next s
/-- A write while a launch of the tenant is live is ignored. -/
def areaBaseMask (v : DWord) : DWord := v &&& 0x00FFFFFFFFFF0001#64
def areaSizeMask (v : DWord) : DWord := v &&& 0x000000FFFFFF0000#64
def execRareaWrite (tenant : Nat) (size : Bool) (value : DWord) (s : State) : Out :=
  if !(launchesOf s tenant).isEmpty then .next s
  else .next (updTenant s tenant fun t =>
    if size then { t with rareaSize := areaSizeMask value } else { t with rareaBase := areaBaseMask value })

end Sys2Proof.Machine
end

