-- ==== Sys2Proof/Machine/Traps.lean ====
section
/-! DEFINITION. Trap instructions, frames and fault records, halts, pre-emption, control registers and soft errors
(spec/15_traps.md R395 to R423; spec/07_buffers.md R210; spec/14_queues.md R390, R391; spec/01_work.md R33; spec/16_observe.md
R432 to R437; spec/04_issue.md R138, R139). -/

namespace Sys2Proof.Machine

/-! ## Instructions (R409 to R411) -/

def execBkpt (sp : Safe) (s : State) : Out := withStrand (.bkpt sp) none s fun c => c.trap causeBKPT 0 0 c.exec
def execTrap (sp : Safe) (imm : BitVec 8) (s : State) : Out :=
  withStrand (.trap sp imm) none s fun c => c.trap causeSWTRAP imm.toNat 0 c.exec

/-- The trap kernel's strand leaves it once its LD, ST and CP are 0 and the frame is there. -/
def Ctx.leaveKernel (c : Ctx) : Out :=
  c.afterKernel (endKernel c.s c.w0.uid 0)
def execXret (sp : Safe) (s : State) : Out :=
  withStrand (.xret sp) none s fun c => c.onlyInKernel c.leaveKernel
def execHaltack (sp : Safe) (s : State) : Out :=
  withStrand (.haltack sp) none s fun c => c.onlyInKernel (if c.w0.haltPending then c.leaveKernel else c.retire)

/-! ## Control registers (R418, R419; 04 R138, R139; 16 R432, R436) -/

def eqlimWord (x : Nat × Nat) : Word := BitVec.ofNat 32 (x.1 * 65536 + x.2)
/-- What a control register reads as. -/
def Core.csr (x : Core) (n : Nat) : Word :=
  if 0x040 ≤ n ∧ n ≤ 0x043 then eqlimWord ((x.eqlim[n - 0x040]?).getD (0, 0))
  else if 0x090 ≤ n ∧ n ≤ 0x097 then (x.pcnt[n - 0x090]?).getD 0
  else match n with
    | 0x080 => x.wctl
    | 0x081 => x.widx
    | 0x082 => BitVec.ofNat 32 (tget 0 x.filter x.widx.toNat)
    | 0x098 => x.rcnt
    | 0x0A0 => x.xlo
    | 0x0A1 => x.xhi
    | 0x0A2 => x.xctl
    | 0x0A3 => x.xdelay
    | _ => 0
/-- A write of a limit; one that breaks R139 is ignored. -/
def Core.setLimit (x : Core) (i : Nat) (v : Word) : Core :=
  let cap := field v 24 16
  let low := field v 8 0
  let lims := x.eqlim.set i (cap, low)
  if cap = 0 ∨ cap < low ∨ 256 < cap ∨ 256 < (lims.map (·.2)).foldl (· + ·) 0 then x else { x with eqlim := lims }
/-- A write of a control register; reserved bits stay 0. -/
def Core.setCsr (x : Core) (n : Nat) (v : Word) : Core :=
  if 0x040 ≤ n ∧ n ≤ 0x043 then x.setLimit (n - 0x040) v
  else if 0x090 ≤ n ∧ n ≤ 0x097 then { x with pcnt := x.pcnt.set (n - 0x090) v }
  else match n with
    | 0x080 => { x with wctl := v &&& 0xFFFFFC07#32 }
    | 0x081 => { x with widx := v &&& 0x7F#32 }
    | 0x082 => { x with filter := tput 0 x.filter x.widx.toNat v.toNat, widx := (x.widx + 1) &&& 0x7F#32 }
    | 0x098 => { x with rcnt := v }
    | 0x0A0 => { x with xlo := v }
    | 0x0A1 => { x with xhi := v }
    | 0x0A2 => { x with xctl := v &&& 0xFFFFFCFF#32 }
    | 0x0A3 => { x with xdelay := v }
    | _ => x

def execCsrw (f : CsrwF) (s : State) : Out :=
  withStrand (.csrw f) none s fun c =>
    if !c.l.privileged then c.decodeTrap causePRIV 0
    else match c.leader with
      | none => c.retire
      | some l =>
        let x := coreOf c.s c.w0.core
        let c' := if f.w then { c with s := setCore c.s c.w0.core (x.setCsr f.csr.toNat (c.slot f.a.toNat l)) } else c
        (if f.r then c'.setSlot f.d.toNat fun _ => x.csr f.csr.toNat else c').retire

/-! ## Halts (R412 to R414) -/

/-- The live launch of a tenant with a launch number. -/
def numbered (s : State) (tenant : Nat) (n : BitVec 16) : Option Launch :=
  s.launches.find? fun l => l.tenant == tenant && l.number == n
def mapWarps (s : State) (f : Warp → Warp) : State := { s with warps := s.warps.map f }
def ofLaunch (s : State) (launch : Nat) (w : Warp) : Bool := (gangOf s w.gang).any (·.launch == launch)
/-- A warp that has not stopped for good. -/
def Warp.canHalt (w : Warp) : Bool :=
  match w.mode with
  | .running => true
  | .stopping _ => true
  | .handler => true
  | _ => false

/-- Whether a warp holds a halt pending for a trap kernel (R398, R414). -/
def Warp.holdsHalt (w : Warp) : Bool :=
  w.haltPending && (match w.mode with
    | .stopping _ => true
    | .handler => true
    | _ => false)

/-- DBG op 1: every warp of the launch stops, and so do those placed later. -/
def execDbgHalt (tenant : Nat) (launch : BitVec 16) (s : State) : Out :=
  match numbered s tenant launch with
  | none => .next s
  | some l =>
    let s := updTenant s tenant fun t => { t with dbg := insertNat l.uid t.dbg }
    .next (mapWarps s fun w => if ofLaunch s l.uid w && w.canHalt then { w with haltPending := true } else w)

/-- A halted warp goes on from its frame, once its gang is placed and the frame is there; one whose frame cannot be read ends its
gang. A warp whose
halt is still pending goes on: what it waited in issues again (13 R364). -/
def resumeHalted (s : State) (warp : Nat) : State :=
  match warpOf s warp with
  | none => s
  | some w =>
    match w.mode, nodeOf s w with
    | .halted _, some (g, l, n) =>
      if !frameIn s l w then askFrame s l w
      else (match readFrame s l w with
       | none => terminate s g.uid 4 warp none
       | some b =>
         let w := w.resumed n b s
         updWarp s warp fun _ => if g.phase == .placed then w else { w with mode := .preempted })
    | .running, _ => if w.haltPending then updWarp (dropAsked s warp) warp fun w => { w.stopped s with haltPending := false } else s
    | _, _ => updWarp s warp fun w => { w with haltPending := false, forced := false }
/-- Whether a halted warp's launch has been resumed, so that it goes on once its frame is there. -/
def Warp.goesOnHalted (s : State) (w : Warp) : Bool :=
  (gangOf s w.gang).any fun g => (launchOf s g.launch).any fun l => !(tenantOf s l.tenant).dbg.contains l.uid
/-- DBG op 2. -/
def execDbgResume (tenant : Nat) (launch : BitVec 16) (s : State) : Out :=
  match numbered s tenant launch with
  | none => .next s
  | some l =>
    let s := updTenant s tenant fun t => { t with dbg := t.dbg.filter (· != l.uid) }
    .next (settle (((s.warps.filter (ofLaunch s l.uid)).map (·.uid)).foldl resumeHalted s))

/-- DBG op 3: a halt held pending stops the trap kernel at its next boundary, its first where it is still to start; FRAME_WRITE
makes the stop. -/
def execDbgForce (tenant : Nat) (launch : BitVec 16) (s : State) : Out :=
  match numbered s tenant launch with
  | none => .next s
  | some l => .next (mapWarps s fun w =>
      if ofLaunch s l.uid w && w.holdsHalt then { w with forced := true } else w)

/-- The trap kernel abandoned for a debugger. -/
def forceHalt (s : State) (warp : Nat) : State :=
  match warpOf s warp with
  | none => s
  | some w =>
    match nodeOf s w with
    | some (g, l, _) =>
      if !frameIn s l w then askFrame s l w
      else (match readFrame s l w with
       | none => terminate s g.uid 4 warp none
       | some b => haltKernel s warp true b)
    | none => s

/-! ## Frames (R397 step 4, R399, R413) -/

/-- The header of a frame for a strand that was done when its fault came (R273, R310): the held fault, or what %rerr
recorded. The lanes and the instruction of a recorded failure are not laid down: free (log entry 10). -/
def doneHead (s : State) (w : Warp) : FrameHead :=
  let failed := w.strands.filter fun k => k.isDone w.launched && (!k.faults.isEmpty || rerrV k.rerr)
  match failed with
  | [] => stopHead s 0 false false
  | k :: _ =>
    match k.faults with
    | f :: _ =>
      { cause := f.cause, sub := f.sub, strand := k.no, remote := f.remote, nested := false, forced := false, addr := f.addr,
        lanes := f.lanes, value := f.value, name := nameOf s { warp := w.uid, no := k.no } ((lowestLane f.lanes).getD 0) }
    | [] =>
      { cause := causeREMOTE, sub := field k.rerr 15 8, strand := k.no, remote := true, nested := false, forced := false,
        addr := k.rerrAddr, lanes := Config.freeLanes s.fresh, value := Config.freeAddress s.fresh, name := k.rerrName }

/-- The frame of a warp that its gang's end stopped (R397, R408 step 1): as that of the fault of a done strand (R273, R310), else
with no cause of its own (log entry 58). -/
def frameAtEnd (s : State) (warp : Nat) : State :=
  match warpOf s warp with
  | none => s
  | some w =>
    match nodeOf s w with
    | some (g, l, n) =>
      let bytes := frameBytes s n (teamOf g w) w (match g.phase with
        | .terminating 2 _ _ => doneHead s w
        | _ => stopHead s 0 false false)
      let s := updWarp s warp fun w => { w with formed := bytes }
      endWarp ((writeFrame s l w bytes).getD s) warp
    | none => endWarp s warp
/-- FRAME_WRITE: the stop of a trapped warp, of one to be halted, or of one whose gang ends, ends with its frame; a halt ends with the
frame read back. -/
def frameStep (s : State) (warp : Nat) : State :=
  match warpOf s warp with
  | none => s
  | some w =>
    if !w.drained s then s
    else match w.mode with
      | .stopping _ => writeTrapFrame s warp
      | .ending => frameAtEnd s warp
      | .running => if w.haltPending then haltWarp s warp else s
      | .handler => if w.haltPending && w.forced then forceHalt s warp else s
      | .halted _ => if w.goesOnHalted s then resumeHalted s warp else s
      | _ => s
def execFrameWrite (warp : Nat) (s : State) : Out := .next (frameStep s warp)

/-! ## Fault records (R405 to R408) -/

/-- The frame that a record carries. -/
def recordFrame (s : State) (g : Gang) (l : Launch) (n : NodeEntry) (w : Warp) (kind : Nat) : List Byte :=
  if kind = 1 then
    match readFrame s l w with
    | some b => leBytes 4 (sliceNat b 0 4 ||| 2 ^ 21) ++ b.drop 4
    | none => w.formed
  else if kind = 2 ∧ w.mode ≠ .terminated then frameBytes s n (teamOf g w) w (doneHead s w)
  else w.formed

/-- Whether the frame that a record carries is there, as one of kind 1 is read back for it; and it is asked for. -/
def recordIn (s : State) (l : Launch) (kind warp : Nat) : Bool := kind != 1 || ((warpOf s warp).all fun w => frameIn s l w)
def askRecord (s : State) (l : Launch) (warp : Nat) : State := ((warpOf s warp).map (askFrame s l)).getD s

def faultRecord (g : Gang) (l : Launch) (kind : Nat) (nested : Option TrapRec) (seq : Nat) (frame : List Byte) : List Byte :=
  let head := match nested with
    | some t => (t.cause, t.sub, t.addr, t.value)
    | none => (0, 0, 0, 0)
  leBytes 4 (kind + 256 * head.1 + 65536 * head.2.1) ++ leBytes 4 (l.number.toNat + 65536 * g.node) ++
  leBytes 8 g.index.toNat ++ leBytes 8 head.2.2.1.toNat ++ leBytes 8 head.2.2.2.toNat ++ zeros 24 ++ leBytes 8 seq ++
  padTo frameSize frame

/-- Steps 4 and 5 of a termination (R408); where a record has been written, the front end is told that it waits (14 R393): at
the four processors of the die that accepted the launch (DESIGN CHOICE, log entry 80). -/
def endRecord (s : State) (g : Gang) (l : Launch) (written : Bool) : State :=
  let s := raiseCause s l.tenant 3 (causeVector s l.tenant 3)
  retireGang (if written then signal s l.die sigFLT else s) g.uid true
/-- Step 3: the record written, if records are, all but its sequence number; one that fails is dropped with its number used. The
record of number 1 is the ring's record 0 (R406, R466). -/
def writeRecord (s : State) (g : Gang) (l : Launch) (kind warp : Nat) (nested : Option TrapRec) : State :=
  let tn := tenantOf s l.tenant
  if !tn.frecBase.getLsbD 0 then endRecord s g l false
  else
    let seq := tn.frecSeq + 1
    let frame := match warpOf s warp, l.nodes[g.node]? with
      | some w, some n => recordFrame s g l n w kind
      | _, _ => []
    let s := updTenant s l.tenant fun t => { t with frecSeq := seq }
    let va := ringBase tn.frecBase + 0xC000 * (tn.frecSeq % 2 ^ ringLog tn.frecSize 8)
    let r := faultRecord g l kind nested seq frame
    let job := s.nextId
    let put (s : State) (off : Nat) (bs : List Byte) : Option State :=
      writeAs s job l.tenant false unitCore .unit false (va + off) bs
    match (put { s with nextId := job + 1 } 0 (r.take seqOffset)).bind fun s => put s (seqOffset + 8) (r.drop (seqOffset + 8)) with
    | some s => updGang s g.uid fun g => { g with phase := .recording job (some (va + seqOffset, seq)) }
    | none => endRecord s g l false
where
  seqOffset : Nat := 0x38
/-- The sequence number, written last as a release at SYSTEM scope; then the record is whole. -/
def finishRecord (s : State) (g : Gang) (l : Launch) (rest : Option (Nat × Nat)) : State :=
  match rest with
  | none => endRecord s g l true
  | some (va, seq) =>
    match unitWrite s l.tenant false unitCore .unit true va (leBytes 8 seq) with
    | some s' => updGang s' g.uid fun g => { g with phase := .recording s.nextId none }
    | none => endRecord s g l false

/-- Whether an operation of the gang is still to end. -/
def gangBusy (s : State) (gang : Nat) : Bool :=
  s.ops.any fun o => (warpOf s o.owner.warp).any (·.gang == gang)

/-- Whether every warp of a gang that ends has stopped, its frame formed (R408 step 1). -/
def gangStopped (s : State) (gang : Nat) : Bool :=
  s.warps.all fun w => w.gang != gang || (match w.mode with
    | .stopping _ => false
    | .ending => false
    | _ => true)

/-- FAULT_RECORD_WRITE: once its warps have stopped and its operations have ended, the gang's record is written; once that is performed, the gang counts as
retired. -/
def execFaultRecordWrite (gang : Nat) (s : State) : Out :=
  match gangOf s gang with
  | none => .next s
  | some g =>
    match g.phase, launchOf s g.launch with
    | .terminating kind warp nested, some l =>
      if gangBusy s gang || !gangStopped s gang then .next s
      else if kind = noRecord then .next (retireGang s gang true)
      else if !recordIn s l kind warp then .next (askRecord s l warp)
      else .next (writeRecord s g l kind warp nested)
    | .recording job rest, some l => if jobDone s job then .next (finishRecord s g l rest) else .next s
    | _, _ => .next s

/-! ## Pre-emption (R415 to R417; 01 R33; 07 R210; 14 R390, R391) -/

def execPreemptionRequest (gang : Nat) (s : State) : Out := .next (requestPreempt s gang false)

/-- PREEMPTION_FORCE: 20 µs after the request, the strands of a warp outside its trap kernel stop where they stand. -/
def execPreemptionForce (gang : Nat) (s : State) : Out :=
  .next (mapWarps s fun w =>
    if w.gang = gang ∧ w.mode = .running ∧ w.preemptPending ∧ w.preemptAt + displaceNs ≤ s.ns then { w with forced := true }
    else w)

/-- Whether the next instruction of a strand is a safe point (02 R53): a 32-bit form or longer with S = 1. -/
def atSafePoint (s : State) (l : Launch) (w : Warp) (k : Strand) : Bool :=
  match fetchParcels s l k (k.issueAddress w.launched).toNat with
  | p :: _ => field p 15 14 == 3 && p.getLsbD 12
  | [] => false
/-- Whether a request has stopped a strand (R415, R416); one whose CALL or RET is under way has not come to a boundary. -/
def Strand.parked (s : State) (l : Launch) (w : Warp) (k : Strand) : Bool :=
  k.isDone w.launched ||
    (w.preemptPending && !inCall s k && (w.forced || k.wait.isSome || atSafePoint s l w k))
/-- Whether it has stopped a warp; a trap or a halt comes first (R398). -/
def Warp.parked (s : State) (l : Launch) (w : Warp) : Bool :=
  match w.mode with
  | .running => w.preemptPending && !w.haltPending && w.strands.all (·.parked s l w)
  | .handler => w.preemptPending && !(w.haltPending && w.forced) && (match w.kernel with
      | some k => !inCall s k && atSafePoint s l w k
      | none => false)
  | .halted _ => true
  | .retired => true
  | _ => false

/-- The registers that a strand counts live where a request stops it: at a safe point those that its live mask names, else
all (R415; 02 R53). Registers go by their places, sn at 64 + n. -/
def Strand.countsLive (s : State) (l : Launch) (w : Warp) (k : Strand) (r : Nat) : Bool :=
  if k.isDone w.launched || !atSafePoint s l w k then true
  else match (fetchParcels s l k (k.issueAddress w.launched).toNat).reverse with
    | lo :: hi :: _ :: _ => if r < 64 then hi.getLsbD (r / 4) else lo.getLsbD (8 + (r - 64) / 4)
    | _ => true
/-- Whether a register is saved: some strand of its warp counts it live. One that is not reads its value at the stop or 0
afterwards, a free choice (02 R54; 05 R165; log entry 53). -/
def Warp.keepsReg (s : State) (l : Launch) (w : Warp) (r : Nat) : Bool :=
  (w.strands.any fun k => k.countsLive s l w r) || Config.keepsDead s.fresh r
/-- A warp's registers as a pre-emption leaves them. -/
def Warp.savedRegs (s : State) (l : Launch) (w : Warp) : Warp :=
  { w with gregs := w.gregs.mapIdx fun r v => if w.keepsReg s l r then v else v.map fun _ => 0
           sregs := w.sregs.mapIdx fun r v => if w.keepsReg s l (64 + r) then v else 0 }

/-- A warp saved: its frame is written with cause 0x00; one in its trap kernel is saved from the frame as it stands, and a
halted one keeps its frame. A frame that cannot be written or read ends the gang. -/
def saveWarp (s : State) (warp : Nat) : State :=
  match warpOf s warp with
  | none => s
  | some w =>
    match w.mode, nodeOf s w with
    | .handler, some (g, l, n) =>
      (match readFrame s l w with
       | none => terminate s g.uid 4 warp none
       | some b => updWarp s warp fun _ => { w.resumed n b s with mode := .preempted })
    | .halted _, _ => s
    | m, some (g, l, n) =>
      let kept := (w.savedRegs s l).stopped s
      let bytes := frameBytes s n (teamOf g w) kept (stopHead s 0 false false)
      let s := updWarp (dropAsked s warp) warp fun _ => { kept with formed := bytes }
      (match writeFrame s l w bytes with
       | none => terminate (endWarp s warp) g.uid 4 warp none
       | some s => updWarp s warp fun w => { w with mode := if m = .retired then m else .preempted })
    | _, none => s

/-- The bytes of a buffer, then of its tags. -/
def Buffer.image (b : Buffer) : List Byte := (List.range b.limit).map fun i => BitVec.ofNat 8 (tget 0 b.bytes i)
def Buffer.tagImage (b : Buffer) : List Byte := (List.range (b.limit / 64)).flatMap fun i => leBytes 2 (tget 0 b.tags i)
/-- The tiles of a team's warps, and their tags, which are 0. -/
def tileImage (ws : List Warp) : List Byte :=
  ws.flatMap fun w => w.tiles.flatMap fun t => (List.range 4096).flatMap fun i => leBytes 4 (tget 0 t.2 i)
/-- What a save area holds of a team; the form of its rack and rendezvous state is open: free (log entry 10). -/
def teamImage (s : State) (ws : List Warp) (t : Team) (at_ : Nat) : List Byte :=
  let k := tileImage ws
  t.w.image ++ t.a.image ++ k ++ t.w.tagImage ++ t.a.tagImage ++ zeros (k.length / 32) ++
  (List.range 1024).map fun i => Config.freeSaved s.fresh (at_ + i)
def saveHeader (s : State) (g : Gang) (l : Launch) (n : NodeEntry) : List Byte :=
  leBytes 8 (l.number.toNat + 65536 * g.node + 2 ^ 32 * g.index.toNat) ++
  leBytes 8 (l.priority + 16 * n.teams + 256 * (n.teams * n.warps)) ++ leBytes 8 s.ns
/-- The area of a gang as its save leaves it, its frames apart; a write that fails is dropped. -/
def writeArea (s : State) (g : Gang) (l : Launch) (n : NodeEntry) : State :=
  let put (s : State) (off : Nat) (bs : List Byte) : State :=
    unitStore s l.tenant l.privileged .unit (g.save.toNat + off) bs
  let s := put s 0 (saveHeader s g l n)
  let ws (t : Nat) : List Warp := s.warps.filter fun w => w.gang == g.uid && w.team == t
  put s (0x100 + frameSize * (n.teams * n.warps))
    ((g.teams.zipIdx).flatMap fun x => teamImage s (ws x.2) x.1 (1024 * x.2))

/-- Whether a gang may be saved: every warp has stopped, its operations have ended and its stores are performed. -/
def readyToSave (s : State) (l : Launch) (gang : Nat) : Bool :=
  let ws := s.warps.filter (·.gang == gang)
  ws.any (·.preemptPending) && ws.all (·.parked s l) && !gangBusy s gang &&
  !(s.pend.any fun p => ws.any fun w => w.uid == p.owner.warp)

/-- Whether the frames of a gang's warps that its save reads back are there: those of warps in their trap kernel; and they are asked
for. -/
def savesIn (s : State) (l : Launch) (gang : Nat) : Bool :=
  s.warps.all fun w => w.gang != gang || w.mode != .handler || frameIn s l w
def askSaves (s : State) (l : Launch) (gang : Nat) : State :=
  (s.warps.filter fun w => w.gang == gang && w.mode == .handler).foldl (fun s w => askFrame s l w) s

/-- A gang moved on its own cores is restored there at once (05 R157). -/
def putBack (s : State) (gang : Nat) : State :=
  match gangOf s gang with
  | none => s
  | some g =>
    match launchOf s g.launch with
    | none => s
    | some l =>
      match l.nodes[g.node]? with
      | none => s
      | some n =>
        match allSome (((List.range n.coreCount).zip g.cores).map fun x => fitCore s n x.1 x.2) with
        | some fits => if g.compact then resumeGang s l g n fits else s
        | none => s

/-- PREEMPTION_SAVE: pins are published, frames and buffers saved, the cores freed, and the gang waits for placement. -/
def execPreemptionSave (gang : Nat) (s : State) : Out :=
  match gangOf s gang with
  | none => .next s
  | some g =>
    match launchOf s g.launch with
    | none => .next s
    | some l =>
      match l.nodes[g.node]? with
      | none => .next s
      | some n =>
        if g.phase != .placed || !readyToSave s l gang then .next s
        else if !savesIn s l gang then .next (askSaves s l gang)
        else
          let ws := (s.warps.filter (·.gang == gang)).map (·.uid)
          let s := publishPins s (heldBy ws)
          let s := ws.foldl saveWarp s
          match (gangOf s gang).map (·.phase) with
          | some GangPhase.placed =>
            let s := writeArea s g l n
            let s := crumb s l g 0 0 false g.die 0 0 4 0 0
            let s := updGang s gang fun g =>
              { g with phase := .queued s.cycles s.ns true l.priority, lastSave := s.ns, compactSince := s.cycles, clearing := none }
            .next (settle (putBack s gang))
          | _ => .next s

/-- GANG_RESUME: a saved gang is placed whole on a yard of any die. -/
def execGangResume (gang yard : Nat) (s : State) : Out :=
  match gangOf s gang with
  | some g =>
    match g.phase with
    | .queued _ _ true _ => .next ((tryPlace s g yard).getD s)
    | _ => .next s
  | none => .next s

/-! ## Soft errors (R420 to R423) -/

/-- An uncorrectable error in a warp's registers: POISON 1, which ends its gang. Its strand, instruction, address and lanes
are not laid down: free (log entry 10). -/
def poisonWarp (s : State) (warp : Nat) : State :=
  match warpOf s warp with
  | none => s
  | some w =>
    match nodeOf s w with
    | some (g, l, _) =>
      if !w.canHalt then s
      else
        let lanes := Config.freeLanes s.fresh
        let t : TrapRec :=
          { strand := (Config.freeStrand s.fresh).toNat, cause := causePOISON, sub := 1,
            addr := Config.freeAddress s.fresh, lanes, value := Config.freeAddress (s.fresh + 1), remote := false,
            name := nameIn l g w ((lowestLane lanes).getD 0), issued := false }
        takeTrap s l g w t
    | none => s
def Buffer.mark (b : Buffer) (line : Nat) : Buffer :=
  if 64 * line < b.limit then { b with poison := insertNat line b.poison } else b

/-- SOFT_ERROR: what is corrected or fetched again changes nothing; a sole copy is poisoned. -/
def execSoftError (e : SoftSite) (s : State) : Out :=
  match e with
  | .corrected => .next s
  | .codeStore _ => .next s
  | .cleanLine _ => .next s
  | .control => .next s
  | .dirtyLine line => .next { s with mem := s.mem.mark line }
  | .buffer gang team wbuf line =>
    let hit (t : Team) : Team := if wbuf then { t with w := t.w.mark line } else { t with a := t.a.mark line }
    .next (updGang s gang fun g => { g with teams := g.teams.modify team hit })
  | .tile warp frame line =>
    let marked (w : Warp) : Warp :=
      if frame < w.tiles.length ∧ line < 256 then { w with tilePoison := (frame, line) :: w.tilePoison.filter (· != (frame, line)) }
      else w
    .next (updWarp s warp marked)
  | .register warp => .next (poisonWarp s warp)

end Sys2Proof.Machine
end

