-- ==== Sys2Proof/Machine/Observe.lean ====
section
/-! DEFINITION. Trace crumbs of strands and the trace ring's register (spec/16_observe.md R427 to R431). -/

namespace Sys2Proof.Machine

/-- One crumb of kind 0 for each lane listed (R431). -/
def Ctx.traceLanes (c : Ctx) (f : TraceF) (ls : List Nat) : State :=
  ls.foldl (fun s l => crumb s c.l c.g c.w0.team c.w0.num c.handler (dieOfCore c.w0.core) l c.no 0 f.mark.toNat
    (if f.v then (c.slot f.a.toNat l).toNat else 0)) c.s

/-- TRACE: the arbiter accepts its crumbs at once, and it retires (R430). -/
def execTrace (f : TraceF) (s : State) : Out :=
  withStrand (.trace f) none s fun c =>
    ({ c with s := c.traceLanes f (if f.all then c.lanes else c.lanes.take 1) } : Ctx).retire

/-- A write of TRC.BASE: the sequence starts at 0 when EN rises (R427). -/
def execTrcBaseWrite (tenant : Nat) (value : DWord) (s : State) : Out :=
  .next (updTenant s tenant fun t =>
    { t with trcBase := areaBaseMask value,
             trcSeq := if value.getLsbD 0 && !t.trcBase.getLsbD 0 then 0 else t.trcSeq })

end Sys2Proof.Machine
end

