-- ==== Sys2Proof/Machine/Packets.lean ====
section
/-! DEFINITION. Packets: their start, the work a slot does itself, arrays of packets, and completion
(spec/14_queues.md R379, R382 to R388). -/

namespace Sys2Proof.Machine

/-! ## Fields (R382, R383) -/

def Packet.quad (p : Packet) (off : Nat) : DWord := BitVec.ofNat 64 (sliceNat p.bytes off 8)
def Packet.control (p : Packet) : Word := BitVec.ofNat 32 (sliceNat p.bytes 0 4)
def Packet.type (p : Packet) : Nat := field p.control 7 0
def Packet.barrier (p : Packet) : Bool := p.control.getLsbD 8
def Packet.acq (p : Packet) : Nat := field p.control 11 9
def Packet.rel (p : Packet) : Nat := field p.control 14 12
def Packet.irq (p : Packet) : Bool := p.control.getLsbD 15
def Packet.seq (p : Packet) : Nat := sliceNat p.bytes 4 4
def Packet.done (p : Packet) : DWord := p.quad 8
def Packet.setMask (p : Packet) : BitVec 256 := BitVec.ofNat 256 (sliceNat p.bytes 0x30 32)
def Packet.clearMask (p : Packet) : BitVec 256 := BitVec.ofNat 256 (sliceNat p.bytes 0x50 32)
/-- Whether the bytes from an offset of the packet to its end are 0. -/
def Packet.zeroFrom (p : Packet) (off : Nat) : Bool := (p.bytes.drop off).all (· == 0)

/-- Whether every field that the type does not use is 0. -/
def Packet.unusedZero (p : Packet) : Bool :=
  field p.control 31 16 == 0 &&
  (match p.type with
   | 0 => p.zeroFrom 0x50
   | 1 => field (p.quad 0x60) 63 44 == 0 && field (p.quad 0x60) 7 6 == 0 && field (p.quad 0x78) 31 4 == 0
   | 2 => field (p.quad 0x60) 63 32 == 0 && p.zeroFrom 0x68
   | 3 => p.zeroFrom 0x70
   | 4 => field (p.quad 0x68) 63 3 == 0 && p.zeroFrom 0x78
   | 5 => p.zeroFrom 0x58
   | _ => p.zeroFrom 0x60)
/-- Size of the word that a WAITVAL reads. -/
def Packet.waitSize (p : Packet) : Nat := if (p.quad 0x68).getLsbD 2 then 8 else 4
/-- The code of a packet that fails a check at its start, or 0 (R387); the order is log entry 36. -/
def Packet.startCode (p : Packet) : Nat :=
  let a := (p.quad 0x50).toNat
  if 6 < p.type then 0x01
  else if !p.unusedZero then 0x02
  else if p.done.toNat % 8 ≠ 0 then 0x0D
  else if (p.type = 5 ∧ a % 8 ≠ 0) ∨ (p.type = 4 ∧ a % p.waitSize ≠ 0) ∨ (p.type = 6 ∧ a % 128 ≠ 0) then 0x0A
  else if p.type = 6 ∧ (p.parent.isSome ∨ (p.quad 0x58).toNat = 0 ∨ 65536 < (p.quad 0x58).toNat) then 0x0C
  else 0

def packetOf (s : State) (id : Nat) : Option Packet := s.packets.find? (·.id == id)
def updPacket (s : State) (id : Nat) (f : Packet → Packet) : State := { s with packets := updFirst (·.id == id) f s.packets }
def setPhase (s : State) (id : Nat) (ph : PacketPhase) : State := updPacket s id fun p => { p with phase := ph }
def packetPriv (s : State) (p : Packet) : Bool := (queueOf s p.tenant p.queue).privileged
def packetDie (s : State) (p : Packet) : Nat := (queueOf s p.tenant p.queue).die

/-! ## Starting (R384 to R386) -/

/-- A packet that has been read, before its start. -/
def readPacket (s : State) (t q position : Nat) (parent : Option Nat) (bytes : List Byte) : State :=
  let p : Packet :=
    { id := s.nextId, tenant := t, queue := q, position, parent, bytes, phase := .waiting false, left := 0, next := 0,
      broken := 0, asked := [], got := [] }
  let met := p.waitMask &&& (tenantOf s t).events == p.waitMask
  { s with nextId := s.nextId + 1, packets := s.packets ++ [{ p with phase := .waiting met }] }
/-- Whether a packet that has been read may start, among the started packets of its queue. -/
def mayStart (p : Packet) (started : List Packet) : Bool :=
  (match p.phase with
   | .waiting met => met
   | _ => false) && (!p.barrier || started.isEmpty) && decide (started.length < 64)
/-- It starts; one that fails a check does no work. The slot's ACQ at the packet's acquire scope comes first: a slot keeps no
copy of a line and has no read outstanding, so that the ACQ is made at once, and every later read of its work goes to the
home at that scope. -/
def beginPacket (s : State) (p : Packet) : State :=
  setPhase s p.id (if p.startCode = 0 then .started s.ns else .ending p.startCode)

/-- A waiting packet of a queue started where it may. -/
def tryStart (s : State) (t q : Nat) : State :=
  match waitingOf s t q with
  | none => s
  | some p =>
    if mayStart p (startedOf s t q) then
      mirrorQueue (beginPacket (updQueue s t q fun x => { x with rindex := x.rindex + 1 }) p) t q
    else s
/-- Whether a queue's slot fetches and starts packets. -/
def fetching (x : Queue) : Bool := x.state == .mapped && !x.disabling && x.resetTo.isNone

/-- PACKET_START: the slot of a mapped queue reads its next packet, and starts it once it may. -/
def execPacketStart (tenant queue : Nat) (s : State) : Out :=
  let x := queueOf s tenant queue
  if !fetching x then .next s
  else match waitingOf s tenant queue with
    | some _ => .next (tryStart s tenant queue)
    | none =>
      if x.rindex = x.windex ∨ 64 ≤ (startedOf s tenant queue).length then .next s
      else match unitRead s tenant x.privileged scopeSYSTEM x.entryAddr 128 0 with
        | .ok s bs => .next (tryStart (readPacket s tenant queue x.rindex.toNat none bs) tenant queue)
        | .fail s _ => .next (queueFails s tenant queue 2)
        | .wait s => .next s

/-- A started packet of a type, for its work. -/
def withPacket (s : State) (id type : Nat) (f : Packet → Nat → Out) : Out :=
  match packetOf s id with
  | some p => (match p.phase with
      | .started ns => if p.type = type then f p ns else .next s
      | _ => .next s)
  | none => .next s

/-! ## NOP, EVENT, TIMESTAMP, WAITVAL (R383) -/

def execNopPacket (packet : Nat) (s : State) : Out :=
  withPacket s packet 0 fun _ _ => .next (setPhase s packet (.ending 0))

def execEvent (packet : Nat) (s : State) : Out :=
  withPacket s packet 3 fun p _ =>
    .next (setPhase (changeEvents s p.tenant fun v => v &&& ~~~p.clearMask) packet (.ending 0))

def execTimestamp (packet : Nat) (s : State) : Out :=
  withPacket s packet 5 fun p ns =>
    match unitWrite s p.tenant (packetPriv s p) unitCore (.packet packet) false (p.quad 0x50).toNat (leBytes 8 ns) with
    | some s => .next (setPhase s packet (.ending 0))
    | none => .next (setPhase s packet (.ending 0x0A))

/-- Whether a WAITVAL's condition holds of the word read. -/
def Packet.holds (p : Packet) (word : Nat) : Bool :=
  let n := 8 * p.waitSize
  let a := BitVec.ofNat n word &&& (p.quad 0x60).setWidth n
  let v := (p.quad 0x58).setWidth n
  match field (p.quad 0x68) 1 0 with
  | 0 => a == v
  | 1 => a != v
  | 2 => decide (v.toNat ≤ a.toNat)
  | _ => decide (a.toNat < v.toNat)
/-- One read, at the acquire scope, of a WAITVAL that started at ns. -/
def pollWaitval (s : State) (p : Packet) (ns : Nat) : State :=
  match packetRead s p.id p.tenant (packetPriv s p) p.acq (p.quad 0x50).toNat p.waitSize 0x0A with
  | .fail s c => setPhase s p.id (.ending c)
  | .ok s bs => setPhase s p.id (if p.holds (leNat bs) then .ending 0 else .polling ns s.ns)
  | .wait s => setPhase s p.id (.polling ns s.ns)
/-- WAITVAL: the first read. -/
def execWaitval (packet : Nat) (s : State) : Out := withPacket s packet 4 fun p ns => .next (pollWaitval s p ns)
/-- WAITVAL_POLL: a further read. -/
def execWaitvalPoll (packet : Nat) (s : State) : Out :=
  match packetOf s packet with
  | some p => (match p.phase with
      | .polling ns _ => .next (pollWaitval s p ns)
      | _ => .next s)
  | none => .next s
def Packet.timeoutNs (p : Packet) : Nat := 1000 * (p.quad 0x70).toNat
/-- WAITVAL_TIMEOUT. -/
def execWaitvalTimeout (packet : Nat) (s : State) : Out :=
  match packetOf s packet with
  | some p => (match p.phase with
      | .polling ns _ =>
        if p.timeoutNs ≠ 0 ∧ ns + p.timeoutNs ≤ s.ns then .next (setPhase s packet (.ending 0x0B)) else .next s
      | _ => .next s)
  | none => .next s

/-! ## COPY (R383; 09 R260, R265) -/

/-- The copy of a packet as CPYL with dir 2 makes it; its operation is the packet's. -/
def packetJob (p : Packet) : CopyJob :=
  { f := { sp := none, dir := 2, buf := false, rk := false, rack := 0, sb := 0, cb := 0, cw := false, chk := false, fmt := 0,
           rm := 0, boff := 0, g := 0, rg := 0 }
    kind := 0, leader := 0
    regs := [(p.quad 0x50).lo, (p.quad 0x50).hi, (p.quad 0x58).lo, (p.quad 0x58).hi]
    base := p.quad 0x60, word := 0, rows := [], wordPa := 0, slotNo := 0, rm := 0, seed := 0, record := none, asked := [],
    got := [], left := [], noise := [], phase := 0 }
def packetOp (p : Packet) : Op :=
  { id := p.id, owner := unitOwner, value := 0, exec := 1, queued := none, cancelled := none, steps := [],
    body := .copy (packetJob p) }
/-- Lines of a packet's copy checked and placed; CPYL's may reach the tag window. -/
def packetLines (s : State) (p : Packet) (write : Bool) (xs : List (Nat × Nat)) : Except (Failure × Nat) (List (Nat × Target)) :=
  placeLines s p.tenant { size := 8, write, tagOk := true, priv := packetPriv s p } (lineHeads xs)
/-- Every source line read: the lines of the destination are written. -/
def landPacket (s : State) (p : Packet) (plan : Plan) (dst : List (Nat × Target)) : State :=
  let s := (linesOut (plan.out (sourceOf p.got))).foldl (fun s x => match dst.find? (·.1 == x.line) with
    | some (_, t) => landLine s (.packet p.id) (packetOp p) noName p.tenant t x
    | none => s) s
  setPhase s p.id (.ending 0)
/-- A packet's copy: a line of the part read at the packet's acquire scope, one at a time; those outside it asked for together;
then the destination is written. -/
def runPacketCopy (s : State) (p : Packet) : State :=
  let plan := linearPlan (packetJob p) 0
  let unread (t : Nat × Target) : Bool := !(p.got.any (·.1 == t.1))
  match packetLines s p false plan.src, packetLines s p true plan.dst with
  | .ok src, .ok dst =>
    if (src ++ dst).any fun t => linkDown s p.tenant t.2 then setPhase s p.id (.ending 0x0A)
    else
      match src.find? fun t => unread t && !isRemote t.2 with
      | some (line, t) =>
        (match readHomes (scopeEvent p.acq) (homeLines t) s with
         | (s, .done) =>
           updPacket (dropAnswers s none 0 (homeLines t)) p.id fun q =>
             { q with got := q.got ++ [(line, readLine (asAnswered s none 0) unitCore (packetOp p) t)] }
         | (s, .error _) => setPhase s p.id (.ending 0x0A)
         | (s, _) => s)
      | none =>
        match src.filter unread with
        | [] => landPacket s p plan dst
        | out =>
          if !p.asked.isEmpty then s
          else
            let s := sendAll s (out.map fun t => .request p.id t.2 p.tenant .read 64 [] none 0 false noName)
            updPacket s p.id fun q => { q with asked := out }
  | _, _ => setPhase s p.id (.ending 0x0A)
def execCopyPacket (packet : Nat) (s : State) : Out := withPacket s packet 2 fun p _ => .next (runPacketCopy s p)

/-! ## Hand-over to the front end (R379, R393) -/

def freeEntry (s : State) (die : Nat) : Option Nat := (dieOf s die).entries.findIdx? (·.isNone)
def setEntry (s : State) (die i : Nat) (e : Option BufEntry) : State :=
  let d := dieOf s die
  setDie s die { d with entries := d.entries.set i e }
/-- A started packet placed in its die's packet buffer and handed over; it waits while the buffer is full. -/
def handOver (s : State) (p : Packet) : State :=
  let die := packetDie s p
  match freeEntry s die with
  | none => s
  | some i =>
    let s := setEntry s die i (some { packet := p.id, tenant := p.tenant, privileged := packetPriv s p, bytes := p.bytes })
    let d := dieOf s die
    signal (setPhase (setDie s die { d with pktq := d.pktq ++ [i] }) p.id .handed) die sigPKT
/-- The entry of a handed-over packet, if it stands first. -/
def firstEntry (s : State) (die : Nat) : Option (Nat × BufEntry) :=
  match (dieOf s die).pktq with
  | i :: _ => (match (dieOf s die).entries[i]? with
      | some (some e) => some (i, e)
      | _ => none)
  | [] => none
/-- The first handed-over entry taken. -/
def takeEntry (s : State) (die : Nat) : State :=
  let d := dieOf s die
  setDie s die { d with pktq := d.pktq.drop 1 }

/-! ## INDIRECT (R383, R385) -/

def childrenOf (s : State) (id : Nat) : List Packet := s.packets.filter (·.parent == some id)
/-- A step of an array: its waiting packet starts, else its next one is read, else the array ends. -/
def stepArray (s : State) (p : Packet) : State :=
  let cs := childrenOf s p.id
  let started := cs.filter isStarted
  match cs.find? fun c => !isStarted c with
  | some c => if mayStart c started then beginPacket s c else s
  | none =>
    if p.left = 0 ∨ p.broken ≠ 0 then (if cs.isEmpty then setPhase s p.id (.ending p.broken) else s)
    else if 64 ≤ started.length then s
    else match packetRead s p.id p.tenant (packetPriv s p) scopeSYSTEM p.next.toNat 128 0x0A with
      | .fail s c => updPacket s p.id fun p => { p with broken := c }
      | .wait s => s
      | .ok s bs =>
        readPacket (updPacket s p.id fun p => { p with left := p.left - 1, next := p.next + 128 }) p.tenant p.queue
          ((p.quad 0x58).toNat - p.left) (some p.id) bs
/-- INDIRECT: handed over, taken up by the firmware in its turn, then run packet by packet. -/
def execIndirect (packet : Nat) (s : State) : Out :=
  match packetOf s packet with
  | none => .next s
  | some p =>
    if p.type ≠ 6 then .next s
    else match p.phase with
      | .started _ => .next (handOver s p)
      | .handed =>
        let die := packetDie s p
        (match firstEntry s die with
         | some (i, e) =>
           if e.packet = packet then
             .next (updPacket (setEntry (takeEntry s die) die i none) packet fun p =>
               { p with phase := .running, left := (p.quad 0x58).toNat, next := p.quad 0x50 })
           else .next s
         | none => .next s)
      | .running => .next (stepArray s p)
      | _ => .next s

/-! ## LAUNCH's end (R383) -/

/-- LAUNCH_TIMEOUT: every gang of the launch ends, and its records are discarded. -/
def execLaunchTimeout (launch : Nat) (s : State) : Out :=
  match launchOf s launch with
  | some l =>
    (match l.timeout with
     | some d =>
       if d ≤ s.ns ∧ !l.timedOut then .next (stopLaunch (updLaunch s l.uid fun l => { l with timedOut := true }) l.uid)
       else .next s
     | none => .next s)
  | none => .next s

/-! ## Completion (R384) -/

/-- Whether the work of a packet has ended, so that the release of its completion is made: what it stored is performed at its home
or acknowledged from outside the part, as a CPYL's lines are (09 R267), and so are the tenant's crumbs (16 R429). A warp retires
only once its own accesses are (R310), and an array's packets complete before their INDIRECT. -/
def workReleased (s : State) (p : Packet) : Bool :=
  !(s.pend.any fun x => x.writer == .packet p.id || x.writer == .crumb p.tenant) &&
  !(s.posted.any fun x => x.writer == .packet p.id || x.writer == .crumb p.tenant)
/-- Step 4, and the packet gone; its queue is in error where its completion word could not be written. -/
def finishPacket (s : State) (p : Packet) (failed : Bool) : State :=
  let s := if failed then queueFails s p.tenant p.queue 4 else s
  let x := queueOf s p.tenant p.queue
  let s := if p.irq then raiseCause s p.tenant 0 x.vector else s
  firmware (dropReads { s with packets := s.packets.filter (·.id != p.id) } p.tenant p.id) x.die
/-- Steps 1 to 3 of a packet whose work has ended: the release, the set mask, and the completion word on its way. -/
def endPacket (s : State) (p : Packet) (code : Nat) : State :=
  if !workReleased s p then s
  else
    let s := changeEvents s p.tenant fun v => v ||| p.setMask
    if p.done = 0 ∨ p.done.toNat % 8 ≠ 0 then finishPacket s p false
    else match unitWrite s p.tenant (packetPriv s p) unitCore (.packet p.id) true p.done.toNat (leBytes 4 code ++ leBytes 4 p.seq) with
      | some s' => setPhase s' p.id (.writing s.nextId code)
      | none => finishPacket s p true
/-- PACKET_COMPLETION: the steps of a packet whose work has ended, as far as they may be taken. -/
def execPacketCompletion (packet : Nat) (s : State) : Out :=
  match packetOf s packet with
  | none => .next s
  | some p =>
    match p.phase with
    | .ending code => .next (endPacket s p code)
    | .writing job _ => if jobDone s job then .next (finishPacket s p false) else .next s
    | .wordFailed => .next (finishPacket s p true)
    | _ => .next s

end Sys2Proof.Machine
end

