-- ==== Sys2Proof/Machine/Launches.lean ====
section
/-! DEFINITION. Accepting a LAUNCH: the image, its checks, the argument block and the troughs (spec/02_encoding.md R45,
R71 to R77; spec/01_work.md R16, R22, R23, R27, R29, R38; spec/05_registers.md R167; spec/10_memory.md R288;
spec/13_nodes.md R353, R355, R366; spec/14_queues.md R383, R387, R390; spec/18_package.md R462; spec/19_programs_strands.md
R464). -/

namespace Sys2Proof.Machine

/-! ## The image (R71 to R74, R464) -/

/-- The part's capability register (R76). -/
def capability : Nat := 0x1FF

structure ImageHead where
  magic : Nat
  major : Nat
  headSize : Nat
  size : Nat
  count : Nat
  features : Nat
  codeOff : Nat
  codeLen : Nat
  dataOff : Nat
  dataLen : Nat
  nodesOff : Nat
  trap : Nat
  priv : Nat
  deriving DecidableEq, Repr

def parseHead (b : List Byte) : ImageHead :=
  { magic := sliceNat b 0 4, major := sliceNat b 5 1, headSize := sliceNat b 6 2, size := sliceNat b 8 4,
    count := sliceNat b 0xC 1, features := sliceNat b 0x10 16, codeOff := sliceNat b 0x20 4, codeLen := sliceNat b 0x24 4,
    dataOff := sliceNat b 0x28 4, dataLen := sliceNat b 0x2C 4, nodesOff := sliceNat b 0x30 4, trap := sliceNat b 0x34 4,
    priv := sliceNat b 0x38 4 }
def ImageHead.formed (h : ImageHead) : Bool := h.magic == 0x49374E48 && h.major == 1 && h.headSize == 0x80
def noTrap : Nat := 0xFFFFFFFF

/-- Strands of a table of n entries. -/
def readStrands (b : List Byte) (off n : Nat) : List (Nat × Nat × Nat) :=
  (List.range n).map fun i => (sliceNat b (off + 12 * i) 1, sliceNat b (off + 12 * i + 4) 4, sliceNat b (off + 12 * i + 8) 4)
/-- A register table. -/
def readRegs (b : List Byte) (off : Nat) : List (Nat × BitVec 16) :=
  (List.range 96).map fun i => (sliceNat b (off + 4 * i) 1, BitVec.ofNat 16 (sliceNat b (off + 4 * i + 2) 2))

/-- A node entry with where its tables lie, and its K granules. -/
structure RawNode where
  entry : NodeEntry
  strandsOff : Nat
  regsOff : Nat
  kGranules : Nat
  grain : Nat
  deriving DecidableEq, Repr
def readNode (b : List Byte) (off : Nat) : RawNode :=
  let at_ (o n : Nat) : Nat := sliceNat b (off + o) n
  let teams := at_ 9 1
  { entry :=
      { warpGrain := at_ 0 1 == 1, target := at_ 1 1, maxDepth := at_ 2 1, recordSize := at_ 3 1, timer := at_ 4 4,
        warps := at_ 8 1, teams, strands := readStrands b (at_ 0x10 4) (at_ 0xA 1),
        cores := (List.range teams).map fun i => at_ 0xC 2 / 4 ^ i % 4,
        regs := readRegs b (at_ 0x14 4),
        granules := (List.range 8).map fun c => at_ (0x18 + c) 1,
        tiles := (List.range 8).map fun c => at_ 0x20 2 / 4 ^ c % 4,
        racks := at_ 0x22 1, points := at_ 0x23 1, wGranules := at_ 0x24 2, aGranules := at_ 0x26 2 }
    strandsOff := at_ 0x10 4, regsOff := at_ 0x14 4, kGranules := at_ 0x28 2, grain := at_ 0 1 }

/-- The trap kernel's tables as a node entry: one strand, its registers, and no resources of its own. -/
def readTrap (b : List Byte) (off : Nat) : NodeEntry :=
  { warpGrain := false, target := 1, maxDepth := 0, recordSize := 1, timer := 1, warps := 1, teams := 1,
    strands := readStrands b off 1, cores := [0], regs := readRegs b (off + 12), granules := [], tiles := [], racks := 0,
    points := 0, wGranules := 0, aGranules := 0 }

structure Image where
  addr : Nat
  head : ImageHead
  nodes : List RawNode
  trap : Option NodeEntry
  bytes : List Byte
  deriving DecidableEq, Repr
def parseImage (addr : Nat) (b : List Byte) : Image :=
  let h := parseHead b
  { addr, head := h, nodes := (List.range h.count).map fun i => readNode b (h.nodesOff + 64 * i),
    trap := if h.trap = noTrap then none else some (readTrap b h.trap), bytes := b }
def Image.code (m : Image) : List Parcel :=
  (List.range m.head.codeLen).map fun i => BitVec.ofNat 16 (sliceNat m.bytes (m.head.codeOff + 2 * i) 2)

/-! ## Checks in the order of R75 -/

/-- Tables, code and data within the image size. -/
def Image.inside (m : Image) : Bool :=
  let h := m.head
  let fits (off n : Nat) : Bool := decide (off + n ≤ h.size)
  fits h.nodesOff (64 * h.count) && fits h.codeOff (2 * h.codeLen) && fits h.dataOff h.dataLen &&
  (m.nodes.all fun n => fits n.strandsOff (12 * n.entry.strands.length) && fits n.regsOff 384) &&
  (h.trap == noTrap || fits h.trap (12 + 384))
def inRange (lo hi n : Nat) : Bool := decide (lo ≤ n) && decide (n ≤ hi)
/-- A node entry's fields within their ranges (R72; K granules, 08 R229). -/
def RawNode.ranged (n : RawNode) : Bool :=
  let e := n.entry
  inRange 0 1 n.grain && inRange 1 (if e.warpGrain then 16 else 64) e.target && inRange 0 63 e.maxDepth &&
  inRange 1 16 e.recordSize && decide (1 ≤ e.timer) && inRange 1 16 e.warps && inRange 1 8 e.teams &&
  inRange 1 16 e.strands.length && n.strandsOff % 4 == 0 && n.regsOff % 4 == 0 && e.granules.all (inRange 0 32) &&
  e.tiles.all (inRange 0 2) && inRange 0 32 e.racks && inRange 0 24 e.points && inRange 0 128 e.wGranules &&
  inRange 0 128 e.aGranules && inRange 0 64 n.kGranules && n.kGranules == 4 * e.warps * e.tiles.foldl (· + ·) 0 &&
  e.strands.all fun k => decide (k.1 < 16)
def Image.ranged (m : Image) : Bool :=
  let h := m.head
  inRange 1 64 h.count && h.codeOff % 2 == 0 && inRange 1 65536 h.codeLen && h.nodesOff % 64 == 0 && h.priv % 16 == 0 &&
  m.nodes.all (·.ranged) &&
  (match m.trap with
   | some t => t.strands.all (·.1 == 0)
   | none => true)
/-- R32: team 0 takes core 0, and each other a core already used or the next. -/
def coreMapOk : Nat → List Nat → Bool
  | _, [] => true
  | next, c :: cs => decide (c ≤ next) && coreMapOk (max next (c + 1)) cs
/-- R16 and R27. -/
def NodeEntry.shapeOk (n : NodeEntry) : Bool :=
  shapeFits n && decide (n.target ≤ n.warps * n.teams * (if n.warpGrain then 1 else 64))
/-- Ascending accumulators, from lo. -/
def ascending : Nat → List (Nat × Nat × Nat) → Bool
  | _, [] => true
  | lo, k :: ks => decide (lo ≤ k.1) && ascending (k.1 + 1) ks
def NodeEntry.extentsOk (n : NodeEntry) (codeLen : Nat) : Bool :=
  ascending 0 n.strands && n.strands.all fun k => decide (k.2.1 + k.2.2 ≤ codeLen)
/-- Writers and readers in the strand table, and a writer wherever there are readers. -/
def NodeEntry.regsOk (n : NodeEntry) : Bool :=
  let have_ (k : Nat) : Bool := n.strands.any (·.1 == k)
  n.regs.all fun r => if r.1 = 255 then r.2 == 0 else have_ r.1 && (readersOf r.2).all have_

/-- The tenant's pools hold one gang of every node (R288, R390). -/
def poolsOk (t : Tenant) (m : Image) : Bool :=
  areaEnabled t.csaveBase &&
  m.nodes.all (fun n => decide (n.entry.saveBytes ≤ areaBytes t.csaveSize)) &&
  (m.head.priv == 0 || (areaEnabled t.privBase &&
    m.nodes.all fun n => decide (64 * m.head.priv * (n.entry.warps * n.entry.teams) ≤ areaBytes t.privSize)))
/-- R23. -/
def widthsOk (m : Image) (w : List Nat) : Bool :=
  match w with
  | w0 :: w1 :: w2 :: _ =>
    w0 == 6 && decide (w1 ≤ 4) && decide (w2 ≤ 3) && decide (w.foldl (· + ·) 0 ≤ 64) &&
    m.nodes.all fun n => decide (n.entry.warps ≤ 2 ^ w1) && decide (n.entry.teams ≤ 2 ^ w2)
  | _ => false

/-- The first check that fails gives its code; 0 where all pass. The pools' check stands after that of the features and before that of
the widths (DESIGN CHOICE, log entry 42). -/
def Image.code75 (m : Image) (t : Tenant) (seed : Nat) (w : List Nat) : Nat :=
  let kernels := m.nodes.map (·.entry) ++ (m.trap.map fun x => [x]).getD []
  if !m.inside || decide (m.nodes.length ≤ seed) || !m.ranged || !(m.nodes.all fun n => coreMapOk 0 n.entry.cores) then 0x03
  else if !(m.nodes.all fun n => n.entry.shapeOk) then 0x06
  else if !(kernels.all fun n => n.extentsOk m.head.codeLen) || !(kernels.all (·.regsOk)) then 0x03
  else if m.head.features &&& (2 ^ 128 - 1 - capability) ≠ 0 then 0x04
  else if !poolsOk t m then 0x06
  else if !widthsOk m w then 0x05
  else 0

/-! ## Acceptance (R167, R353, R355, R366) -/

/-- w0 to w5 (R22). -/
def widthsOf (q : DWord) : List Nat := (List.range 6).map fun i => field q (8 + 6 * i + 5) (8 + 6 * i)

/-- The lowest launch number that no live launch of the tenant has (log entry 33). -/
def freshNumber (s : State) (tenant : Nat) : Nat :=
  (((List.range ((launchesOf s tenant).length + 1)).find? fun n =>
    (launchesOf s tenant).all fun l => l.number.toNat != n)).getD 0
/-- The uniform registers at launch. -/
def launchRegs (data arg : DWord) (args : List Byte) : List Word :=
  [data.lo, data.hi, arg.lo, arg.hi] ++ sliceWords args 0 28
/-- Seed record i. -/
def seedRecord (s : State) (addr : DWord) (size i : Nat) : RecordRef :=
  { index := i, addr := if addr = 0 then 0 else addr + BitVec.ofNat 64 (i * size), depth := 0, since := s.cycles, cells := none }
/-- Die queues of the seed node: block j of T records goes to the die (a + j) mod 4. -/
def dealSeeds (s : State) (addr : DWord) (size count target die : Nat) : List (List RecordRef) :=
  (List.range 4).map fun d =>
    ((List.range (ceilDiv count target)).filter fun j => (die + j) % 4 == d).flatMap fun j =>
      (countFrom (j * target) (min target (count - j * target))).map (seedRecord s addr size)
def emptyTrough (home : Nat) : Trough := { home, commits := 0, groups := 0, queues := [[], [], [], []] }
/-- The home slice that the front end chooses for a node's trough, one of the 48 of the accepting die: free (log entry
54). -/
def troughHome (s : State) (die node : Nat) : Nat := 48 * die + Config.freeSlice s.fresh node % 48
/-- The trough of the seed node, with its records. -/
def seedTrough (s : State) (home : Nat) (addr : DWord) (n : NodeEntry) (count die : Nat) : Trough :=
  { home, commits := count, groups := 0
    queues := dealSeeds s addr (16 * n.recordSize) count n.target die }

/-- The image measurement extended at the first DISPATCH of an image (R462). -/
def measureImage (s : State) (tenant : Nat) (addr : DWord) (b : List Byte) : State :=
  let a := attestOf s tenant
  if a.images.contains (addr, b.length) then s
  else setAttest s tenant { a with measure := sha256 (a.measure ++ sha256 b), images := a.images ++ [(addr, b.length)] }

/-- Where the tables of an image stand, by its header and node table: offsets and bytes. -/
def tableSpans (h : ImageHead) (nodes : List Byte) : List (Nat × Nat) :=
  ((List.range h.count).flatMap fun i =>
    [(sliceNat nodes (64 * i + 0x10) 4, 12 * sliceNat nodes (64 * i + 0xA) 1), (sliceNat nodes (64 * i + 0x14) 4, 384)]) ++
  (if h.trap = noTrap then [] else [(h.trap, 12 + 384)])
/-- Pieces of the image, address and length, read line by line: what cannot be read is free, and does
not fail the launch (DESIGN CHOICE, log entry 7). -/
def imageBytes (u : UnitReader) (priv : Bool) : List (Nat × Nat) → State → Reading (List Byte)
  | [], s => .ok s []
  | (va, n) :: rest, s =>
    let more (s : State) (b : List Byte) : Reading (List Byte) :=
      (imageBytes u priv rest s).bind fun s bs => .ok s (b ++ bs)
    match u.read s priv scopeSYSTEM va n 0 with
    | .ok s b => more s b
    | .fail s _ => more s ((countFrom va n).map (Config.freeSaved s.fresh))
    | .wait s => .wait s
/-- The tables of an image read, as far as they lead to a fault. -/
def readTables (u : UnitReader) (priv : Bool) : List (Nat × Nat) → State → Reading Unit
  | [], s => .ok s ()
  | (va, n) :: rest, s => (u.read s priv scopeSYSTEM va n 0x07).bind fun s _ => readTables u priv rest s
/-- The image of a LAUNCH read: its bytes, or the code. The header and the tables are read before any of them is checked
(R75, steps 1 to 3). -/
def readImage (u : UnitReader) (s : State) (priv : Bool) (addr : Nat) : Reading (List Byte) :=
  if addr % 64 ≠ 0 then .fail s 0x03
  else
    (u.read s priv scopeSYSTEM addr 128 0x07).bind fun s b =>
    let h := parseHead b
    (u.read s priv scopeSYSTEM (addr + h.nodesOff) (64 * h.count) 0x07).bind fun s nodes =>
    (readTables u priv ((tableSpans h nodes).map fun x => (addr + x.1, x.2)) s).bind fun s _ =>
    if !h.formed then .fail s 0x03 else imageBytes u priv (spansOf addr h.size) s

/-- The argument block, read once at the packet's acquire scope (05 R167). -/
def readArgs (u : UnitReader) (s : State) (priv : Bool) (acq : Nat) (arg : DWord) : Reading (List Byte) :=
  if arg = 0 then .ok s (zeros 112) else u.read s priv acq arg.toNat 112 0x07

/-- The launch that a packet's body describes, with its image and arguments. -/
def buildLaunch (s : State) (die : Nat) (e : BufEntry) (p : Packet) (m : Image) (args : List Byte) : Launch :=
  let q := p.quad 0x60
  let seed := field q 5 0
  let count := (p.quad 0x68).toNat
  let src := p.quad 0x70
  let opts := p.quad 0x78
  let nodes := m.nodes.map (·.entry)
  { uid := s.nextId, number := BitVec.ofNat 16 (freshNumber s e.tenant), tenant := e.tenant, privileged := e.privileged, die,
    packet := e.packet, priority := field opts 3 0,
    timeout := if field opts 63 32 = 0 then none else some (s.ns + 1000 * field opts 63 32)
    image := p.quad 0x50, codeOff := m.head.codeOff, code := m.code, nodes, trap := m.trap, privBytes := m.head.priv,
    widths := widthsOf q, seeds := count,
    seedNode := seed, seedAddr := src
    sregs := launchRegs (p.quad 0x50 + BitVec.ofNat 64 m.head.dataOff) (p.quad 0x58) args
    counter := count
    troughs := nodes.zipIdx.map fun (n, i) =>
      if i = seed then seedTrough s (troughHome s die i) src n count die else emptyTrough (troughHome s die i)
    faulted := false, timedOut := false }

/-- Reads for a packet's entry: what comes from outside the part is kept until the entry is dispatched. -/
def BufEntry.reader (e : BufEntry) : UnitReader := { packet := e.packet, tenant := e.tenant, kept := true }
/-- The checks and the launch of a LAUNCH packet that stands in an entry: done, or its code, or it must wait for a line. The
image that it comes to is measured (18 R462); one that must be read again is not. -/
def acceptLaunch (s : State) (die : Nat) (e : BufEntry) : Reading Unit :=
  let p : Packet :=
    { id := e.packet, tenant := e.tenant, queue := 0, position := 0, parent := none, bytes := e.bytes, phase := .handed, left := 0,
      next := 0, broken := 0, asked := [], got := [] }
  (readImage e.reader s e.privileged (p.quad 0x50).toNat).bind fun s b =>
  let measured (s : State) : State := measureImage s e.tenant (p.quad 0x50) b
  let m := parseImage (p.quad 0x50).toNat b
  match m.code75 (tenantOf s e.tenant) (field (p.quad 0x60) 5 0) (widthsOf (p.quad 0x60)) with
  | 0 =>
    (match readArgs e.reader s e.privileged p.acq (p.quad 0x58) with
     | .ok s args =>
       let s := measured s
       let l := buildLaunch s die e p m args
       let s := { s with nextId := s.nextId + 1, launches := s.launches ++ [l] }
       .ok (changeCounter (setPhase s e.packet .running) l.uid fun c => c) ()
     | .fail s c => .fail (measured s) c
     | .wait s => .wait s)
  | c => .fail (measured s) c
/-- An entry dispatched: freed, and its packet's work begun or ended; the code is 0 where it begins. -/
def dispatchEntry (s : State) (die i : Nat) (e : BufEntry) : Reading Nat :=
  match acceptLaunch s die e with
  | .ok s _ => .ok (setEntry (dropReads s e.tenant e.packet) die i none) 0
  | .fail s c => .ok (setPhase (setEntry (dropReads s e.tenant e.packet) die i none) e.packet (.ending c)) c
  | .wait s => .wait s

/-- LAUNCH: handed over, then dispatched by the firmware in its turn (R379, R383). -/
def execLaunch (packet : Nat) (s : State) : Out :=
  match packetOf s packet with
  | none => .next s
  | some p =>
    if p.type ≠ 1 then .next s
    else match p.phase with
      | .started _ => .next (handOver s p)
      | .handed =>
        let die := packetDie s p
        (match firstEntry s die with
         | some (i, e) =>
           if e.packet ≠ packet then .next s
           else match dispatchEntry s die i e with
             | .ok s _ => .next (takeEntry s die)
             | .fail s _ => .next s
             | .wait s => .next s
         | none => .next s)
      | _ => .next s

end Sys2Proof.Machine
end

