-- ==== Sys2Proof/Machine/FrontEnd.lean ====
section
/-! DEFINITION. The front-end processors: the Xbrod instructions, their faults, and the CSRs XFREE, XPKTQ and XTIMER
(spec/14_queues.md R392 to R394). What RV64 machine mode lays down for an exception is PRESUMED (log entry 8). -/

namespace Sys2Proof.Machine

/-- Front-end processor n stands on die n / 4. -/
def feDie (n : Nat) : Nat := n / 4
def feAt (s : State) (n : Nat) : Option FrontEnd := (dieOf s (feDie n)).fes[n % 4]?
def setFe (s : State) (n : Nat) (f : FrontEnd) : State :=
  let d := dieOf s (feDie n)
  setDie s (feDie n) { d with fes := d.fes.set (n % 4) f }

/-- General registers; x0 reads 0. -/
def FrontEnd.x (f : FrontEnd) (r : BitVec 5) : DWord := if r = 0 then 0 else (f.regs[r.toNat - 1]?).getD 0
def FrontEnd.setX (f : FrontEnd) (r : BitVec 5) (v : DWord) : FrontEnd :=
  if r = 0 then f else { f with regs := f.regs.set (r.toNat - 1) v }

/-! ## Exceptions (R392; the machine registers PRESUMED) -/

/-- An exception: mepc, mcause and mtval written, MPP and MPIE saved, machine mode entered at mtvec's base. -/
def FrontEnd.takeException (f : FrontEnd) (cause : Nat) (tval : DWord) : FrontEnd :=
  let m := withField f.mstatus 7 7 (field f.mstatus 3 3)
  let m := withField (withField m 3 3 0) 12 11 (if f.machine then 3 else 0)
  { f with mepc := f.pc, mcause := BitVec.ofNat 64 cause, mtval := tval, mstatus := m, machine := true,
           pc := f.mtvec &&& ~~~3#64, waiting := none }
def illegalCause : Nat := 2
def xbrodCause : Nat := 24

/-- An Xbrod instruction on the processor in turn: outside machine mode it is illegal, with an mtval that is not laid down:
free (log entry 10). -/
def withFe (s : State) (f : Nat → FrontEnd → Out) : Out :=
  match s.feTurn with
  | none => .fault .noFrontEnd
  | some n =>
    match feAt s n with
    | none => .fault .noFrontEnd
    | some x =>
      if x.machine then f n x else .next (setFe s n (x.takeException illegalCause (Config.freeAddress s.fresh)))
/-- An Xbrod fault: no register is written. -/
def feFault (s : State) (n code : Nat) : Out :=
  match feAt s n with
  | some x => .next (setFe s n (x.takeException xbrodCause (BitVec.ofNat 64 code)))
  | none => .next s
/-- The instruction ends, with a value for rd. -/
def feDone (s : State) (n : Nat) (rd : BitVec 5) (v : DWord) : Out :=
  match feAt s n with
  | some x => .next (setFe s n { x.setX rd v with pc := x.pc + 4, waiting := none })
  | none => .next s

/-! ## Instructions (R393, R394) -/

def execQfetch (f : XbrodF) (s : State) : Out :=
  withFe s fun n x =>
    let t := field (x.x f.rs1) 5 0
    let va := (x.x f.rs2).toNat
    if va % 128 ≠ 0 then feFault s n 0x01
    else match freeEntry s (feDie n) with
      | none => feFault s n 0x02
      | some i =>
        match unitRead s t true scopeSYSTEM va 128 0x01 with
        | .fail s c => feFault s n c
        | .wait s => .next s
        | .ok s bs =>
          feDone (setEntry s (feDie n) i (some { packet := 0, tenant := t, privileged := false, bytes := bs })) n f.rd
            (BitVec.ofNat 64 i)

/-- Position and length that rs2 names, where they are valid. -/
def fieldAt (v : DWord) : Option (Nat × Nat) :=
  let pos := field v 5 0
  let len := field v 14 8
  if len = 0 ∨ 64 < pos + len then none else some (pos, len)
/-- A field of len bits, sign-extended. -/
def signedField (v len : Nat) : DWord := if v.testBit (len - 1) then BitVec.ofInt 64 ((v : Int) - 2 ^ len) else BitVec.ofNat 64 v

def execXbrodBfx (f : XbrodF) (s : State) : Out :=
  withFe s fun n x =>
    match fieldAt (x.x f.rs2) with
    | none => feFault s n 0x04
    | some (pos, len) => feDone s n f.rd (BitVec.ofNat 64 (field (x.x f.rs1) (pos + len - 1) pos))
def execXbrodBfxS (f : XbrodF) (s : State) : Out :=
  withFe s fun n x =>
    match fieldAt (x.x f.rs2) with
    | none => feFault s n 0x04
    | some (pos, len) => feDone s n f.rd (signedField (field (x.x f.rs1) (pos + len - 1) pos) len)
def execXbrodBfi (f : XbrodF) (s : State) : Out :=
  withFe s fun n x =>
    match fieldAt (x.x f.rs2) with
    | none => feFault s n 0x04
    | some (pos, len) => feDone s n f.rd (withField (x.x f.rd) (pos + len - 1) pos (field (x.x f.rs1) (len - 1) 0))

/-- SIGWAIT: while none of the signals pends, the processor waits at it. -/
def execSigwait (f : XbrodF) (s : State) : Out :=
  withFe s fun n x =>
    let want := x.x f.rs1
    if field want 63 4 ≠ 0 then feFault s n 0x05
    else
      let got := x.signals &&& want.setWidth 4
      if got = 0 then .next (setFe s n { x with waiting := some f })
      else feDone (setFe s n { x with signals := x.signals &&& ~~~got }) n f.rd (got.setWidth 64)

def execDispatch (f : XbrodF) (s : State) : Out :=
  withFe s fun n x =>
    let i := (x.x f.rs1).toNat
    match (dieOf s (feDie n)).entries[i]? with
    | some (some e) =>
      if sliceNat e.bytes 0 1 ≠ 1 then feFault s n 0x06
      else
        match dispatchEntry s (feDie n) i e with
        | .ok s c => feDone s n f.rd (BitVec.ofNat 64 c)
        | .fail s _ => .next s
        | .wait s => .next s
    | _ => feFault s n 0x06

/-- Whether a control block may lie at a physical address. -/
def blockPlace (a : Nat) : Bool := a % 256 == 0 && decide (a + 256 ≤ memSize)
/-- The block of a queue that is saved, written at a physical address. -/
def saveBlock (s : State) (t : Nat) (x : Queue) (a : Nat) : State :=
  (savedFields s x).foldl (fun s y =>
    let at_ := a + y.1
    putUnit s.nextId t unitCore (.block t x.num) false ((spansOf at_ y.2.length).map fun p => (.mem p.1, p.2)) 0 y.2
      { s with nextId := s.nextId + 1 }) s
def execQsave (f : XbrodF) (s : State) : Out :=
  withFe s fun n x =>
    let slot := (x.x f.rs1).toNat
    let a := (x.x f.rs2).toNat
    if 31 < slot then feFault s n 0x03
    else match ((dieOf s (feDie n)).slots[slot]?).getD none with
      | none => feFault s n 0x07
      | some (t, q) =>
        if !blockPlace a then feFault s n 0x08
        else
          let y := (queueOf s t q).repending s
          feDone (saveBlock (setQueue (freeSlotOf s t q) t y) t y a) n f.rd 0

/-- Whether a queue's control block lies at a physical address of local memory. -/
def blockLies (s : State) (t q a : Nat) : Bool :=
  match translateFresh s t (blockAddr (tenantOf s t) q) with
  | .ok e => (match placeOf e.leaf e.bits (blockAddr (tenantOf s t) q) with
      | some (.mem pa) => pa == a
      | _ => false)
  | .error _ => false
/-- The queue whose control block lies at an address (log entry 37). -/
def queueAt (s : State) (a : Nat) : Option (Nat × Queue) :=
  (s.tenants.flatMap fun tn => (if tn.enabled then tn.queues else []).map fun x => (tn.num, x)).find? fun y =>
    blockLies s y.1 y.2.num a
def execQload (f : XbrodF) (s : State) : Out :=
  withFe s fun n x =>
    let slot := (x.x f.rs1).toNat
    let a := (x.x f.rs2).toNat
    let die := feDie n
    if 31 < slot then feFault s n 0x03
    else if (((dieOf s die).slots[slot]?).getD none).isSome then feFault s n 0x07
    else if !blockPlace a then feFault s n 0x08
    else
      match queueAt s a with
      | none => feFault s n 0x09
      | some (t, y) =>
        if !blockSettled s t y.num then .next s
        else match unitReadAt s a 256 with
          | .wait s => .next s
          | .fail s _ => feFault s n 0x08
          | .ok s b => (match loadBlock die y b with
              | some y => if y.state == .pending && y.die == die then feDone (mapQueue s die t slot y) n f.rd 0 else feFault s n 0x09
              | none => feFault s n 0x09)

def execEvpost (f : XbrodF) (s : State) : Out :=
  withFe s fun n x =>
    let t := x.x f.rs1
    let b := x.x f.rs2
    if field t 63 6 ≠ 0 ∨ field b 63 8 ≠ 0 then feFault s n 0x05
    else feDone (setEventBit s t.toNat b.toNat) n 0 0

/-! ## XFREE, XPKTQ and XTIMER (R393) -/

/-- A write of XFREE: an entry that QFETCH or a hand-over filled, and that is not still to be taken, is freed. -/
def freeEntryAt (s : State) (fe entry : Nat) : State :=
  if (dieOf s (feDie fe)).pktq.contains entry then s else setEntry s (feDie fe) entry none
/-- XFREE_WRITE. -/
def execXfreeWrite (fe entry : Nat) (s : State) : Out := .next (freeEntryAt s fe entry)
/-- What XPKTQ reads as: the oldest entry handed over; with none the value is open: free (log entry 10). -/
def pktqValue (s : State) (fe : Nat) : DWord :=
  match (dieOf s (feDie fe)).pktq with
  | i :: _ => BitVec.ofNat 64 i
  | [] => Config.freeAddress s.fresh
/-- XPKTQ_READ: the entry is read and taken. -/
def execXpktqRead (fe : Nat) (rd : BitVec 5) (s : State) : Out :=
  match feAt s fe with
  | some x => .next (takeEntry (setFe s fe (x.setX rd (pktqValue s fe))) (feDie fe))
  | none => .next s
/-- XTIMER_SIGNAL: global time has reached XTIMER. -/
def execXtimerSignal (fe : Nat) (s : State) : Out :=
  match feAt s fe with
  | some x =>
    if x.xtimer.toNat ≤ s.ns then .next (setFe s fe { x with signals := x.signals ||| (1#4 <<< sigTMR) }) else .next s
  | none => .next s

end Sys2Proof.Machine
end

