-- ==== Sys2Proof/Machine/Links.lean ====
section
/-! DEFINITION. The host link, the Shoil ports, discovery, the scope table, and requests that come from peers
(spec/17_links.md R438 to R449; spec/10_memory.md R281; spec/12_protocols.md R352). -/

namespace Sys2Proof.Machine

/-! ## Requests from outside (R438, R439, R449) -/

/-- Whether the part serves its links (17 R449; 18 R456, R457). -/
def serving (p : Part) : Bool := p.boot == 0 && !p.lost && !p.trip
/-- Whether the host link serves more than configuration requests (17 R438). -/
def servesHost (p : Part) : Bool := serving p && p.linkUp
/-- A host atomic that the part completes: FetchAdd, Swap and CAS as .n32 or .n64 atomics. -/
def completes (r : PeerRequest) : Bool :=
  (r.op == 0 || r.op == 6 || r.op == 12) && (r.ty == 1 || r.ty == 3) && r.hm == 0
/-- The greatest payload of a host write, and read request, in bytes (17 R438). -/
def maxPayload : Nat := 512
def maxReadRequest : Nat := 4096
/-- What the host may ask for within BAR2: reads, writes and those atomics, of the sizes supported. Anything else, and all while
only configuration requests are served, is an unsupported request (log entry 45). -/
def hostFault (p : Part) (r : PeerRequest) : Option (Nat × Nat) :=
  let known := match r.kind with
    | .read => decide (r.size ≤ maxReadRequest)
    | .write => decide (r.size ≤ maxPayload)
    | .atomic => completes r
    | _ => false
  if servesHost p && known && decide (r.addr.toNat + max 1 r.size ≤ memSize) then none else some (causeREMOTE, 3)
/-- The check of a request: a peer's against the tenant's local windows. A cause and subcode, or none. -/
def peerFault (s : State) (r : PeerRequest) : Option (Nat × Nat) :=
  let pa := r.addr.toNat
  if fromHost r then hostFault s.part r
  else if !serving s.part then some (causeREMOTE, 2)
  else if memSize < pa + max 1 r.size then some (causeWINDOW, 0)
  else match windowCheck (tenantOf s r.tenant.toNat).windows 0 0 pa with
    | 0 => none
    | 1 => if readsOnly r.kind then none else some (causeWINDOW, 1)
    | _ => some (causeWINDOW, 0)
/-- A request checked, then dispatched at its home; a failure is answered with its cause. -/
def takeRequest (s : State) (r : PeerRequest) : State :=
  match peerFault s r with
  | some (c, sub) => answer s r c sub [] 0
  | none => settle (dispatchRequest s r)
/-- REMOTE_REQUEST, and RR and RW. -/
def execRemoteRequest (r : PeerRequest) (s : State) : Out := .next (takeRequest s r)
def execRr (r : PeerRequest) (s : State) : Out := if readsOnly r.kind then .next (takeRequest s r) else .next s
def execRw (r : PeerRequest) (s : State) : Out := if readsOnly r.kind then .next s else .next (takeRequest s r)
/-- HS: a host read of a whole line arrives. -/
def execHs (line : Nat) (s : State) : Out := .next (takeRequest s (hostRead line))

/-! ## Flits (R443, R444) -/

def flitHead (b : List Byte) : DWord := BitVec.ofNat 64 (sliceNat b 0 8)
def flitSeq (b : List Byte) : Nat := field (flitHead b) 63 52
def flitAck (b : List Byte) : Nat := field (flitHead b) 51 40
def flitType (b : List Byte) : Nat := field (flitHead b) 39 36
/-- Whether a flit's CRC covers it. -/
def flitIntact (b : List Byte) : Bool := b.length == 256 && sliceNat b 248 8 == (crc64 (b.take 248)).toNat
/-- Flits up to a sequence number dropped from the replay buffer, where it holds it; what was failing has then passed. -/
def Port.acked (p : Port) (seq : Nat) : Port :=
  match p.unacked.findIdx? fun (b : List Byte × Nat) => flitSeq b.1 == seq with
  | some k => { p with unacked := p.unacked.drop (k + 1), retrains := 0 }
  | none => p
/-- Replays of one flit at which its port retrains, and retrains in a row after which one that fails takes the port down. -/
def maxReplays : Nat := 8
def maxRetrains : Nat := 3
/-- One more replay of every flit in the buffer. A port that goes down drains (R445). -/
def Port.replayed (p : Port) : Port :=
  let p : Port := { p with unacked := p.unacked.map fun (x, k) => (x, k + 1) }
  if !(p.unacked.any fun b => decide (maxReplays ≤ b.2)) then p
  else
    let p : Port := { p with unacked := p.unacked.map fun (x, _) => (x, 0) }
    if p.retrains < maxRetrains then { p with retrains := p.retrains + 1 } else { p with up := false, draining := true }
/-- A NAK that names the last good sequence number: the flits after it are sent again. -/
def receiveNak (s : State) (i : Nat) (last : BitVec 12) : State :=
  let s := updPort s i fun p => (p.acked last.toNat).replayed
  match portAt s i with
  | some p => if p.up then { s with outbox := s.outbox ++ p.unacked.map fun (x, _) => .flit i x } else s
  | none => s
/-- What an acknowledgement makes room for: message bytes that wait. -/
def flushOut (s : State) (i : Nat) : State := match portAt s i with
  | some p => flushPort i (p.out.length / 240 + 1) s
  | none => s
/-- NAK. -/
def execNak (port : Nat) (last : BitVec 12) (s : State) : Out := .next (flushOut (receiveNak s port last) port)

/-- What a discovery flit carries: 0 where it asks for a part's number and 1 where it answers, the number, and hops (log entry 66). -/
def discoveryBytes (answers : Bool) (device hops : Nat) : List Byte := (if answers then 1 else 0) :: leBytes 2 device ++ leBytes 2 hops
def asksDiscovery (payload : List Byte) : Bool := payload.head? == some 0
/-- What discovery keeps of a device: its least hop count plus 1; a number that two parts answer with is marked. -/
def conflictMark : Nat := 2 ^ 16
def noteDevice (p : Part) (device hops ports : Nat) (conflict : Bool) : Part :=
  let known := tget 0 p.hops device
  if conflict then { p with hops := tput 0 p.hops device conflictMark, routes := tput 0 p.routes device 0, duplicate := true }
  else if known = conflictMark then p
  else if known = 0 ∨ hops + 1 < known then
    { p with hops := tput 0 p.hops device (hops + 1), routes := tput 0 p.routes device ports }
  else if hops + 1 = known then { p with routes := tput 0 p.routes device (tget 0 p.routes device ||| ports) }
  else p
def foundDevice (p : Part) (port device hops : Nat) (conflict : Bool) : Part :=
  if p.lock then p else noteDevice p device hops (if port < 18 then 2 ^ port else 0) conflict
/-- A discovery flit: a question is answered with this part's number, an answer noted. -/
def takeDiscovery (s : State) (port : Nat) (payload : List Byte) : State :=
  if asksDiscovery payload then sendFlit s port 4 (discoveryBytes true s.part.device.toNat 0)
  else setPart s fun p => foundDevice p port (sliceNat payload 1 2 % 512) (sliceNat payload 3 2) false
/-- A flit in order taken, by its type; it acknowledges. -/
def takeFlit (s : State) (port : Nat) (flit : List Byte) : State :=
  let payload := (flit.drop 8).take 240
  let k := flitType flit
  let s := updPort s port fun p =>
    { (if k = 1 then { p with stream := p.stream ++ payload } else p) with rxSeq := p.rxSeq + 1, nak := none }
  let s := updPort s port fun p => p.acked (flitAck flit)
  if k = 4 then takeDiscovery s port payload else s
/-- Whether a flit's sequence number lies before the next one due: it has been taken already. -/
def Port.took (p : Port) (seq : Nat) : Bool := decide ((p.rxSeq - BitVec.ofNat 12 seq).toNat < 2048)
/-- ns after which a flit that is not the one due asks for that again. -/
def nakWait : Nat := 2000
/-- Whether a flit that is discarded is answered with a NAK: not one that merely follows those discarded since the last NAK, as they
were on their way (log entry 71). -/
def Port.naks (p : Port) (flit : List Byte) (ns : Nat) : Bool :=
  match p.nak with
  | none => true
  | some (at_, seq) =>
    !flitIntact flit || decide (at_ + nakWait ≤ ns) || !decide ((BitVec.ofNat 12 (flitSeq flit) - seq - 1).toNat < 2047)
/-- The seq of a flit discarded; one that fails its CRC counts as the one due. -/
def Port.badSeq (p : Port) (flit : List Byte) : BitVec 12 :=
  if flitIntact flit then BitVec.ofNat 12 (flitSeq flit) else p.rxSeq + 1
/-- FLIT_RECEIVE: a flit in order is taken, with its acknowledgement. One that fails its CRC or leaves a gap is discarded with every
flit after it, and a NAK is sent, again where what is sent again fails or is missing; one taken already is discarded. A NAK is
taken as it comes (log entry 71). A part that does not serve its fabric takes none. -/
def execFlitReceive (port : Nat) (flit : List Byte) (s : State) : Out :=
  match portAt s port with
  | none => .next s
  | some p =>
    if !p.up || !serving s.part then .next s
    else if flitIntact flit && flitType flit == 2 then
      .next (flushOut (receiveNak s port (BitVec.ofNat 12 (flitAck flit))) port)
    else if flitIntact flit && flitSeq flit == (p.rxSeq + 1).toNat then .next (flushOut (takeFlit s port flit) port)
    else if flitIntact flit && p.took (flitSeq flit) then .next s
    else if p.naks flit s.ns then .next (sendNak s port (p.badSeq flit))
    else .next (updPort s port fun p => { p with nak := p.nak.map fun x => (x.1, p.badSeq flit) })

/-- A message that waited: sent now, or failed where no link reaches its place any more. -/
def sendOrFail (s : State) (x : Sent) : State :=
  match x with
  | .request op t tenant .. =>
    if linkDown s tenant t then replied s op (· == t) { plainReply [] with code := 0x0B, addr := addressOf s op t }
    else sendOn s (x.port s.part) x
  | _ => sendOn s (x.port s.part) x
/-- The messages that wait, oldest first, each sent where nothing holds it any more; n bounds their number. -/
def sendWaiting : Nat → List Sent → State → State
  | 0, _, s => s
  | n + 1, kept, s =>
    match s.waiting.drop kept.length with
    | [] => s
    | x :: rest =>
      if mustWait s kept rest x then sendWaiting n (kept ++ [x]) s
      else sendWaiting n kept (sendOrFail { s with waiting := kept ++ rest } x)
def sendHeld (s : State) : State := settle (sendWaiting s.waiting.length [] s)
/-- Whether a port that is down has drained: every request sent on it has been answered or has failed (R445). -/
def drained (s : State) (port : Nat) : Bool :=
  portDraining s.part port && !(s.awaiting.any fun a => a.port == some port)
/-- PORT_REROUTE: a port that is down and has drained gives up its flits, and what waited goes out on the ports left. -/
def execPortReroute (port : Nat) (s : State) : Out :=
  if !drained s port then .next s
  else .next (sendHeld (updPort s port fun p => { p with unacked := [], out := [], draining := false }))

/-! ## Time, discovery and the scope table (R446 to R448) -/

/-- TIME_FLIT: the estimated offset, and whether it lies within 50 ns. -/
def execTimeFlit (offset : BitVec 16) (s : State) : Out :=
  .next (setPart s fun p =>
    { p with syncOffset := offset, syncOk := decide (-50 ≤ offset.toInt) && decide (offset.toInt ≤ 50) })

/-- DISCOVERY: a flit that reports a device, until the table is locked. -/
def execDiscovery (port : Nat) (device : BitVec 9) (hops : Nat) (conflict : Bool) (s : State) : Out :=
  .next (setPart s fun p => foundDevice p port device.toNat hops conflict)

/-- R448's conditions for the lock. -/
def lockable (p : Part) (h5 h6 : BitVec 5) : Bool :=
  h5.ule h6 && p.near &&& p.domain == p.near && p.near.getLsbD p.device.toNat && p.domain.getLsbD p.device.toNat
/-- A write of SCOPE.CTL: ignored once locked, and where it would lock a table that breaks the conditions. -/
def writeScope (p : Part) (value : DWord) : Part :=
  let h6 := BitVec.ofNat 5 (field value 29 25)
  let h5 := BitVec.ofNat 5 (field value 24 20)
  if p.lock then p
  else if !value.getLsbD 63 then { p with h5, h6 }
  else if lockable p h5 h6 then { p with h5, h6, lock := true } else p
/-- SCOPE_LOCK. -/
def execScopeLock (value : DWord) (s : State) : Out := .next (setPart s fun p => writeScope p value)

/-- Time flits, sent every 1 µs on every port that is up, once the table is locked (R446). -/
def timePeriod : Nat := 1000
def timeDue (s : State) : Bool :=
  serving s.part && s.part.lock && s.part.ports.any (·.up) && decide (s.part.timeAt + timePeriod ≤ s.ns)
def sendOnAll (s : State) (type : Nat) (payload : List Byte) : State :=
  (List.range 18).foldl (fun s i => if portUp s.part i then sendFlit s i type payload else s) s
def sendTime (s : State) : State :=
  setPart (sendOnAll s 3 (Config.messageHead [s.ns])) fun p => { p with timeAt := s.ns }

/-! ## The host link (R440 to R442) -/

/-- HOST_SNOOP: the host asks for a line that the bridge holds, which it takes, with its data, once no lease runs on it. A part that
serves configuration requests only answers none (18 R456, R457). -/
def execHostSnoop (line : Nat) (s : State) : Out :=
  if !servesHost s.part then .next s
  else if s.part.bridge.any (·.line == line) then
    .next (settle (bridgeGive (setBridge s line fun b => { b with snooped := true })))
  else .next { s with outbox := s.outbox ++ [.hostAnswer line [] false false] }

/-- Without CXL the host holds no line of the part through it (R441), and the bridge no line of the host: what the host has not is
written to it, and the accesses that the bridge was to perform fail. -/
def leaveCxl (s : State) : State :=
  let s := (s.part.bridge.map BridgeLine.line).foldl (fun s l => writeBack s 0 l) s
  let q := s.part.bridgeQ
  let s := setPart s fun p => { p with bridge := [], bridgeQ := [], fills := [] }
  let s := { s with homes := (s.homes.map fun e => (e.1, { e.2 with hostCopy := false })).filter (·.2 != HomeLine.rest) }
  settle (q.foldl sendOrFail s)
/-- LINK_RETRAIN: PCI Express or CXL as negotiated, or neither, where the link does not reach 64 GT/s in flit mode (R438). -/
def execLinkRetrain (link : Option Bool) (s : State) : Out :=
  let s := setPart s fun p => { p with cxl := link.getD false, linkUp := link.isSome }
  .next (if link = some true then s else leaveCxl s)

end Sys2Proof.Machine
end

