-- ==== Sys2Proof/Machine/Package.lean ====
section
/-! DEFINITION. Clock, power and temperature, reset and boot, identity and attestation, and the management interface
(spec/18_package.md R453 to R463; spec/17_links.md R447; spec/12_protocols.md R346). -/

namespace Sys2Proof.Machine

/-! ## Clock (R1, R453, R454) -/

/-- Clocks in 100 MHz steps: the ordering code's ceiling, the floor, and f, the lowest of the three targets. -/
def ceiling (p : Part) : Nat := if p.ordering = 2 then 26 else 30
def floorSteps : Nat := 12
def clock (p : Part) : Nat := min (ceiling p) (min p.powerTarget p.thermalTarget)
/-- A target one step down or up. -/
def stepDown (t : Nat) : Nat := max floorSteps (t - 1)
def stepUp (p : Part) (t : Nat) : Nat := min (ceiling p) (t + 1)
/-- The cap in force: 0 for none. -/
def powerCap (p : Part) : Nat := min p.pcap.toNat 2700

/-- PCAP_WRITE: it counts from the end of the window in progress. -/
def execPcapWrite (value : BitVec 16) (s : State) : Out := .next (setPart s fun p => { p with pcap := value.setWidth 12 })

/-- The power target at the end of a window of a mean power (R454). With no cap the target rises as below one
(log entry 47). Each rise takes ten windows of its own (DESIGN CHOICE, log entry 47). -/
def windowEnd (p : Part) (mean : Nat) : Part :=
  let cap := powerCap p
  if cap ≠ 0 ∧ cap < mean then
    { p with powerTarget := stepDown p.powerTarget, lowWindows := 0, lim := p.lim || decide (p.powerTarget ≤ floorSteps) }
  else if cap = 0 ∨ 100 * mean < 95 * cap then
    if p.lowWindows + 1 = 10 then { p with powerTarget := stepUp p p.powerTarget, lowWindows := 0, lim := false }
    else { p with lowWindows := p.lowWindows + 1, lim := false }
  else { p with lowWindows := 0, lim := false }
/-- POWER_WINDOW. -/
def execPowerWindow (mean : BitVec 16) (s : State) : Out :=
  .next (setPart s fun p => { windowEnd p mean.toNat with power := mean })

/-! ## Temperature (R456) -/

/-- Whether some reading, in 0.1 °C, is at or above a point; and whether all lie 3 °C below one. -/
def reaches (xs : List (BitVec 16)) (at_ : Int) : Bool := xs.any fun x => decide (at_ ≤ x.toInt)
def cooler (xs : List (BitVec 16)) (at_ : Int) : Bool := xs.all fun x => decide (x.toInt ≤ at_ - 30)
def dieThrottle : Int := 950
def dieLimit : Int := 1050
def memThrottle : Int := 900
def memLimit : Int := 950
def thermalNext (p : Part) (tdie tmem : List (BitVec 16)) : Part :=
  let p := { p with tdie, tmem, trip := p.trip || reaches tdie dieLimit || reaches tmem memLimit }
  if reaches tdie dieThrottle || reaches tmem memThrottle then
    { p with thermalTarget := stepDown p.thermalTarget, coolSteps := 0 }
  else if cooler tdie dieThrottle && cooler tmem memThrottle then
    if p.coolSteps + 1 = 10 then { p with thermalTarget := stepUp p p.thermalTarget, coolSteps := 0 }
    else { p with coolSteps := p.coolSteps + 1 }
  else { p with coolSteps := 0 }
/-- THERMAL_STEP: each millisecond's readings. -/
def execThermalStep (tdie tmem : List (BitVec 16)) (s : State) : Out := .next (setPart s fun p => thermalNext p tdie tmem)
/-- THERMAL_TRIP: every gang stops at its next boundary, until reset. -/
def execThermalTrip (s : State) : Out := .next (setPart s fun p => { p with trip := true })

/-! ## Boot (R457, R458; 17 R447) -/

/-- Whether a stage may run: a fused key, a version not rolled back, and its signature. -/
def stageOk (p : Part) (b : BootStage) : Bool :=
  sha256 b.key == p.keyDigest && decide (p.rollback ≤ b.version) && lmsVerify b.key b.body b.sig
def extend (m : List Byte) (digest : List Byte) : List Byte := sha256 (m ++ digest)
def digestOf (b : BootStage) : List Byte := sha256 b.body

/-- The bitmap of devices within a number of hops, with the part's own bit. -/
def within_ (p : Part) (limit : Nat) : BitVec 512 :=
  (List.range 512).foldl (fun m d =>
    let k := tget 0 p.hops d
    if (k ≠ 0 ∧ k ≠ conflictMark ∧ k ≤ limit + 1) ∨ d = p.device.toNat then m ||| (1#512 <<< d) else m) 0
/-- Step 4's scope table, as the shipped firmware writes and locks it. -/
def writeTable (p : Part) (b : BootFlash) : Part :=
  let p := b.found.foldl (fun p f => noteDevice p f.device f.hops f.ports f.conflict) p
  let h5 := if b.h6.ult b.h5 then b.h6 else b.h5
  let p := { p with h5, h6 := b.h6, near := within_ p h5.toNat, domain := within_ p b.h6.toNat }
  { p with lock := lockable p h5 b.h6 }
def trainPorts (b : BootFlash) (ps : List Port) : List Port := ps.zipIdx.map fun x => { x.1 with up := b.ports.testBit x.2 }

/-- The boot sequence over a part just reset; it stops at the first step that fails. -/
def bootPart (p : Part) (b : BootFlash) : Part :=
  match b.stages with
  | s0 :: s1 :: _ =>
    if !stageOk p s0 then { p with boot := 1 }
    else
      let p := { p with m0 := extend p.m0 (digestOf s0) }
      if !stageOk p s1 then { p with boot := 2 }
      else
        let p := { p with m1 := extend p.m1 (digestOf s1), firmware := s1.body }
        if !b.memoryTrains then { p with boot := 3 }
        else
          let p := { p with device := p.devnum }
          if !b.linkTrains then { p with boot := 4 }
          else { writeTable { p with cxl := b.cxl, linkUp := true, ports := trainPorts b p.ports } b with pfEnabled := true }
  | [s0] => if !stageOk p s0 then { p with boot := 1 } else { p with m0 := extend p.m0 (digestOf s0), boot := 2 }
  | [] => { p with boot := 1 }

/-- What outlives a reset: the fuses, the ordering code, and the device number that the management controller wrote. -/
def keptPart (p : Part) : Part :=
  let c : Nat := ceiling p
  { Part.reset with
    keyDigest := p.keyDigest, rollback := p.rollback, leaf := p.leaf, ordering := p.ordering, devnum := p.devnum
    powerTarget := c, thermalTarget := c }
/-- RESET: every register at its reset value, memory unwritten with every tag 0, then the boot sequence. Global time and
what the model itself keeps go on. A part that has trained its ports sends discovery flits (17 R447). -/
def execReset (b : BootFlash) (s : State) : Out :=
  let s0 := State.reset
  let s := { s0 with ns := s.ns, agenda := s.agenda, fresh := s.fresh, part := bootPart (keptPart s.part) b }
  .next (if s.part.boot = 0 then sendOnAll s 4 (discoveryBytes false 0 0) else s)

/-- POWER_LOSS: only the fuses and the ordering code stay, and nothing goes on until a reset. -/
def execPowerLoss (s : State) : Out :=
  let s0 := State.reset
  .next { s0 with agenda := s.agenda, fresh := s.fresh, part := { keptPart s.part with devnum := 0, lost := true } }

/-- MANAGEMENT_COMMAND: the fused rollback counter is raised. -/
def execManagementCommand (counter : Nat) (s : State) : Out :=
  .next (setPart s fun p => if p.lost then p else { p with rollback := max p.rollback counter })

/-! ## Attestation (R459 to R462) -/

def leaves : Nat := 2 ^ 20
/-- ATTEST: its address; and with GO, unless a report is in progress, a report is begun: the fused counter is advanced before
its signature is made. -/
def execAttestGo (tenant : Nat) (value : DWord) (s : State) : Out :=
  let a := attestOf s tenant
  let a := { a with addr := value &&& 0x00FFFFFFFFFFFFC0#64 }
  if !value.getLsbD 63 || a.busy then .next (setAttest s tenant a)
  else
    let q := s.part.leaf
    let s := setAttest s tenant { a with busy := true, leaf := q }
    .next (setPart s fun p => { p with leaf := if q < leaves then q + 1 else q })

/-- The protocol slots 8 to 15 as they are measured. -/
def slotBytes (p : Part) : List Byte :=
  (List.range 8).flatMap fun i => match p.protos.find? (·.1 == 8 + i) with
    | some (_, ws) => padTo 1024 (wordsBytes ws)
    | none => List.replicate 1024 0xFF
/-- Bytes 0x000 to 0x0B3 of a report. -/
def reportBody (s : State) (a : Attest) (status : Nat) : List Byte :=
  let p := s.part
  leBytes 4 (status + 256 * p.ordering) ++ leBytes 4 (p.device.toNat + (if p.duplicate then 2 ^ 31 else 0)) ++ leBytes 8 s.ns ++
  a.nonce.flatMap (fun v => leBytes 8 v.toNat) ++ padTo 32 p.m0 ++ padTo 32 p.m1 ++ sha256 (slotBytes p) ++ padTo 32 a.measure ++
  leBytes 4 a.leaf
/-- The part's identity: identifier, and private seed. -/
def identityName : List Byte := (List.range 16).map Config.identityName
def identitySeed : List Byte := (List.range 32).map Config.identitySeed
/-- The signature of a leaf under the fused identity key. -/
def signedBytes (body : List Byte) (q : Nat) : List Byte :=
  lmsSign identityName identitySeed q ((List.range 32).map (Config.randomiser q)) body
/-- A whole report; one that is not signed has zeros for a signature. -/
def reportBytes (s : State) (a : Attest) : List Byte :=
  let status := if s.part.boot ≠ 0 then 1 else if leaves ≤ a.leaf then 2 else 0
  let body := reportBody s a status
  body ++ (if status = 0 then signedBytes body a.leaf else zeros 1772)
/-- ATTEST_REPORT: the report is written whole, as a release; BUSY falls once it is. A write that fails is dropped. -/
def execAttestReport (tenant : Nat) (s : State) : Out :=
  let a := attestOf s tenant
  let done (s : State) : State := setAttest s tenant { a with busy := false, job := none }
  if !a.busy then .next s
  else match a.job with
    | some j => .next (if jobDone s j then done s else s)
    | none =>
      (match unitWrite s tenant false unitCore .unit true a.addr.toNat (reportBytes s a) with
       | some s' => .next (setAttest s' tenant { a with job := some s.nextId })
       | none => .next (done s))

end Sys2Proof.Machine
end

