-- ==== Sys2Proof/Machine/RegisterFile.lean ====
section
/-! DEFINITION. The registers that software outside the cores reaches: the physical function's space, a virtual
function's BAR0 and the management registers (spec/14_queues.md R374, R375, R381; spec/12_protocols.md R325;
spec/17_links.md R440, R448; spec/18_package.md R463; spec/00_scope.md R11, R12). -/

namespace Sys2Proof.Machine

/-! ## Fields that software writes -/

def maskPtroot (v : DWord) : DWord := v &&& 0x000FFFFFFFFF0000#64
def maskWindowBase (v : DWord) : DWord := v &&& 0xFFFFFFFFFFFF0000#64
def maskWindowLimit (v : DWord) : DWord := v &&& 0x000FFFFFFFFF0003#64
/-- An entry of the page table's layout, without its reserved bits (10 R278). -/
def maskLeaf (v : DWord) : DWord := v &&& ~~~0x0010000000000FE8#64
def maskQtable (v : DWord) : DWord := v &&& 0x00FFFFFFFFFFFFFF#64
def maskLog (v : DWord) : DWord := v &&& 0xF#64
def maskTrcCtl (v : DWord) : DWord := v &&& 0x00F0003F#64
def maskHatom (v : DWord) : DWord := v &&& 0xFFFFFFFF#64
def maskQuota (v : DWord) : DWord := v &&& 0x7FF#64

/-- A quadword of a 256-bit or 512-bit register, replaced. -/
def setQuad {w : Nat} (r : BitVec w) (i : Nat) (v : DWord) : BitVec w :=
  (r &&& ~~~((0xFFFFFFFFFFFFFFFF#64).setWidth w <<< (64 * i))) ||| (v.setWidth w <<< (64 * i))
/-- A quadword of a wide register. -/
def getQuad {w : Nat} (r : BitVec w) (i : Nat) : DWord := (r >>> (64 * i)).setWidth 64

/-! ## Commands -/

/-- CTL: bit 0 enables or tears down, bit 1 sets replay. -/
def writeCtl (t : Nat) (v : DWord) (s : State) : Out :=
  let s := updTenant s t fun tn => { tn with replay := v.getLsbD 1 }
  if v.getLsbD 0 then execTenantEnable t s else execTenantTeardown t s
/-- A window register; cached checks of the tenant are made afresh (log entry 12). -/
def writeWindow (t i : Nat) (limit : Bool) (v : DWord) (s : State) : Out :=
  let put (w : DWord × DWord) : DWord × DWord := if limit then (w.1, maskWindowLimit v) else (maskWindowBase v, w.2)
  .next (dropTlb (updTenant s t fun tn => { tn with windows := tn.windows.modify i put }) t fun _ => true)
def writeXcmd (t : Nat) (v : DWord) (s : State) : Out :=
  match field v 62 60 with
  | 0 => execInvalidateTranslations t (v.extractLsb' 16 44) (v.setWidth 16) s
  | 1 => execMigratePage t (v.extractLsb' 16 44) (v.setWidth 16) s
  | _ => .next s
/-- DBG: the launch number is kept, and the operation acts on it. -/
def writeDbg (t : Nat) (v : DWord) (s : State) : Out :=
  let s := updTenant s t fun tn => { tn with dbgLaunch := v.setWidth 16 }
  match field v 63 62 with
  | 1 => execDbgHalt t (v.setWidth 16) s
  | 2 => execDbgResume t (v.setWidth 16) s
  | 3 => execDbgForce t (v.setWidth 16) s
  | _ => .next s
def writeQctlp (t : Nat) (v : DWord) (s : State) : Out :=
  match field v 63 62 with
  | 1 => execQctlpEnable t (field v 9 0) (v.getLsbD 10) s
  | 2 => execQctlpDisable t (field v 9 0) s
  | _ => .next s
def writeQctl (t : Nat) (v : DWord) (s : State) : Out :=
  match field v 63 62 with
  | 1 => execQctlEnable t (field v 9 0) s
  | 2 => execQctlDisable t (field v 9 0) s
  | _ => .next s
def writePdoorbell (t : Nat) (v : DWord) (s : State) : Out :=
  if v.getLsbD 63 then execPdoorbellReset t (field v 41 32) (v.setWidth 32) s
  else execPdoorbell t (field v 41 32) (v.setWidth 32) s
def writeDoorbell (t q : Nat) (v : DWord) (s : State) : Out :=
  if v.getLsbD 63 then execDoorbellReset t q (v.setWidth 32) s else execDoorbell t q (v.setWidth 32) s
def writeRplans (t : Nat) (v : DWord) (s : State) : Out :=
  match field v 63 62 with
  | 1 => execReplay t (v.setWidth 48) s
  | 2 => execCancel t (v.setWidth 48) s
  | _ => .next s
/-- TRC.CTL: writing 1 to ERR clears it. -/
def writeTrcCtl (t : Nat) (v : DWord) (s : State) : Out :=
  .next (updTenant s t fun tn => { tn with trcCtl := maskTrcCtl v, trcErr := tn.trcErr && !v.getLsbD 31 })
def writeNonce (t i : Nat) (v : DWord) (s : State) : Out :=
  let a := attestOf s t
  .next (setAttest s t { a with nonce := a.nonce.set i v })
/-- RTCMD; a write while a change is in progress is ignored. -/
def writeRtcmd (v : DWord) (s : State) : Out :=
  match field v 61 60 with
  | 0 => execRangeWrite (v.setWidth 10) s
  | 1 => execRangeRead (v.setWidth 10) s
  | 2 => execRangeInvalidate (v.setWidth 10) s
  | _ => if s.part.change.isSome then .next s else .next (setRtcode s 0x01)
/-- The scope table's fields, until it is locked. -/
def writeScopeField (f : Part → Part) (s : State) : Out := if s.part.lock then .next s else .next (setPart s f)

/-! ## A register write (REGISTER_WRITE) -/

def updT (s : State) (t : Nat) (f : Tenant → Tenant) : Out := .next (updTenant s t f)
/-- A write at an offset of a tenant's context block (R374). -/
def writeContext (t off : Nat) (v : DWord) (s : State) : Out :=
  if off = 0x000 then updT s t fun tn => { tn with ptroot := maskPtroot v }
  else if off = 0x008 then writeCtl t v s
  else if 0x100 ≤ off ∧ off < 0x200 then writeWindow t ((off - 0x100) / 16) ((off / 8) % 2 == 1) v s
  else if off = 0x200 then execRareaWrite t false v s
  else if off = 0x208 then execRareaWrite t true v s
  else if off = 0x210 then execRpoolWrite t v s
  else if off = 0x240 then updT s t fun tn => { tn with privBase := areaBaseMask v }
  else if off = 0x248 then updT s t fun tn => { tn with privSize := areaSizeMask v }
  else if off = 0x250 then updT s t fun tn => { tn with csaveBase := areaBaseMask v }
  else if off = 0x258 then updT s t fun tn => { tn with csaveSize := areaSizeMask v }
  else if off = 0x260 then updT s t fun tn => { tn with qtable := maskQtable v }
  else if off = 0x268 then writeXcmd t v s
  else if off = 0x270 then updT s t fun tn => { tn with frecBase := areaBaseMask v }
  else if off = 0x278 then updT s t fun tn => { tn with frecSize := maskLog v }
  else if off = 0x288 then writeDbg t v s
  else if off = 0x290 then execTrcBaseWrite t v s
  else if off = 0x298 then writeTrcCtl t v s
  else if off = 0x2A0 then updT s t fun tn => { tn with regs := tput 0 tn.regs offHATOM (maskHatom v).toNat }
  else if off = 0x2B0 then execAttestGo t v s
  else if 0x2C0 ≤ off ∧ off < 0x2E0 then writeNonce t ((off - 0x2C0) / 8) v s
  else if off = 0x2E0 then writeQctlp t v s
  else if off = 0x2E8 then writePdoorbell t v s
  else if 0x300 ≤ off ∧ off < 0x400 then updT s t fun tn => { tn with xleaf := tn.xleaf.set ((off - 0x300) / 8) (maskLeaf v) }
  else if off = 0x400 then updT s t fun tn => { tn with rplqBase := areaBaseMask v }
  else if off = 0x408 then updT s t fun tn => { tn with rplqSize := maskLog v }
  else if off = 0x410 then writeRplans t v s
  else .next s

/-- Two routes stand in one quadword. -/
def putRoutes (p : Part) (d : Nat) (v : DWord) : Part :=
  { p with routes := tput 0 (tput 0 p.routes d (field v 17 0)) (d + 1) (field v 49 32) }
/-- A write in the physical function's space. -/
def writePf (off : Nat) (v : DWord) (s : State) : Out :=
  if 0x10000 ≤ off ∧ off < 0x10020 then .next (setPart s fun p => { p with staging := p.staging.set ((off - 0x10000) / 8) v })
  else if off = 0x10020 then writeRtcmd v s
  else if off = 0x10030 then execProtocolLoad (v.extractLsb' 10 42) (v.setWidth 4) s
  else if 0x10100 ≤ off ∧ off < 0x10300 then execRquotaWrite ((off - 0x10100) / 8) (maskQuota v) s
  else if 0x20000 ≤ off ∧ off < 0x60000 then writeContext ((off - 0x20000) / 0x1000) (off % 0x1000) v s
  else if 0x60000 ≤ off ∧ off < 0x60020 then
    let die := (off - 0x60000) / 8
    .next (setDie s die { dieOf s die with ageper := v.setWidth 20 })
  else if off = 0x80000 then execScopeLock v s
  else if 0x80040 ≤ off ∧ off < 0x80080 then writeScopeField (fun p => { p with near := setQuad p.near ((off - 0x80040) / 8) v }) s
  else if 0x80080 ≤ off ∧ off < 0x800C0 then
    writeScopeField (fun p => { p with domain := setQuad p.domain ((off - 0x80080) / 8) v }) s
  else if 0x81000 ≤ off ∧ off < 0x81800 then writeScopeField (fun p => putRoutes p ((off - 0x81000) / 4) v) s
  else .next s
/-- A write of one register of 32 bits: a route. -/
def writePf32 (off : Nat) (v : DWord) (s : State) : Out :=
  if 0x81000 ≤ off ∧ off < 0x81800 then
    writeScopeField (fun p => { p with routes := tput 0 p.routes ((off - 0x81000) / 4) (field v 17 0) }) s
  else .next s
/-- A write at BAR0 of a tenant's virtual function (R375). -/
def writeVf (t off : Nat) (v : DWord) (s : State) : Out :=
  if 0x120 ≤ off ∧ off < 0x140 then execEvsetr t (v.setWidth 256 <<< (64 * ((off - 0x120) / 8))) s
  else if 0x140 ≤ off ∧ off < 0x160 then execEvclr t (v.setWidth 256 <<< (64 * ((off - 0x140) / 8))) s
  else if off = 0x180 then updT s t fun tn => { tn with icause := tn.icause &&& ~~~(v.setWidth 5) }
  else if off = 0x188 then updT s t fun tn => { tn with ivmap := v.setWidth 15 &&& 0x7FF8#15 }
  else if off = 0x190 then writeQctl t v s
  else if 0x1000 ≤ off ∧ off < 0x3000 then writeDoorbell t ((off - 0x1000) / 8) v s
  else .next s
/-- A write of a 16-bit management register (18 R463). -/
def writeMgmt (off : Nat) (v : DWord) (s : State) : Out :=
  if off = 0x00 then .next (setPart s fun p => { p with devnum := v.setWidth 9 })
  else if off = 0x02 then execPcapWrite (v.setWidth 16) s
  else .next s

/-- REGISTER_WRITE: one aligned quadword, or one 16-bit management register. The functions answer once boot has enabled
them, while the host link serves more than configuration requests (17 R438) and until a thermal trip; the management registers
as long as there is power. -/
def execRegisterWrite (at_ : RegPlace) (value : DWord) (s : State) : Out :=
  let open_ : Bool := s.part.pfEnabled && servesHost s.part
  match at_ with
  | .vf t off => if open_ && decide (t < 64) && decide (off % 8 = 0) then writeVf t off value s else .next s
  | .pf off => if open_ && decide (off % 8 = 0) then writePf off value s else .next s
  | .pf32 off => if open_ && decide (off % 4 = 0) then writePf32 off value s else .next s
  | .mgmt off => if s.part.lost then .next s else writeMgmt off value s

/-! ## Register reads -/

def bool64 (b : Bool) (bit : Nat) : DWord := if b then 1#64 <<< bit else 0
/-- BUSY of DBG: some resident warp of a launch that is being halted has not stopped yet (15 R412, R413). -/
def haltIncomplete (s : State) (tn : Tenant) : Bool :=
  s.warps.any fun w => (gangOf s w.gang).any (fun g => g.phase == .placed && tn.dbg.contains g.launch) &&
    (match w.mode with
     | .running => true
     | .stopping _ => true
     | .handler => true
     | _ => false)
/-- What a tenant's context register reads as; write-only ones read as 0 (R11). -/
def readContext (t off : Nat) (s : State) : DWord :=
  let tn := tenantOf s t
  if off = 0x000 then tn.ptroot
  else if off = 0x008 then bool64 tn.enabled 0 ||| bool64 tn.replay 1
  else if 0x100 ≤ off ∧ off < 0x200 then
    let w := (tn.windows[(off - 0x100) / 16]?).getD (0, 0)
    if (off / 8) % 2 = 1 then w.2 else w.1
  else if off = 0x200 then tn.rareaBase
  else if off = 0x208 then tn.rareaSize
  else if off = 0x210 then tn.rpool
  else if off = 0x218 then
    let u (d : Nat) : Nat := onChipUsed (cellUses s t) d % 2 ^ 15
    BitVec.ofNat 64 (u 0 + u 1 * 2 ^ 15 + u 2 * 2 ^ 30 + u 3 * 2 ^ 45)
  else if off = 0x220 then BitVec.ofNat 64 (((cellUses s t).map (·.count)).foldl (· + ·) 0 % 2 ^ 32)
  else if off = 0x240 then tn.privBase
  else if off = 0x248 then tn.privSize
  else if off = 0x250 then tn.csaveBase
  else if off = 0x258 then tn.csaveSize
  else if off = 0x260 then tn.qtable
  else if off = 0x268 then bool64 tn.xbusy.isSome 63
  else if off = 0x270 then tn.frecBase
  else if off = 0x278 then tn.frecSize
  else if off = 0x280 then bool64 tn.xerr 0
  else if off = 0x288 then bool64 (haltIncomplete s tn) 61 ||| tn.dbgLaunch.setWidth 64
  else if off = 0x290 then tn.trcBase
  else if off = 0x298 then tn.trcCtl ||| bool64 tn.trcErr 31
  else if off = 0x2A0 then BitVec.ofNat 64 (tget 0 tn.regs offHATOM)
  else if off = 0x2B0 then (attestOf s t).addr ||| bool64 (attestOf s t).busy 62
  else if 0x2C0 ≤ off ∧ off < 0x2E0 then ((attestOf s t).nonce[(off - 0x2C0) / 8]?).getD 0
  else if off = 0x2E0 then bool64 tn.enabling.isSome 61
  else if 0x300 ≤ off ∧ off < 0x400 then (tn.xleaf[(off - 0x300) / 8]?).getD 0
  else if off = 0x400 then tn.rplqBase
  else if off = 0x408 then tn.rplqSize
  else 0
/-- What a quadword of the physical function's space reads as. -/
def readPf (off : Nat) (s : State) : DWord :=
  let p := s.part
  if 0x10000 ≤ off ∧ off < 0x10020 then (p.staging[(off - 0x10000) / 8]?).getD 0
  else if off = 0x10028 then bool64 p.change.isSome 63 ||| BitVec.ofNat 64 (p.rtcode % 256)
  else if off = 0x10038 then BitVec.ofNat 64 (p.ptstate % 16 * 4096 + p.ptevent % 16 * 256 + p.ptcode % 256)
  else if 0x10100 ≤ off ∧ off < 0x10300 then
    let t := (off - 0x10100) / 8
    BitVec.ofNat 64 (usedEntries p t % 2048 * 65536 + tget 0 p.quotas t % 2048)
  else if 0x20000 ≤ off ∧ off < 0x60000 then readContext ((off - 0x20000) / 0x1000) (off % 0x1000) s
  else if 0x60000 ≤ off ∧ off < 0x60020 then (dieOf s ((off - 0x60000) / 8)).ageper.setWidth 64
  else if off = 0x80000 then
    bool64 p.lock 63 ||| (p.h6.setWidth 64 <<< 25) ||| (p.h5.setWidth 64 <<< 20) ||| p.device.setWidth 64
  else if off = 0x80008 then bool64 p.syncOk 63 ||| p.syncOffset.setWidth 64
  else if 0x80040 ≤ off ∧ off < 0x80080 then getQuad p.near ((off - 0x80040) / 8)
  else if 0x80080 ≤ off ∧ off < 0x800C0 then getQuad p.domain ((off - 0x80080) / 8)
  else if 0x81000 ≤ off ∧ off < 0x81800 then
    let d := (off - 0x81000) / 4
    BitVec.ofNat 64 (tget 0 p.routes d % 2 ^ 18 + tget 0 p.routes (d + 1) % 2 ^ 18 * 2 ^ 32)
  else 0
/-- What a quadword at BAR0 reads as. -/
def readVf (t off : Nat) (s : State) : DWord :=
  let tn := tenantOf s t
  if off < 0x10 then getQuad (BitVec.ofNat 128 capability) (off / 8)
  else if 0x100 ≤ off ∧ off < 0x120 then getQuad tn.events ((off - 0x100) / 8)
  else if off = 0x180 then tn.icause.setWidth 64
  else if off = 0x188 then tn.ivmap.setWidth 64
  else if off = 0x190 then bool64 tn.enabling.isSome 61
  else 0
/-- PSTAT (18 R463). -/
def pstat (p : Part) : BitVec 16 :=
  BitVec.ofNat 16 (clock p * 256 + (if p.lim then 128 else 0) + (if p.trip then 64 else 0) + p.boot.toNat)
/-- What a management register reads as. -/
def readMgmt (off : Nat) (s : State) : BitVec 16 :=
  let p := s.part
  if off = 0x00 then p.devnum.setWidth 16
  else if off = 0x02 then p.pcap.setWidth 16
  else if off = 0x04 then pstat p
  else if off = 0x06 then p.power
  else if 0x08 ≤ off ∧ off < 0x10 then (p.tdie[(off - 0x08) / 2]?).getD 0
  else if 0x10 ≤ off ∧ off < 0x20 then (p.tmem[(off - 0x10) / 2]?).getD 0
  else 0

end Sys2Proof.Machine
end

