-- ==== Sys2Proof/Machine/Registers.lean ====
section
/-! DEFINITION. Moves between slots and registers, selects, immediates, the index register and special registers
(spec/05_registers.md R166 to R172). -/

namespace Sys2Proof.Machine

/-! ## Moves (R168) -/

def Ctx.moveSlot (c : Ctx) (d a : Nat) : Out := (c.setSlot d fun l => c.slot a l).retire

def execMovShort (f : S16) (s : State) : Out :=
  withStrand (.movShort f) none s fun c => c.moveSlot f.d.toNat f.a.toNat
def execMov (f : LR) (s : State) : Out :=
  withLR0 (.mov f) f s fun c => c.moveSlot f.d.toNat f.a.toNat

/-- GET: slot d from the cluster's copy, consumed by a last-use read. -/
def Ctx.getReg (c : Ctx) (d r : Nat) (last : Bool) : Out :=
  c.access [(r, last)] [] fun c => (c.setSlot d fun l => c.gLane r l).retire

def execGetShort (f : S16) (s : State) : Out :=
  withStrand (.getShort f) none s fun c => c.getReg f.d.toNat f.g.toNat false
def execGetl (f : S16) (s : State) : Out :=
  withStrand (.getl f) none s fun c => c.getReg f.d.toNat f.g.toNat true
def execGet (f : LR) (s : State) : Out :=
  withLR0 (.get f) f s fun c => c.getReg f.d.toNat (c.lrReg f) f.l

/-- A publish: the lanes of Exec written in every copy, every reader's copy full (R159, R160). -/
def Warp.publish (w : Warp) (r : Nat) (readers : BitVec 16) (m : Mask) (v : Nat → Word) : Warp :=
  { w with gregs := w.gregs.set r (setLanes m v ((w.gregs[r]?).getD (List.replicate 64 0))),
           full := w.full.set r ((w.full[r]?).getD 0 ||| readers) }
/-- PUT. -/
def Ctx.putReg (c : Ctx) (r a : Nat) : Out :=
  match c.gFault true r with
  | some x => c.trap causeREGBOUNDS x.sub (BitVec.ofNat 64 x.addr) c.exec
  | none =>
    if !c.canPublish r then c.stall (.publish r)
    else { c with w := c.w.publish r (c.n.reg r).2 c.exec fun l => c.slot a l }.retire

def execPutShort (f : S16) (s : State) : Out :=
  withStrand (.putShort f) none s fun c => c.putReg f.g.toNat f.a.toNat
def execPut (f : LR) (s : State) : Out :=
  withLR0 (.put f) f s fun c => c.putReg (c.lrReg f) f.a.toNat

/-- PUTS: the leader lane's slot, unless Exec is empty; the readers' Seen bits cleared either way. -/
def Warp.publishUniform (w : Warp) (r : Nat) (readers : BitVec 16) (v : Option Word) : Warp :=
  { w with sregs := (match v with | some v => w.sregs.set r v | none => w.sregs),
           seen := w.seen.set r ((w.seen[r]?).getD 0 &&& ~~~readers) }
def execPuts (f : LR) (s : State) : Out :=
  withLR0 (.puts f) f s fun c =>
    let r := f.g.toNat % 32
    match c.sFault true r with
    | some x => c.trap causeREGBOUNDS x.sub (BitVec.ofNat 64 x.addr) c.exec
    | none =>
      if !c.canPublishUniform r then c.stall (.publishUniform r)
      else { c with w := c.w.publishUniform r (c.n.reg (64 + r)).2 (c.leader.map fun l => c.slot f.a.toNat l) }.retire

/-! ## Selects (R169): the guard fields are the selector -/

def Ctx.selector (c : Ctx) (g : Guard) (l : Nat) : Bool := c.k0.pred g.p.toNat l != g.n

def execSel (f : LR) (s : State) : Out :=
  withStrand (.sel f) none s fun c => c.access [(c.lrReg f, f.l)] [] fun c =>
    (c.setSlot f.d.toNat fun l => if c.selector f.gd l then c.slot f.a.toNat l else c.gLane (c.lrReg f) l).retire
def execSelp (f : S16) (s : State) : Out :=
  withStrand (.selp f) none s fun c =>
    (c.setSlot f.d.toNat fun l => if c.k0.pred 0 l then c.slot f.a.toNat l else c.slot f.d.toNat l).retire
def execSels (f : LS) (s : State) : Out :=
  withStrand (.sels f) none s fun c => c.access [] [f.u.toNat] fun c =>
    (c.setSlot f.d.toNat fun l =>
      if c.selector (lsGuard f) l then c.slot f.a.toNat l else c.sReg f.u.toNat).retire

/-! ## Immediates and the index register (R170, R171) -/

def execLdi (f : LI) (s : State) : Out :=
  withLI (.ldi f) s fun c => (c.setSlot f.d.toNat fun _ => liSext f).retire
def execLdih (f : LI) (s : State) : Out :=
  withLI (.ldih f) s fun c =>
    (c.setSlot f.d.toNat fun l => f.imm ++ (c.slot f.d.toNat l).extractLsb' 0 16).retire
def execIxset (f : LI) (s : State) : Out :=
  withLI (.ixset f) s fun c => { c with k := { c.k with ix := f.imm.setWidth 6 } }.retire
def execIxadd (f : LI) (s : State) : Out :=
  withLI (.ixadd f) s fun c => { c with k := { c.k with ix := c.k.ix + f.imm.setWidth 6 } }.retire

/-! ## Special registers (R172) -/

/-- The value of a special register in a lane; 32-bit registers in the low half. -/
def Ctx.special (c : Ctx) (id l : Nat) : DWord :=
  let n (v : Nat) : DWord := BitVec.ofNat 64 v
  let w := c.w0
  match id with
  | 0x00 => n l
  | 0x01 => n w.num
  | 0x02 => n w.team
  | 0x03 => c.g.index.setWidth 64
  | 0x04 => n (widOf c.l w l)
  | 0x05 => n (fieldOf c.l w l 0)
  | 0x06 => n (fieldOf c.l w l 1)
  | 0x07 => n (fieldOf c.l w l 2)
  | 0x08 => n (fieldOf c.l w l 3)
  | 0x09 => n (fieldOf c.l w l 4)
  | 0x0A => n (fieldOf c.l w l 5)
  | 0x0B => n c.no
  | 0x0C => n ((c.n.cores[w.team]?).getD 0)
  | 0x0D => n w.core
  | 0x0E => n (dieOfCore w.core)
  | 0x0F => c.s.part.device.setWidth 64
  | 0x10 => n c.s.ns
  | 0x11 => n c.s.cycles
  | 0x12 => c.l.number.setWidth 64
  | 0x13 => n c.g.node
  | 0x14 => n (lane 0 w.depth l)
  | 0x15 => lane 0 w.record l
  | 0x16 => (lane 0 c.k0.lpc l).setWidth 64
  | 0x17 => (lane 0 c.k0.preds l).setWidth 64
  | 0x18 => n c.k0.counterWord
  | 0x19 => c.k0.excmask.setWidth 64
  | 0x1A => c.k0.fpflags.setWidth 64
  | 0x1B => n (c.k0.mode.toNat + if c.k0.ftz then 8 else 0)
  | 0x1C => c.k0.rseed
  | 0x1D => c.k0.rerr.setWidth 64
  | 0x1E => w.tframe
  | _ => stackOf c.l w l

def execSrd (f : LR) (s : State) : Out :=
  withLR0 (.srd f) f s fun c =>
    let id := f.g.toNat
    (if srd64 id then c.setPair f.d.toNat fun l => c.special id l
     else c.setSlot f.d.toNat fun l => (c.special id l).lo).retire

/-- The bits of %rerr that hold something (11 R309). -/
def rerrMask : Word := 0xC1FFFFFF#32

/-- A strand register written: reserved bits dropped, a mode that %rmode never holds left as it was, a seed of 0
replaced (R94, R97, R99). -/
def Strand.setSpecial (k : Strand) (id : Nat) (v : DWord) : Strand :=
  match id with
  | 0x19 => { k with excmask := v.setWidth 5 }
  | 0x1A => { k with fpflags := v.setWidth 5 }
  | 0x1B =>
    let m := v.toNat % 8
    { k with ftz := v.getLsbD 3, mode := if 1 ≤ m ∧ m ≤ 5 then BitVec.ofNat 3 m else k.mode }
  | 0x1C => { k with rseed := if v = 0 then seedConstant else v }
  | 0x1D => { k with rerr := v.lo &&& rerrMask }
  | _ => k

def execSrdSet (f : LR) (s : State) : Out :=
  withLR0 (.srdSet f) f s fun c =>
    match c.leader with
    | none => c.retire
    | some l =>
      let v := if srd64 f.g.toNat then c.pair f.d.toNat l else (c.slot f.d.toNat l).setWidth 64
      { c with k := c.k.setSpecial f.g.toNat v }.retire

end Sys2Proof.Machine
end

