-- ==== Sys2Proof/Machine/Dispatch.lean ====
section
/-! DEFINITION. The one dispatch: each constructor of Instr to its meaning. -/

namespace Sys2Proof.Machine

def exec (i : Instr) (s : State) : Host.Outcome State Fault Refusal :=
  match i with
  | .movShort f => Sys2Proof.Machine.execMovShort f s
  | .getShort f => Sys2Proof.Machine.execGetShort f s
  | .getl f => Sys2Proof.Machine.execGetl f s
  | .putShort f => Sys2Proof.Machine.execPutShort f s
  | .iaddShort f => Sys2Proof.Machine.execIaddShort f s
  | .isubShort f => Sys2Proof.Machine.execIsubShort f s
  | .imulShort f => Sys2Proof.Machine.execImulShort f s
  | .imadShort f => Sys2Proof.Machine.execImadShort f s
  | .andShort f => Sys2Proof.Machine.execAndShort f s
  | .orShort f => Sys2Proof.Machine.execOrShort f s
  | .xorShort f => Sys2Proof.Machine.execXorShort f s
  | .shlShort f => Sys2Proof.Machine.execShlShort f s
  | .shrShort f => Sys2Proof.Machine.execShrShort f s
  | .sarShort f => Sys2Proof.Machine.execSarShort f s
  | .iminShort f => Sys2Proof.Machine.execIminShort f s
  | .imaxShort f => Sys2Proof.Machine.execImaxShort f s
  | .iaddiShort f => Sys2Proof.Machine.execIaddiShort f s
  | .shli f => Sys2Proof.Machine.execShli f s
  | .shri f => Sys2Proof.Machine.execShri f s
  | .faddShort f => Sys2Proof.Machine.execFaddShort f s
  | .fsubShort f => Sys2Proof.Machine.execFsubShort f s
  | .fmulShort f => Sys2Proof.Machine.execFmulShort f s
  | .ffmaShort f => Sys2Proof.Machine.execFfmaShort f s
  | .ffmsShort f => Sys2Proof.Machine.execFfmsShort f s
  | .fminShort f => Sys2Proof.Machine.execFminShort f s
  | .fmaxShort f => Sys2Proof.Machine.execFmaxShort f s
  | .hfma2Short f => Sys2Proof.Machine.execHfma2Short f s
  | .bfma2Short f => Sys2Proof.Machine.execBfma2Short f s
  | .ffmasShort f => Sys2Proof.Machine.execFfmasShort f s
  | .fmulsShort f => Sys2Proof.Machine.execFmulsShort f s
  | .iaddsShort f => Sys2Proof.Machine.execIaddsShort f s
  | .ldw f => Sys2Proof.Machine.execLdw f s
  | .stw f => Sys2Proof.Machine.execStw f s
  | .ldbA f => Sys2Proof.Machine.execLdbA f s
  | .stbA f => Sys2Proof.Machine.execStbA f s
  | .flt f => Sys2Proof.Machine.execFlt f s
  | .ilt f => Sys2Proof.Machine.execIlt f s
  | .ieq f => Sys2Proof.Machine.execIeq f s
  | .selp f => Sys2Proof.Machine.execSelp f s
  | .ppopShort n => Sys2Proof.Machine.execPpopShort n s
  | .brs o => Sys2Proof.Machine.execBrs o s
  | .bps o => Sys2Proof.Machine.execBps o s
  | .bns o => Sys2Proof.Machine.execBns o s
  | .waitcLd n => Sys2Proof.Machine.execWaitcLd n s
  | .frcpShort f => Sys2Proof.Machine.execFrcpShort f s
  | .cvtfF32I32 f => Sys2Proof.Machine.execCvtfF32I32 f s
  | .mov f => Sys2Proof.Machine.execMov f s
  | .get f => Sys2Proof.Machine.execGet f s
  | .put f => Sys2Proof.Machine.execPut f s
  | .puts f => Sys2Proof.Machine.execPuts f s
  | .srd f => Sys2Proof.Machine.execSrd f s
  | .srdSet f => Sys2Proof.Machine.execSrdSet f s
  | .sel f => Sys2Proof.Machine.execSel f s
  | .iadd f => Sys2Proof.Machine.execIadd f s
  | .isub f => Sys2Proof.Machine.execIsub f s
  | .imul f => Sys2Proof.Machine.execImul f s
  | .imulh f => Sys2Proof.Machine.execImulh f s
  | .imad f => Sys2Proof.Machine.execImad f s
  | .imul64w f => Sys2Proof.Machine.execImul64w f s
  | .iadd64 f => Sys2Proof.Machine.execIadd64 f s
  | .isub64 f => Sys2Proof.Machine.execIsub64 f s
  | .and f => Sys2Proof.Machine.execAnd f s
  | .or f => Sys2Proof.Machine.execOr f s
  | .xor f => Sys2Proof.Machine.execXor f s
  | .andn f => Sys2Proof.Machine.execAndn f s
  | .shl f => Sys2Proof.Machine.execShl f s
  | .shr f => Sys2Proof.Machine.execShr f s
  | .sar f => Sys2Proof.Machine.execSar f s
  | .rotl f => Sys2Proof.Machine.execRotl f s
  | .imin f => Sys2Proof.Machine.execImin f s
  | .imax f => Sys2Proof.Machine.execImax f s
  | .iabs f => Sys2Proof.Machine.execIabs f s
  | .ineg f => Sys2Proof.Machine.execIneg f s
  | .popc f => Sys2Proof.Machine.execPopc f s
  | .clz f => Sys2Proof.Machine.execClz f s
  | .brev f => Sys2Proof.Machine.execBrev f s
  | .bfx f => Sys2Proof.Machine.execBfx f s
  | .bfi f => Sys2Proof.Machine.execBfi f s
  | .idiv f => Sys2Proof.Machine.execIdiv f s
  | .irem f => Sys2Proof.Machine.execIrem f s
  | .fadd f => Sys2Proof.Machine.execFadd f s
  | .fsub f => Sys2Proof.Machine.execFsub f s
  | .fmul f => Sys2Proof.Machine.execFmul f s
  | .ffma f => Sys2Proof.Machine.execFfma f s
  | .ffms f => Sys2Proof.Machine.execFfms f s
  | .fmin f => Sys2Proof.Machine.execFmin f s
  | .fmax f => Sys2Proof.Machine.execFmax f s
  | .fabs f => Sys2Proof.Machine.execFabs f s
  | .fneg f => Sys2Proof.Machine.execFneg f s
  | .fdiv f => Sys2Proof.Machine.execFdiv f s
  | .frcp f => Sys2Proof.Machine.execFrcp f s
  | .frsq f => Sys2Proof.Machine.execFrsq f s
  | .fsqrt f => Sys2Proof.Machine.execFsqrt f s
  | .fexp2 f => Sys2Proof.Machine.execFexp2 f s
  | .flog2 f => Sys2Proof.Machine.execFlog2 f s
  | .fsin f => Sys2Proof.Machine.execFsin f s
  | .fcos f => Sys2Proof.Machine.execFcos f s
  | .ftanh f => Sys2Proof.Machine.execFtanh f s
  | .frnd f => Sys2Proof.Machine.execFrnd f s
  | .fclass f => Sys2Proof.Machine.execFclass f s
  | .hadd2 f => Sys2Proof.Machine.execHadd2 f s
  | .hmul2 f => Sys2Proof.Machine.execHmul2 f s
  | .hfma2 f => Sys2Proof.Machine.execHfma2 f s
  | .badd2 f => Sys2Proof.Machine.execBadd2 f s
  | .bmul2 f => Sys2Proof.Machine.execBmul2 f s
  | .bfma2 f => Sys2Proof.Machine.execBfma2 f s
  | .hmin2 f => Sys2Proof.Machine.execHmin2 f s
  | .hmax2 f => Sys2Proof.Machine.execHmax2 f s
  | .cvti f => Sys2Proof.Machine.execCvti f s
  | .cvtf f => Sys2Proof.Machine.execCvtf f s
  | .pack2 f => Sys2Proof.Machine.execPack2 f s
  | .unpk2 f => Sys2Proof.Machine.execUnpk2 f s
  | .cvtn f => Sys2Proof.Machine.execCvtn f s
  | .lxch f => Sys2Proof.Machine.execLxch f s
  | .ballot f => Sys2Proof.Machine.execBallot f s
  | .fold f => Sys2Proof.Machine.execFold f s
  | .fmas f => Sys2Proof.Machine.execFmas f s
  | .imas f => Sys2Proof.Machine.execImas f s
  | .fadds f => Sys2Proof.Machine.execFadds f s
  | .fmuls f => Sys2Proof.Machine.execFmuls f s
  | .iadds f => Sys2Proof.Machine.execIadds f s
  | .ffmas f => Sys2Proof.Machine.execFfmas f s
  | .sels f => Sys2Proof.Machine.execSels f s
  | .icmps f => Sys2Proof.Machine.execIcmps f s
  | .fcmps f => Sys2Proof.Machine.execFcmps f s
  | .ldi f => Sys2Proof.Machine.execLdi f s
  | .ldih f => Sys2Proof.Machine.execLdih f s
  | .iaddi f => Sys2Proof.Machine.execIaddi f s
  | .andi f => Sys2Proof.Machine.execAndi f s
  | .ori f => Sys2Proof.Machine.execOri f s
  | .xori f => Sys2Proof.Machine.execXori f s
  | .imuli f => Sys2Proof.Machine.execImuli f s
  | .faddi f => Sys2Proof.Machine.execFaddi f s
  | .fmuli f => Sys2Proof.Machine.execFmuli f s
  | .ffmai f => Sys2Proof.Machine.execFfmai f s
  | .icmpi f => Sys2Proof.Machine.execIcmpi f s
  | .ixset f => Sys2Proof.Machine.execIxset f s
  | .ixadd f => Sys2Proof.Machine.execIxadd f s
  | .ldB8 f => Sys2Proof.Machine.execLdB8 f s
  | .ldI8 f => Sys2Proof.Machine.execLdI8 f s
  | .ldB16 f => Sys2Proof.Machine.execLdB16 f s
  | .ldI16 f => Sys2Proof.Machine.execLdI16 f s
  | .ldB32 f => Sys2Proof.Machine.execLdB32 f s
  | .ldB64 f => Sys2Proof.Machine.execLdB64 f s
  | .ldB128 f => Sys2Proof.Machine.execLdB128 f s
  | .stB8 f => Sys2Proof.Machine.execStB8 f s
  | .stB16 f => Sys2Proof.Machine.execStB16 f s
  | .stB32 f => Sys2Proof.Machine.execStB32 f s
  | .stB64 f => Sys2Proof.Machine.execStB64 f s
  | .stB128 f => Sys2Proof.Machine.execStB128 f s
  | .ldlB32 f => Sys2Proof.Machine.execLdlB32 f s
  | .ldlB64 f => Sys2Proof.Machine.execLdlB64 f s
  | .stlB32 f => Sys2Proof.Machine.execStlB32 f s
  | .stlB64 f => Sys2Proof.Machine.execStlB64 f s
  | .ldbB32 f => Sys2Proof.Machine.execLdbB32 f s
  | .ldbB64 f => Sys2Proof.Machine.execLdbB64 f s
  | .stbB32 f => Sys2Proof.Machine.execStbB32 f s
  | .stbB64 f => Sys2Proof.Machine.execStbB64 f s
  | .ldbyB32 f => Sys2Proof.Machine.execLdbyB32 f s
  | .pref f => Sys2Proof.Machine.execPref f s
  | .bra f => Sys2Proof.Machine.execBra f s
  | .call f => Sys2Proof.Machine.execCall f s
  | .brx f => Sys2Proof.Machine.execBrx f s
  | .ret f => Sys2Proof.Machine.execRet f s
  | .exit f => Sys2Proof.Machine.execExit f s
  | .waitc sp ld st cp mx => Sys2Proof.Machine.execWaitc sp ld st cp mx s
  | .trywaitRackfill sp j h => Sys2Proof.Machine.execTrywaitRackfill sp j h s
  | .trywaitRackfree sp j h => Sys2Proof.Machine.execTrywaitRackfree sp j h s
  | .trywaitPhase sp j h => Sys2Proof.Machine.execTrywaitPhase sp j h s
  | .trywaitCtr sp t c h => Sys2Proof.Machine.execTrywaitCtr sp t c h s
  | .trywaitFull sp j h => Sys2Proof.Machine.execTrywaitFull sp j h s
  | .yield sp => Sys2Proof.Machine.execYield sp s
  | .safe mask => Sys2Proof.Machine.execSafe mask s
  | .bkpt sp => Sys2Proof.Machine.execBkpt sp s
  | .trap sp imm => Sys2Proof.Machine.execTrap sp imm s
  | .xret sp => Sys2Proof.Machine.execXret sp s
  | .haltack sp => Sys2Proof.Machine.execHaltack sp s
  | .prog sp c => Sys2Proof.Machine.execProg sp c s
  | .icmp f => Sys2Proof.Machine.execIcmp f s
  | .fcmp f => Sys2Proof.Machine.execFcmp f s
  | .pnot f => Sys2Proof.Machine.execPnot f s
  | .pand f => Sys2Proof.Machine.execPand f s
  | .por f => Sys2Proof.Machine.execPor f s
  | .pxor f => Sys2Proof.Machine.execPxor f s
  | .ppop f => Sys2Proof.Machine.execPpop f s
  | .pdup f => Sys2Proof.Machine.execPdup f s
  | .leader f => Sys2Proof.Machine.execLeader f s
  | .voteAll f => Sys2Proof.Machine.execVoteAll f s
  | .voteAny f => Sys2Proof.Machine.execVoteAny f s
  | .voteEq f => Sys2Proof.Machine.execVoteEq f s
  | .voteOdd f => Sys2Proof.Machine.execVoteOdd f s
  | .pmov f => Sys2Proof.Machine.execPmov f s
  | .pstore f => Sys2Proof.Machine.execPstore f s
  | .mma f => Sys2Proof.Machine.execMma f s
  | .mmag f => Sys2Proof.Machine.execMmag f s
  | .tbind f => Sys2Proof.Machine.execTbind f s
  | .tfree f => Sys2Proof.Machine.execTfree f s
  | .tzero f => Sys2Proof.Machine.execTzero f s
  | .tld f => Sys2Proof.Machine.execTld f s
  | .tst f => Sys2Proof.Machine.execTst f s
  | .tqnt f => Sys2Proof.Machine.execTqnt f s
  | .tget f => Sys2Proof.Machine.execTget f s
  | .tset f => Sys2Proof.Machine.execTset f s
  | .taddc f => Sys2Proof.Machine.execTaddc f s
  | .tmulr f => Sys2Proof.Machine.execTmulr f s
  | .trowred f => Sys2Proof.Machine.execTrowred f s
  | .tact f => Sys2Proof.Machine.execTact f s
  | .tscl f => Sys2Proof.Machine.execTscl f s
  | .cpyl f => Sys2Proof.Machine.execCpyl f s
  | .cpyt f => Sys2Proof.Machine.execCpyt f s
  | .cpyw f => Sys2Proof.Machine.execCpyw f s
  | .cpyg f => Sys2Proof.Machine.execCpyg f s
  | .cpys f => Sys2Proof.Machine.execCpys f s
  | .cpyx f => Sys2Proof.Machine.execCpyx f s
  | .cpyq f => Sys2Proof.Machine.execCpyq f s
  | .atom f => Sys2Proof.Machine.execAtom f s
  | .atomc f => Sys2Proof.Machine.execAtomc f s
  | .red f => Sys2Proof.Machine.execRed f s
  | .fence sp scope => Sys2Proof.Machine.execFence sp scope s
  | .acq sp scope => Sys2Proof.Machine.execAcq sp scope s
  | .acqWord f => Sys2Proof.Machine.execAcqWord f s
  | .rel sp scope => Sys2Proof.Machine.execRel sp scope s
  | .relWord f => Sys2Proof.Machine.execRelWord f s
  | .flush f => Sys2Proof.Machine.execFlush f s
  | .inv f => Sys2Proof.Machine.execInv f s
  | .lds f => Sys2Proof.Machine.execLds f s
  | .sts f => Sys2Proof.Machine.execSts f s
  | .rvinit f => Sys2Proof.Machine.execRvinit f s
  | .rvarr f => Sys2Proof.Machine.execRvarr f s
  | .rvwait f => Sys2Proof.Machine.execRvwait f s
  | .rvaw f => Sys2Proof.Machine.execRvaw f s
  | .spill f => Sys2Proof.Machine.execSpill f s
  | .fill f => Sys2Proof.Machine.execFill f s
  | .rkinit f => Sys2Proof.Machine.execRkinit f s
  | .rkacq f => Sys2Proof.Machine.execRkacq f s
  | .rkpub f => Sys2Proof.Machine.execRkpub f s
  | .rkawait f => Sys2Proof.Machine.execRkawait f s
  | .rkrel f => Sys2Proof.Machine.execRkrel f s
  | .rkrelSkip f => Sys2Proof.Machine.execRkrelSkip f s
  | .emita f => Sys2Proof.Machine.execEmita f s
  | .emitc f => Sys2Proof.Machine.execEmitc f s
  | .evset f => Sys2Proof.Machine.execEvset f s
  | .trace f => Sys2Proof.Machine.execTrace f s
  | .csrw f => Sys2Proof.Machine.execCsrw f s
  | .nop => Sys2Proof.Machine.execNop s
  | .exitShort => Sys2Proof.Machine.execExitShort s
  | .qfetch f => Sys2Proof.Machine.execQfetch f s
  | .xbrodBfx f => Sys2Proof.Machine.execXbrodBfx f s
  | .xbrodBfxS f => Sys2Proof.Machine.execXbrodBfxS f s
  | .xbrodBfi f => Sys2Proof.Machine.execXbrodBfi f s
  | .sigwait f => Sys2Proof.Machine.execSigwait f s
  | .dispatch f => Sys2Proof.Machine.execDispatch f s
  | .qsave f => Sys2Proof.Machine.execQsave f s
  | .qload f => Sys2Proof.Machine.execQload f s
  | .evpost f => Sys2Proof.Machine.execEvpost f s
  | .xfreeWrite fe entry => Sys2Proof.Machine.execXfreeWrite fe entry s
  | .xpktqRead fe rd => Sys2Proof.Machine.execXpktqRead fe rd s
  | .xtimerSignal fe => Sys2Proof.Machine.execXtimerSignal fe s
  | .loadCompletion op lanes => Sys2Proof.Machine.execLoadCompletion op lanes s
  | .storeCompletion op => Sys2Proof.Machine.execStoreCompletion op s
  | .engineOperationComplete op => Sys2Proof.Machine.execEngineOperationComplete op s
  | .copyCompletion op => Sys2Proof.Machine.execCopyCompletion op s
  | .copyFault op cause sub addr => Sys2Proof.Machine.execCopyFault op cause sub addr s
  | .remoteAck op r => Sys2Proof.Machine.execRemoteAck op r s
  | .remoteTimeout op => Sys2Proof.Machine.execRemoteTimeout op s
  | .hostAtomicCompletion op r => Sys2Proof.Machine.execHostAtomicCompletion op r s
  | .meetDeadlock warp => Sys2Proof.Machine.execMeetDeadlock warp s
  | .poolTimeout warp strand => Sys2Proof.Machine.execPoolTimeout warp strand s
  | .trywaitDeadline warp strand => Sys2Proof.Machine.execTrywaitDeadline warp strand s
  | .pinTimeout core line => Sys2Proof.Machine.execPinTimeout core line s
  | .placement die choice => Sys2Proof.Machine.execPlacement die choice s
  | .placementDisplace gang yard => Sys2Proof.Machine.execPlacementDisplace gang yard s
  | .registerCompaction gang yard => Sys2Proof.Machine.execRegisterCompaction gang yard s
  | .placementAgeing die => Sys2Proof.Machine.execPlacementAgeing die s
  | .queueAgeing die => Sys2Proof.Machine.execQueueAgeing die s
  | .groupStart die launch node => Sys2Proof.Machine.execGroupStart die launch node s
  | .nodeTimer die launch node => Sys2Proof.Machine.execNodeTimer die launch node s
  | .frameWrite warp => Sys2Proof.Machine.execFrameWrite warp s
  | .faultRecordWrite gang => Sys2Proof.Machine.execFaultRecordWrite gang s
  | .preemptionRequest gang => Sys2Proof.Machine.execPreemptionRequest gang s
  | .preemptionForce gang => Sys2Proof.Machine.execPreemptionForce gang s
  | .preemptionSave gang => Sys2Proof.Machine.execPreemptionSave gang s
  | .gangResume gang yard => Sys2Proof.Machine.execGangResume gang yard s
  | .doorbell tenant queue windex => Sys2Proof.Machine.execDoorbell tenant queue windex s
  | .doorbellReset tenant queue windex => Sys2Proof.Machine.execDoorbellReset tenant queue windex s
  | .doorbellResetComplete tenant queue => Sys2Proof.Machine.execDoorbellResetComplete tenant queue s
  | .pdoorbell tenant queue windex => Sys2Proof.Machine.execPdoorbell tenant queue windex s
  | .pdoorbellReset tenant queue windex => Sys2Proof.Machine.execPdoorbellReset tenant queue windex s
  | .qctlEnable tenant queue => Sys2Proof.Machine.execQctlEnable tenant queue s
  | .qctlDisable tenant queue => Sys2Proof.Machine.execQctlDisable tenant queue s
  | .qctlpEnable tenant queue p => Sys2Proof.Machine.execQctlpEnable tenant queue p s
  | .qctlpDisable tenant queue => Sys2Proof.Machine.execQctlpDisable tenant queue s
  | .queueDisableComplete tenant queue => Sys2Proof.Machine.execQueueDisableComplete tenant queue s
  | .evsetr tenant bits => Sys2Proof.Machine.execEvsetr tenant bits s
  | .evclr tenant bits => Sys2Proof.Machine.execEvclr tenant bits s
  | .tenantEnable tenant => Sys2Proof.Machine.execTenantEnable tenant s
  | .tenantTeardown tenant => Sys2Proof.Machine.execTenantTeardown tenant s
  | .invalidateTranslations tenant va arg => Sys2Proof.Machine.execInvalidateTranslations tenant va arg s
  | .invalidationComplete tenant => Sys2Proof.Machine.execInvalidationComplete tenant s
  | .migratePage tenant va arg => Sys2Proof.Machine.execMigratePage tenant va arg s
  | .migrationDrainComplete tenant => Sys2Proof.Machine.execMigrationDrainComplete tenant s
  | .replay tenant seq => Sys2Proof.Machine.execReplay tenant seq s
  | .cancel tenant seq => Sys2Proof.Machine.execCancel tenant seq s
  | .rangeWrite index => Sys2Proof.Machine.execRangeWrite index s
  | .rangeRead index => Sys2Proof.Machine.execRangeRead index s
  | .rangeInvalidate index => Sys2Proof.Machine.execRangeInvalidate index s
  | .rangeChangeComplete => Sys2Proof.Machine.execRangeChangeComplete s
  | .protocolLoad src slot => Sys2Proof.Machine.execProtocolLoad src slot s
  | .rquotaWrite tenant value => Sys2Proof.Machine.execRquotaWrite tenant value s
  | .rpoolWrite tenant value => Sys2Proof.Machine.execRpoolWrite tenant value s
  | .rareaWrite tenant size value => Sys2Proof.Machine.execRareaWrite tenant size value s
  | .dbgHalt tenant launch => Sys2Proof.Machine.execDbgHalt tenant launch s
  | .dbgResume tenant launch => Sys2Proof.Machine.execDbgResume tenant launch s
  | .dbgForce tenant launch => Sys2Proof.Machine.execDbgForce tenant launch s
  | .attestGo tenant value => Sys2Proof.Machine.execAttestGo tenant value s
  | .attestReport tenant => Sys2Proof.Machine.execAttestReport tenant s
  | .scopeLock value => Sys2Proof.Machine.execScopeLock value s
  | .trcBaseWrite tenant value => Sys2Proof.Machine.execTrcBaseWrite tenant value s
  | .pcapWrite value => Sys2Proof.Machine.execPcapWrite value s
  | .registerWrite at_ value => Sys2Proof.Machine.execRegisterWrite at_ value s
  | .packetStart tenant queue => Sys2Proof.Machine.execPacketStart tenant queue s
  | .nopPacket packet => Sys2Proof.Machine.execNopPacket packet s
  | .launch packet => Sys2Proof.Machine.execLaunch packet s
  | .copyPacket packet => Sys2Proof.Machine.execCopyPacket packet s
  | .event packet => Sys2Proof.Machine.execEvent packet s
  | .waitval packet => Sys2Proof.Machine.execWaitval packet s
  | .waitvalPoll packet => Sys2Proof.Machine.execWaitvalPoll packet s
  | .waitvalTimeout packet => Sys2Proof.Machine.execWaitvalTimeout packet s
  | .timestamp packet => Sys2Proof.Machine.execTimestamp packet s
  | .indirect packet => Sys2Proof.Machine.execIndirect packet s
  | .launchTimeout launch => Sys2Proof.Machine.execLaunchTimeout launch s
  | .packetCompletion packet => Sys2Proof.Machine.execPacketCompletion packet s
  | .rd core line => Sys2Proof.Machine.execRd core line s
  | .wr entry => Sys2Proof.Machine.execWr entry s
  | .at op => Sys2Proof.Machine.execAt op s
  | .re op => Sys2Proof.Machine.execRe op s
  | .lx line => Sys2Proof.Machine.execLx line s
  | .aq core line => Sys2Proof.Machine.execAq core line s
  | .rl core line => Sys2Proof.Machine.execRl core line s
  | .ev line => Sys2Proof.Machine.execEv line s
  | .rr r => Sys2Proof.Machine.execRr r s
  | .rw r => Sys2Proof.Machine.execRw r s
  | .hs line => Sys2Proof.Machine.execHs line s
  | .pn warp strand line => Sys2Proof.Machine.execPn warp strand line s
  | .un line => Sys2Proof.Machine.execUn line s
  | .to line => Sys2Proof.Machine.execTo line s
  | .remoteRequest r => Sys2Proof.Machine.execRemoteRequest r s
  | .flitReceive port flit => Sys2Proof.Machine.execFlitReceive port flit s
  | .nak port last => Sys2Proof.Machine.execNak port last s
  | .portReroute port => Sys2Proof.Machine.execPortReroute port s
  | .timeFlit offset => Sys2Proof.Machine.execTimeFlit offset s
  | .discovery port device hops conflict => Sys2Proof.Machine.execDiscovery port device hops conflict s
  | .hostSnoop line => Sys2Proof.Machine.execHostSnoop line s
  | .powerWindow mean => Sys2Proof.Machine.execPowerWindow mean s
  | .thermalStep tdie tmem => Sys2Proof.Machine.execThermalStep tdie tmem s
  | .thermalTrip => Sys2Proof.Machine.execThermalTrip s
  | .reset b => Sys2Proof.Machine.execReset b s
  | .softError e => Sys2Proof.Machine.execSoftError e s
  | .queueEntryRelease core q => Sys2Proof.Machine.execQueueEntryRelease core q s
  | .linkRetrain link => Sys2Proof.Machine.execLinkRetrain link s
  | .powerLoss => Sys2Proof.Machine.execPowerLoss s
  | .managementCommand counter => Sys2Proof.Machine.execManagementCommand counter s

end Sys2Proof.Machine
end

