-- ==== Sys2Proof/Machine/Issue.lean ====
section
/-! DEFINITION. Which strand issues and what it fetches (spec/02_encoding.md R44, R68 to R70; spec/04_issue.md R126,
R127; spec/09_copy.md R273; spec/16_observe.md R437). -/

namespace Sys2Proof.Machine

/-! ## Fetch and decode -/

/-- What the strand in focus issues next: an instruction, or the trap of its word (R68 to R70). -/
inductive Fetched
  | instr (i : Instr)
  | trap (cause sub len : Nat) (value : DWord)
  deriving DecidableEq, Repr

def fetched (s : State) (l : Launch) (k : Strand) (a : Nat) : Fetched :=
  let ps := fetchParcels s l k a
  match decode ps with
  | .ok i => .instr i
  | .error .truncated => .trap causeILLEGAL 0 1 0
  | .error .unassigned => .trap causeILLEGAL 0 1 (instrValue ps)
  | .error (.field priv) =>
    if priv && !l.privileged then .trap causePRIV 0 1 (instrValue ps) else .trap causeILLEGAL 2 1 (instrValue ps)

/-- The strand raises its earliest held fault in place of its next instruction (09 R273). -/
def raiseHeld (c : Ctx) (f : HeldFault) : Out :=
  let t : TrapRec :=
    { strand := c.no, cause := f.cause, sub := f.sub, addr := f.addr, lanes := f.lanes, value := f.value,
      remote := f.remote, name := nameIn c.l c.g c.w0 ((lowestLane f.lanes).getD 0), issued := false }
  let s := updStrand c.s c.ref fun k => { k with faults := [] }
  .next (takeTrap s c.l c.g ((warpOf s c.w0.uid).getD c.w0) t)

/-- The held fault that may be raised: the one of the oldest operation, once no older copy of the strand runs. -/
def dueFault (s : State) (r : StrandRef) (k : Strand) : Option HeldFault :=
  match leastBy HeldFault.op k.faults with
  | some f =>
    if s.ops.any fun o => o.owner == r && decide (o.id < f.op) && (match o.body with | .copy _ => true | _ => false)
    then none else some f
  | none => none

/-- An atomic with acquire ordering ends its acquire when its wait ends, before the strand's next instruction
(11 R301, R314). -/
def endAcquire (s : State) (c : Ctx) : State :=
  match c.k0.wait with
  | some (.acquired scope) => if scopeYARD ≤ scope then dropLeases s c.w0.core else s
  | _ => s

/-- One issue of a strand: a held fault, the trap of its word, or its instruction. -/
def issueStrand (s : State) (r : StrandRef) : Out :=
  let s := { s with focus := some r }
  match focusCtx s none 1 0 with
  | none => .fault .noStrand
  | some c =>
    match dueFault s r c.k0, c.k0.cancelled with
    | some f, _ => raiseHeld c f
    | none, some t => charged c (.next (takeTrap s c.l c.g c.w0 t))
    | none, none =>
      match fetched s c.l c.k0 c.addr.toNat with
      | .trap cause sub len value => charged c ({ c with len, value }.decodeTrap cause sub)
      | .instr i =>
        charged c (exec i (endAcquire s c))

end Sys2Proof.Machine
end

