-- ==== Sys2Proof/Machine/Rv64.lean ====
section
/-! DEFINITION. The base instructions of the front-end processors, RV64IMAC with Zicsr, and one instruction of a processor
(spec/14_queues.md R392, R393; spec/00_scope.md R4). What these instructions do, the machine registers and the exceptions are
PRESUMED from the RISC-V manuals, machine and user mode (log entry 8). -/

namespace Sys2Proof.Machine

/-! ## Fields of an instruction -/

def rvOp (w : Word) : Nat := field w 6 0
def rvRd (w : Word) : BitVec 5 := w.extractLsb' 7 5
def rvF3 (w : Word) : Nat := field w 14 12
def rvRs1 (w : Word) : BitVec 5 := w.extractLsb' 15 5
def rvRs2 (w : Word) : BitVec 5 := w.extractLsb' 20 5
def rvF7 (w : Word) : Nat := field w 31 25
def rvImmI (w : Word) : DWord := (w.extractLsb' 20 12).signExtend 64
def rvImmS (w : Word) : DWord := (w.extractLsb' 25 7 ++ w.extractLsb' 7 5).signExtend 64
def rvImmB (w : Word) : DWord :=
  (w.extractLsb' 31 1 ++ w.extractLsb' 7 1 ++ w.extractLsb' 25 6 ++ w.extractLsb' 8 4 ++ 0#1).signExtend 64
def rvImmU (w : Word) : DWord := (w.extractLsb' 12 20 ++ 0#12).signExtend 64
def rvImmJ (w : Word) : DWord :=
  (w.extractLsb' 31 1 ++ w.extractLsb' 12 8 ++ w.extractLsb' 20 1 ++ w.extractLsb' 21 10 ++ 0#1).signExtend 64

/-! ## Arithmetic -/

/-- Set where a is less than b. -/
def rvLess (b : Bool) : DWord := if b then 1 else 0
/-- ADD, SLL, SLT, SLTU, XOR, SRL, OR, AND by funct3; alt makes SUB and SRA. -/
def rvAlu (f3 : Nat) (alt : Bool) (a b : DWord) : DWord :=
  match f3 with
  | 0 => if alt then a - b else a + b
  | 1 => a <<< (b.toNat % 64)
  | 2 => rvLess (decide (a.toInt < b.toInt))
  | 3 => rvLess (decide (a.toNat < b.toNat))
  | 4 => a ^^^ b
  | 5 => if alt then a.sshiftRight (b.toNat % 64) else a >>> (b.toNat % 64)
  | 6 => a ||| b
  | _ => a &&& b
/-- The word forms, sign-extended; none where there is none. -/
def rvAluW (f3 : Nat) (alt : Bool) (a b : DWord) : Option DWord :=
  let x := a.lo
  let n := b.toNat % 32
  match f3 with
  | 0 => some ((if alt then x - b.lo else x + b.lo).signExtend 64)
  | 1 => some ((x <<< n).signExtend 64)
  | 5 => some ((if alt then x.sshiftRight n else x >>> n).signExtend 64)
  | _ => none
/-- Division of w-bit numbers: by 0 it gives all ones and the dividend, and the most negative number by -1 wraps. -/
def rvDiv {w : Nat} (rem signed : Bool) (a b : BitVec w) : BitVec w :=
  if b = 0 then (if rem then a else BitVec.allOnes w)
  else if signed then (if rem then BitVec.ofInt w (a.toInt.tmod b.toInt) else BitVec.ofInt w (a.toInt.tdiv b.toInt))
  else if rem then BitVec.ofNat w (a.toNat % b.toNat) else BitVec.ofNat w (a.toNat / b.toNat)
/-- MUL, MULH, MULHSU, MULHU, DIV, DIVU, REM, REMU. -/
def rvMul (f3 : Nat) (a b : DWord) : DWord :=
  match f3 with
  | 0 => a * b
  | 1 => BitVec.ofInt 64 (a.toInt * b.toInt / 2 ^ 64)
  | 2 => BitVec.ofInt 64 (a.toInt * b.toNat / 2 ^ 64)
  | 3 => BitVec.ofNat 64 (a.toNat * b.toNat / 2 ^ 64)
  | n => rvDiv (6 ≤ n) (n % 2 = 0) a b
def rvMulW (f3 : Nat) (a b : DWord) : Option DWord :=
  match f3 with
  | 0 => some ((a.lo * b.lo).signExtend 64)
  | 1 => none
  | 2 => none
  | 3 => none
  | n => some ((rvDiv (6 ≤ n) (n % 2 = 0) a.lo b.lo).signExtend 64)
/-- Whether a branch is taken; none for a funct3 that is no branch. -/
def rvTaken (f3 : Nat) (a b : DWord) : Option Bool :=
  match f3 with
  | 0 => some (a == b)
  | 1 => some (a != b)
  | 4 => some (decide (a.toInt < b.toInt))
  | 5 => some (decide (b.toInt ≤ a.toInt))
  | 6 => some (decide (a.toNat < b.toNat))
  | 7 => some (decide (b.toNat ≤ a.toNat))
  | _ => none
/-- What an AMO stores for the value it read, by funct5; none where there is none. -/
def rvAmo {w : Nat} (f5 : Nat) (old v : BitVec w) : Option (BitVec w) :=
  match f5 with
  | 0x00 => some (old + v)
  | 0x01 => some v
  | 0x04 => some (old ^^^ v)
  | 0x08 => some (old ||| v)
  | 0x0C => some (old &&& v)
  | 0x10 => some (if old.toInt ≤ v.toInt then old else v)
  | 0x14 => some (if old.toInt ≤ v.toInt then v else old)
  | 0x18 => some (if old.toNat ≤ v.toNat then old else v)
  | 0x1C => some (if old.toNat ≤ v.toNat then v else old)
  | _ => none

/-! ## Compressed instructions, as the words they stand for -/

def rvR (op f3 f7 rd rs1 rs2 : Nat) : Word :=
  BitVec.ofNat 32 (f7 % 128 * 2 ^ 25 + rs2 * 2 ^ 20 + rs1 * 2 ^ 15 + f3 * 2 ^ 12 + rd * 2 ^ 7 + op)
def rvI (op f3 rd rs1 imm : Nat) : Word := BitVec.ofNat 32 (imm % 4096 * 2 ^ 20 + rs1 * 2 ^ 15 + f3 * 2 ^ 12 + rd * 2 ^ 7 + op)
def rvS (f3 rs1 rs2 imm : Nat) : Word :=
  BitVec.ofNat 32 (imm / 32 % 128 * 2 ^ 25 + rs2 * 2 ^ 20 + rs1 * 2 ^ 15 + f3 * 2 ^ 12 + imm % 32 * 2 ^ 7 + 0x23)
def rvB (f3 rs1 imm : Nat) : Word :=
  BitVec.ofNat 32 (imm / 4096 % 2 * 2 ^ 31 + imm / 32 % 64 * 2 ^ 25 + rs1 * 2 ^ 15 + f3 * 2 ^ 12 + imm / 2 % 16 * 2 ^ 8 +
    imm / 2048 % 2 * 2 ^ 7 + 0x63)
def rvJ (imm : Nat) : Word :=
  BitVec.ofNat 32 (imm / 2 ^ 20 % 2 * 2 ^ 31 + imm / 2 % 1024 * 2 ^ 21 + imm / 2048 % 2 * 2 ^ 20 + imm / 4096 % 256 * 2 ^ 12 + 0x6F)
def rvLui (rd imm : Nat) : Word := BitVec.ofNat 32 (imm % 2 ^ 20 * 2 ^ 12 + rd * 2 ^ 7 + 0x37)
/-- A number of n bits sign-extended to 32. -/
def sext32 (n v : Nat) : Nat := if v.testBit (n - 1) then v + 2 ^ 32 - 2 ^ n else v

/-- Quadrant 0. -/
def expand0 (h : BitVec 16) : Option Word :=
  let f := field h
  let rd := 8 + f 4 2
  let rs := 8 + f 9 7
  let w4 := f 12 10 * 8 + f 6 6 * 4 + f 5 5 * 64
  let d8 := f 12 10 * 8 + f 6 5 * 64
  match f 15 13 with
  | 0 =>
    let imm := f 12 11 * 16 + f 10 7 * 64 + f 6 6 * 4 + f 5 5 * 8
    if imm = 0 then none else some (rvI 0x13 0 rd 2 imm)
  | 2 => some (rvI 0x03 2 rd rs w4)
  | 3 => some (rvI 0x03 3 rd rs d8)
  | 6 => some (rvS 2 rs rd w4)
  | 7 => some (rvS 3 rs rd d8)
  | _ => none
/-- Quadrant 1. -/
def expand1 (h : BitVec 16) : Option Word :=
  let f := field h
  let rd := f 11 7
  let rs := 8 + f 9 7
  let sh := f 12 12 * 32 + f 6 2
  let imm := sext32 6 sh
  match f 15 13 with
  | 0 => some (rvI 0x13 0 rd rd imm)
  | 1 => if rd = 0 then none else some (rvI 0x1B 0 rd rd imm)
  | 2 => some (rvI 0x13 0 rd 0 imm)
  | 3 =>
    if sh = 0 then none
    else if rd = 2 then
      some (rvI 0x13 0 2 2 (sext32 10 (f 12 12 * 512 + f 6 6 * 16 + f 5 5 * 64 + f 4 3 * 128 + f 2 2 * 32)))
    else some (rvLui rd imm)
  | 4 =>
    let rt := 8 + f 4 2
    (match f 11 10, f 12 12, f 6 5 with
     | 0, _, _ => some (rvI 0x13 5 rs rs sh)
     | 1, _, _ => some (rvI 0x13 5 rs rs (1024 + sh))
     | 2, _, _ => some (rvI 0x13 7 rs rs imm)
     | _, 0, 0 => some (rvR 0x33 0 0x20 rs rs rt)
     | _, 0, 1 => some (rvR 0x33 4 0 rs rs rt)
     | _, 0, 2 => some (rvR 0x33 6 0 rs rs rt)
     | _, 0, _ => some (rvR 0x33 7 0 rs rs rt)
     | _, _, 0 => some (rvR 0x3B 0 0x20 rs rs rt)
     | _, _, 1 => some (rvR 0x3B 0 0 rs rs rt)
     | _, _, _ => none)
  | 5 => some (rvJ (sext32 12 (f 12 12 * 2048 + f 11 11 * 16 + f 10 9 * 256 + f 8 8 * 1024 + f 7 7 * 64 + f 6 6 * 128 +
      f 5 3 * 2 + f 2 2 * 32)))
  | n => some (rvB (n - 6) rs (sext32 9 (f 12 12 * 256 + f 11 10 * 8 + f 6 5 * 64 + f 4 3 * 2 + f 2 2 * 32)))
/-- Quadrant 2. -/
def expand2 (h : BitVec 16) : Option Word :=
  let f := field h
  let rd := f 11 7
  let rs := f 6 2
  match f 15 13 with
  | 0 => some (rvI 0x13 1 rd rd (f 12 12 * 32 + rs))
  | 2 => if rd = 0 then none else some (rvI 0x03 2 rd 2 (f 12 12 * 32 + f 6 4 * 4 + f 3 2 * 64))
  | 3 => if rd = 0 then none else some (rvI 0x03 3 rd 2 (f 12 12 * 32 + f 6 5 * 8 + f 4 2 * 64))
  | 4 =>
    (match f 12 12, rd, rs with
     | 0, 0, 0 => none
     | 0, r, 0 => some (rvI 0x67 0 0 r 0)
     | 0, r, t => some (rvR 0x33 0 0 r 0 t)
     | _, 0, 0 => some 0x00100073#32
     | _, r, 0 => some (rvI 0x67 0 1 r 0)
     | _, r, t => some (rvR 0x33 0 0 r r t))
  | 6 => some (rvS 2 2 rs (f 12 9 * 4 + f 8 7 * 64))
  | 7 => some (rvS 3 2 rs (f 12 10 * 8 + f 9 7 * 64))
  | _ => none
/-- The word that a compressed instruction stands for. -/
def expandC (h : BitVec 16) : Option Word :=
  match field h 1 0 with
  | 0 => expand0 h
  | 1 => expand1 h
  | _ => expand2 h

/-! ## Memory -/

def causeFetch : Nat := 1
def causeBreak : Nat := 3
def causeLoadAlign : Nat := 4
def causeLoad : Nat := 5
def causeStoreAlign : Nat := 6
def causeStore : Nat := 7
/-- ECALL from user and from machine mode. -/
def causeCall (machine : Bool) : Nat := if machine then 11 else 8

/-- A byte of a processor's instructions: of the firmware loaded into it, else of local memory, which its addresses name. -/
def feByte (s : State) (a : Nat) : Byte :=
  match s.part.firmware with
  | [] => (s.mem.read a 1).getD 0 0
  | bs => (bs[a]?).getD ((s.mem.read a 1).getD 0 0)
/-- The owner under which a processor's stores go to their homes. -/
def feOwner (n : Nat) : StrandRef := { warp := 0, no := n + 1 }
/-- Whether a processor has a store on its way, to a line or to any. -/
def feStores (s : State) (n : Nat) (p : Pending → Bool) : Bool :=
  s.pend.any fun x => x.core == unitCore && x.owner == feOwner n && p x

/-- An instruction ends in an exception. -/
def feTrap (s : State) (n : Nat) (x : FrontEnd) (cause : Nat) (tval : DWord) : Out := .next (setFe s n (x.takeException cause tval))
/-- An instruction that is none, with an mtval that is not laid down: free (log entry 10). -/
def feIllegal (s : State) (n : Nat) (x : FrontEnd) : Out := feTrap s n x illegalCause (Config.freeAddress s.fresh)
/-- An instruction retires: a register written, and the next address. -/
def feGo (s : State) (n : Nat) (x : FrontEnd) (rd : BitVec 5) (v to_ : DWord) : Out :=
  .next (setFe s n { x.setX rd v with pc := to_, instret := x.instret + 1 })

/-- Where the physical function's registers stand in a processor's addresses: 1 MiB from 2^55, for machine mode (R374; 12 R325;
17 R448; DESIGN CHOICE, log entry 79). -/
def pfBase : Nat := 2 ^ 55
def pfOffset (x : FrontEnd) (a : Nat) : Option Nat :=
  if x.machine && decide (pfBase ≤ a ∧ a < pfBase + 2 ^ 20) then some (a - pfBase) else none
/-- A word or doubleword of a register, as a processor reads it. -/
def feReadPf (s : State) (off size : Nat) : Nat := (readPf (off / 8 * 8) s).toNat / 2 ^ (8 * (off % 8)) % 2 ^ (8 * size)
/-- A word or doubleword of a processor written to a register; the processor goes on as the write left it. -/
def feWritePf (s : State) (n off size : Nat) (v next : DWord) : Out :=
  match (if size = 8 then writePf off v s else writePf32 off v s) with
  | .next s => (match feAt s n with
    | some x => feGo s n x 0 0 next
    | none => .fault .noFrontEnd)
  | o => o

/-- The code under which a processor asks for a line. -/
def feCode (fe : Nat) : Nat := 2 * firstCode + fe
/-- An access of n bytes at an address, aligned and in local memory, made where no older store of the processor meets its line and
its home serves it, of memory as it is answered; else the exception, or the instruction is tried again. -/
def feAccess (s : State) (fe : Nat) (x : FrontEnd) (store : Bool) (a : DWord) (size ev : Nat)
    (f : State → Memory → Out) : Out :=
  let line := lineOf a.toNat
  if a.toNat % size ≠ 0 then feTrap s fe x (if store then causeStoreAlign else causeLoadAlign) a
  else if memSize ≤ a.toNat then feTrap s fe x (if store then causeStore else causeLoad) a
  else if feStores s fe (·.line == line) then .next s
  else
    let fails (s : State) : Out := feTrap s fe x (if store then causeStore else causeLoad) a
    match answerOf s line none ev (feCode fe) with
    | some y =>
      let s' := dropAnswers s none (feCode fe) [line]
      if y.error.isSome then fails s' else f s' (answeredMem s none (feCode fe))
    | none =>
      if waitsAt s line ev (feCode fe) then .next s
      else match homeAccess s line { partEvent s ev with op := feCode fe } with
        | (s, .done) => f s s.mem
        | (s, .error _) => fails s
        | (s, _) => .next s
def feLoad (s : State) (n : Nat) (x : FrontEnd) (w : Word) (next : DWord) : Out :=
  let f3 := rvF3 w
  let size := 2 ^ (f3 % 4)
  let a := x.x (rvRs1 w) + rvImmI w
  let give (s : State) (v : Nat) : Out := feGo s n x (rvRd w) (if f3 < 4 then signedField v (8 * size) else BitVec.ofNat 64 v) next
  if f3 = 7 then feIllegal s n x
  else match pfOffset x a.toNat with
    | some off =>
      if off % size ≠ 0 then feTrap s n x causeLoadAlign a
      else if size < 4 then feTrap s n x causeLoad a
      else give s (feReadPf s off size)
    | none => feAccess s n x false a size evRD fun s m => give s (leNat (m.read a.toNat size))
/-- A store of a processor, on its way to its home. -/
def feStore (s : State) (n : Nat) (x : FrontEnd) (w : Word) (next : DWord) : Out :=
  let size := 2 ^ rvF3 w
  let a := x.x (rvRs1 w) + rvImmS w
  if 3 < rvF3 w then feIllegal s n x
  else if a.toNat % size ≠ 0 then feTrap s n x causeStoreAlign a
  else if let some off := pfOffset x a.toNat then
    if size < 4 then feTrap s n x causeStore a else feWritePf s n off size (x.x (rvRs2 w)) next
  else if memSize ≤ a.toNat then feTrap s n x causeStore a
  else
    let p : Pending :=
      { id := s.nextId, op := s.nextId, writer := .unit, rel := false, window := false, tag := none, poison := false, value := 0,
        va := a, lanes := 0, core := unitCore, owner := feOwner n, pa := a.toNat, bytes := leBytes size (x.x (rvRs2 w)).toNat }
    feGo { s with nextId := s.nextId + 1, pend := s.pend ++ [p] } n x 0 0 next

/-- A reserved line holds what it held (log entry 8). -/
def resvHolds (s : State) (x : FrontEnd) (a : Nat) : Bool :=
  match x.resv with
  | some (b, bs) => b == a && lineBytes s (lineOf a) == bs
  | none => false
/-- Whether the word that an atomic's event meets performs it. -/
def performsAt (s : State) (line : Nat) : Bool :=
  let w := (meetsWord s line (partEvent s evAT)).1
  wordHas w bitWD || wordHas w bitOW
/-- LR, SC and the AMOs, of w bits. -/
def feAmo (s : State) (n : Nat) (x : FrontEnd) (w : Word) (size : Nat) (next : DWord) : Out :=
  let a := x.x (rvRs1 w)
  let f5 := field w 31 27
  let ok := performsAt s (lineOf a.toNat)
  let put (s : State) (v : Nat) : State :=
    if ok then { s with mem := s.mem.write a.toNat (leBytes size v) } else s
  if f5 = 2 then
    if rvRs2 w ≠ 0 then feIllegal s n x
    else feAccess s n x false a size evAQ fun s m =>
      feGo s n { x with resv := some (a.toNat, m.read (lineBase (lineOf a.toNat)) 64) } (rvRd w)
        (signedField (leNat (m.read a.toNat size)) (8 * size)) next
  else if f5 = 3 then
    if !resvHolds s x a.toNat && a.toNat % size == 0 then feGo s n { x with resv := none } (rvRd w) 1 next
    else feAccess s n x true a size evAT fun s' _ =>
      feGo (put s' (x.x (rvRs2 w)).toNat) n { x with resv := none } (rvRd w) 0 next
  else
    match rvAmo f5 (0 : BitVec (8 * size)) 0 with
    | none => feIllegal s n x
    | some _ =>
      feAccess s n x true a size evAT fun s _ =>
        let old := BitVec.ofNat (8 * size) (leNat (s.mem.read a.toNat size))
        let new := (rvAmo f5 old ((x.x (rvRs2 w)).setWidth (8 * size))).getD old
        feGo (put s new.toNat) n x (rvRd w) (signedField old.toNat (8 * size)) next

/-! ## Control and status registers (Zicsr; R393) -/

/-- Bits of mstatus that software may set: MIE, MPIE, MPP, MPRV and TW; MPP holds machine or user mode. -/
def mstatusOf (v : DWord) : DWord :=
  withField (v &&& 0x0000000000221888#64) 12 11 (if field v 12 11 = 3 then 3 else 0)
def csrXPKTQ : Nat := 0x7C0
def csrXTIMER : Nat := 0x7C1
def csrXFREE : Nat := 0x7C2
/-- Cycles of the front-end processors since reset: they run at 1.5 GHz (18 R453). -/
def feCycles (s : State) : Nat := 3 * s.ns / 2
/-- What a register reads as; none for one that is not there. XFREE's value is open: free (log entry 10). -/
def csrRead (s : State) (n : Nat) (x : FrontEnd) (c : Nat) : Option DWord :=
  let cycle := BitVec.ofNat 64 (feCycles s) + x.cycleBase
  if c = 0x300 then some (x.mstatus ||| 0x0000000200000000#64)
  else if c = 0x301 then some 0x8000000000101105#64
  else if c = 0x304 then some x.mie
  else if c = 0x305 then some x.mtvec
  else if c = 0x306 then some 0
  else if c = 0x340 then some x.mscratch
  else if c = 0x341 then some x.mepc
  else if c = 0x342 then some x.mcause
  else if c = 0x343 then some x.mtval
  else if c = 0x344 then some 0
  else if c = 0xB00 then some cycle
  else if c = 0xB02 then some x.instret
  else if c = 0xF11 ∨ c = 0xF12 ∨ c = 0xF13 ∨ c = 0xF15 then some 0
  else if c = 0xF14 then some (BitVec.ofNat 64 n)
  else if c = csrXPKTQ then some (pktqValue s n)
  else if c = csrXTIMER then some x.xtimer
  else if c = csrXFREE then some (Config.freeAddress s.fresh)
  else none
/-- A register written. A time in XTIMER that global time has reached signals at once. -/
def csrWrite (s : State) (n : Nat) (x : FrontEnd) (c : Nat) (v : DWord) : State × FrontEnd :=
  if c = 0x300 then (s, { x with mstatus := mstatusOf v })
  else if c = 0x304 then (s, { x with mie := v })
  else if c = 0x305 then (s, { x with mtvec := v &&& ~~~2#64 })
  else if c = 0x340 then (s, { x with mscratch := v })
  else if c = 0x341 then (s, { x with mepc := v &&& ~~~1#64 })
  else if c = 0x342 then (s, { x with mcause := v })
  else if c = 0x343 then (s, { x with mtval := v })
  else if c = 0xB00 then (s, { x with cycleBase := v - BitVec.ofNat 64 (feCycles s) })
  else if c = 0xB02 then (s, { x with instret := v - 1 })
  else if c = csrXTIMER then
    (s, { x with xtimer := v, signals := if v.toNat ≤ s.ns then x.signals ||| (1#4 <<< sigTMR) else x.signals })
  else if c = csrXFREE then (freeEntryAt s n v.toNat, x)
  else (s, x)
/-- CSRRW, CSRRS, CSRRC and their immediate forms. A read of XPKTQ takes the entry. -/
def feCsr (s : State) (n : Nat) (x : FrontEnd) (w : Word) (next : DWord) : Out :=
  let f3 := rvF3 w
  let c := field w 31 20
  let src : DWord := if f3 < 4 then x.x (rvRs1 w) else (rvRs1 w).setWidth 64
  let writes : Bool := f3 % 4 == 1 || rvRs1 w != 0
  let reads : Bool := f3 % 4 != 1 || rvRd w != 0
  match csrRead s n x c with
  | none => feIllegal s n x
  | some old =>
    if (field w 29 28 != 0 && !x.machine) || (writes && decide (0xC00 ≤ c)) then feIllegal s n x
    else
      let new : DWord := if f3 % 4 = 1 then src else if f3 % 4 = 2 then old ||| src else old &&& ~~~src
      let (s, x) := if writes then csrWrite s n x c new else (s, x)
      let s := if c = csrXPKTQ && reads then takeEntry s (feDie n) else s
      feGo s n x (rvRd w) old next

/-! ## One instruction -/

/-- MRET: back to the mode and the address that the exception saved. -/
def feMret (s : State) (n : Nat) (x : FrontEnd) : Out :=
  let m := withField x.mstatus 3 3 (field x.mstatus 7 7)
  let m := withField (withField m 7 7 1) 12 11 0
  let back : Bool := field x.mstatus 12 11 == 3
  let m := if back then m else withField m 17 17 0
  feGo s n { x with mstatus := m, machine := back } 0 0 x.mepc
/-- ECALL, EBREAK, MRET, WFI, which ends at once, and the CSR instructions. -/
def feSystem (s : State) (n : Nat) (x : FrontEnd) (w : Word) (next : DWord) : Out :=
  if rvF3 w = 4 then feIllegal s n x
  else if rvF3 w ≠ 0 then feCsr s n x w next
  else if w = 0x00000073#32 then feTrap s n x (causeCall x.machine) 0
  else if w = 0x00100073#32 then feTrap s n x causeBreak x.pc
  else if w = 0x30200073#32 then (if x.machine then feMret s n x else feIllegal s n x)
  else if w = 0x10500073#32 then
    (if x.machine || !x.mstatus.getLsbD 21 then feGo s n x 0 0 next else feIllegal s n x)
  else feIllegal s n x
/-- A register-register operation, with the M extension's. -/
def feReg (w : Word) (a b : DWord) : Option DWord :=
  match rvF7 w with
  | 0x00 => some (rvAlu (rvF3 w) false a b)
  | 0x20 => if rvF3 w = 0 ∨ rvF3 w = 5 then some (rvAlu (rvF3 w) true a b) else none
  | 0x01 => some (rvMul (rvF3 w) a b)
  | _ => none
def feRegW (w : Word) (a b : DWord) : Option DWord :=
  match rvF7 w with
  | 0x00 => rvAluW (rvF3 w) false a b
  | 0x20 => if rvF3 w = 0 ∨ rvF3 w = 5 then rvAluW (rvF3 w) true a b else none
  | 0x01 => rvMulW (rvF3 w) a b
  | _ => none
/-- A register-immediate operation: a shift's amount has 6 bits, a word shift's 5. -/
def feImm (w : Word) (a : DWord) : Option DWord :=
  let f6 := field w 31 26
  match rvF3 w with
  | 1 => if f6 = 0 then some (rvAlu 1 false a (rvImmI w)) else none
  | 5 => if f6 = 0 then some (rvAlu 5 false a (rvImmI w)) else if f6 = 0x10 then some (rvAlu 5 true a (rvImmI w)) else none
  | f3 => some (rvAlu f3 false a (rvImmI w))
def feImmW (w : Word) (a : DWord) : Option DWord :=
  match rvF3 w with
  | 0 => rvAluW 0 false a (rvImmI w)
  | 1 => if rvF7 w = 0 then rvAluW 1 false a (rvImmI w) else none
  | 5 => if rvF7 w = 0 then rvAluW 5 false a (rvImmI w) else if rvF7 w = 0x20 then rvAluW 5 true a (rvImmI w) else none
  | _ => none

/-- A base instruction of len bytes on a processor. -/
def runBase (s : State) (n : Nat) (x : FrontEnd) (w : Word) (len : Nat) : Out :=
  let next := x.pc + BitVec.ofNat 64 len
  let a := x.x (rvRs1 w)
  let b := x.x (rvRs2 w)
  let put (v : Option DWord) : Out := match v with
    | some v => feGo s n x (rvRd w) v next
    | none => feIllegal s n x
  match rvOp w with
  | 0x37 => put (some (rvImmU w))
  | 0x17 => put (some (x.pc + rvImmU w))
  | 0x6F => feGo s n x (rvRd w) next (x.pc + rvImmJ w)
  | 0x67 => if rvF3 w = 0 then feGo s n x (rvRd w) next ((a + rvImmI w) &&& ~~~1#64) else feIllegal s n x
  | 0x63 =>
    (match rvTaken (rvF3 w) a b with
     | some t => feGo s n x 0 0 (if t then x.pc + rvImmB w else next)
     | none => feIllegal s n x)
  | 0x03 => feLoad s n x w next
  | 0x23 => feStore s n x w next
  | 0x13 => put (feImm w a)
  | 0x1B => put (feImmW w a)
  | 0x33 => put (feReg w a b)
  | 0x3B => put (feRegW w a b)
  | 0x0F => if rvF3 w = 0 then (if feStores s n fun _ => true then .next s else feGo s n x 0 0 next) else feIllegal s n x
  | 0x2F => if rvF3 w = 2 then feAmo s n x w 4 next else if rvF3 w = 3 then feAmo s n x w 8 next else feIllegal s n x
  | 0x73 => feSystem s n x w next
  | _ => feIllegal s n x

/-- An Xbrod instruction by its number in the table. -/
def runXbrod (form : Nat) (f : XbrodF) (s : State) : Out :=
  match form with
  | 0 => execQfetch f s
  | 1 => execXbrodBfx f s
  | 2 => execXbrodBfxS f s
  | 3 => execXbrodBfi f s
  | 4 => execSigwait f s
  | 5 => execDispatch f s
  | 6 => execQsave f s
  | 7 => execQload f s
  | _ => execEvpost f s
/-- The instruction at a processor's pc: 2 or 4 bytes of it. -/
def feWord (s : State) (a : Nat) : Word × Nat :=
  let h : BitVec 16 := feByte s (a + 1) ++ feByte s a
  if field h 1 0 = 3 then (feByte s (a + 3) ++ feByte s (a + 2) ++ h, 4) else (h.setWidth 32, 2)
/-- One instruction of a front-end processor: an Xbrod instruction, or the illegal-instruction exception of a custom-0 word
that is none, or one of the base. -/
def feStep (s : State) (n : Nat) : Out :=
  match feAt s n with
  | none => .fault .noFrontEnd
  | some x =>
    if memSize ≤ x.pc.toNat then feTrap s n x causeFetch x.pc
    else
      match feWord s x.pc.toNat with
      | (w, 4) =>
        (match xbrodForm w with
         | some k => runXbrod k (xbrodFields w) s
         | none => if rvOp w = 0x0B then feIllegal s n x else runBase s n x w 4)
      | (h, _) =>
        (match expandC (h.setWidth 16) with
         | some w => runBase s n x w 2
         | none => feIllegal s n x)

end Sys2Proof.Machine
end

