-- ==== Sys2Proof/Machine/Schedule.lean ====
section
/-! DEFINITION. What goes next: stimuli from outside, a front-end processor, an event of the part itself, a strand, or an
operation in flight; how time passes; and how an instruction is placed to run next (spec/04_issue.md R126, R127;
spec/15_traps.md R412, R415; spec/16_observe.md R437; spec/18_package.md R453, R456; log entries 2 to 4). -/

namespace Sys2Proof.Machine

/-! ## Time (log entry 3) -/

/-- A strand's debt after n cycles (16 R437). -/
def Strand.payDebt (n : Nat) (k : Strand) : Strand := { k with debt := k.debt - n }
def Warp.payDebt (n : Nat) (w : Warp) : Warp :=
  { w with strands := w.strands.map (·.payDebt n), kernel := w.kernel.map (·.payDebt n) }
def Warp.indebted (w : Warp) : Bool := (w.strands.any (·.debt != 0)) || w.kernel.any (·.debt != 0)
/-- A processor's pending signals once global time has come to ns: TMR as it reaches XTIMER (14 R393). -/
def FrontEnd.timed (s : State) (ns : Nat) (x : FrontEnd) : FrontEnd :=
  if s.ns < x.xtimer.toNat ∧ x.xtimer.toNat ≤ ns then { x with signals := x.signals ||| (1#4 <<< sigTMR) } else x
/-- n cycles of the clock. -/
def tick (n : Nat) (s : State) : State :=
  let f := clock s.part
  let t := s.frac + 10 * n
  let ns := s.ns + t / f
  let s := if s.warps.any (·.indebted) then { s with warps := s.warps.map (·.payDebt n) } else s
  { s with cycles := s.cycles + n, ns, frac := t % f,
           dies := s.dies.map fun d => { d with fes := d.fes.map (·.timed s ns) } }

/-! ## Which strand issues (04 R126, R127) -/

/-- The strands of a warp that are not stopped by its mode, a halt or a request. -/
def Warp.runnable (s : State) (l : Launch) (w : Warp) : List (StrandRef × Strand) :=
  match w.mode with
  | .running =>
    if w.haltPending then []
    else (w.strands.filter fun k => !k.parked s l w).map fun k => ({ warp := w.uid, no := k.no }, k)
  | .handler =>
    if (w.haltPending && w.forced) || w.parked s l then []
    else (w.kernel.toList).map fun k => ({ warp := w.uid, no := kernelNo }, k)
  | _ => []
/-- Whether a waiting strand's instruction, issued now, would wait as before. -/
def waitsOnAgain (s : State) (r : StrandRef) (w : Wait) : Bool :=
  match issueStrand s r with
  | .next s' => (strandOf s' r).any fun k => k.wait == some w
  | _ => false
/-- Whether what a strand waits for has come about. -/
def waitOver (s : State) (l : Launch) (w : Warp) (r : StrandRef) (k : Strand) : Bool :=
  match k.wait with
  | none => true
  | some (.value op) =>
    (match (opOf s op).map Op.body with
     | some (.head ls) => ls.all (·.back.isSome)
     | some _ => false
     | none => true)
  | some (.values op slot old) => (opOf s op).isNone && !waitsOnAgain s r (.values op slot old)
  | some (.held seq) => !((tenantOf s l.tenant).rplHeld.any (·.seq == seq))
  | some .ringFull =>
    ringFree (tenantOf s l.tenant)
  | some (.acquired scope) => acquireHolds s w.core r k scope
  | some x => !waitsOnAgain s r x
/-- R126: a strand is ready when it owes no cycles and waits for nothing, or has a fault to raise. -/
def strandReady (s : State) (l : Launch) (w : Warp) (x : StrandRef × Strand) : Bool :=
  x.2.debt == 0 && ((dueFault s x.1 x.2).isSome || waitOver s l w x.1 x.2)
/-- The place of a strand in the choice: longest without an issue, then core, warp slot and strand. -/
def issueKey (w : Warp) (k : Strand) : Nat := ((k.lastIssue * 512 + w.core) * 64 + w.slot) * 32 + k.no
/-- Strands that may issue, in that order. -/
def issueOrder (s : State) : List (Warp × Launch × StrandRef × Strand) :=
  let all := s.warps.flatMap fun w => match gangOf s w.gang with
    | some g =>
      if g.phase == .placed then (match launchOf s g.launch with
        | some l => (w.runnable s l).map fun x => (w, l, x.1, x.2)
        | none => [])
      else []
    | none => []
  sortBy (fun x => issueKey x.1 x.2.2.2) all
/-- The strand that issues next. -/
def pickStrand (s : State) : Option StrandRef :=
  ((issueOrder s).find? fun x => strandReady s x.2.1 x.1 (x.2.2.1, x.2.2.2)).map (·.2.2.1)

/-! ## Events of the part -/

/-- Something the part does of itself. -/
inductive Chore
  | frame (warp : Nat)
  | record (gang : Nat)
  | force (gang : Nat)
  | save (gang : Nat)
  | resetQueue (tenant queue : Nat)
  | disableQueue (tenant queue : Nat)
  | ageQueues (die : Nat)
  | ageGangs (die : Nat)
  | timeout (launch : Nat)
  | group (die launch node : Nat)
  | timer (die launch node : Nat)
  | deadlock (warp : Nat)
  | pool (warp strand : Nat)
  | place (die : Nat)
  | displace (gang yard : Nat)
  | compact (gang yard : Nat)
  | wake (fe : Nat)
  | again (r : StrandRef)
  | bridge
  | evict (line : Nat)
  | overdue (op : Nat)
  | reroute (port : Nat)
  | waiting
  | told (tenant : Nat)
  | time
  | enable (tenant : Nat)
  | complete (op : Nat)
  | send (entry : Nat)
  | start (tenant queue : Nat)
  | work (packet : Nat)
  | horizon (line : Nat)
  | hold (line : Nat)
  | pin (core line : Nat)
  | retry
  | range
  | command (tenant : Nat)
  | report (tenant : Nat)
  deriving DecidableEq, Repr

/-- The work of a packet, by its phase and type. -/
def workPacket (p : Packet) (s : State) : Out :=
  match p.phase with
  | .ending _ => execPacketCompletion p.id s
  | .writing _ _ => execPacketCompletion p.id s
  | .wordFailed => execPacketCompletion p.id s
  | .polling ns _ =>
    if p.timeoutNs ≠ 0 ∧ ns + p.timeoutNs ≤ s.ns then execWaitvalTimeout p.id s else execWaitvalPoll p.id s
  | _ =>
    match p.type with
    | 0 => execNopPacket p.id s
    | 1 => execLaunch p.id s
    | 2 => execCopyPacket p.id s
    | 3 => execEvent p.id s
    | 4 => execWaitval p.id s
    | 5 => execTimestamp p.id s
    | _ => execIndirect p.id s
/-- The completion of an operation. -/
def completeNext (o : Op) (s : State) : Out :=
  match o.body with
  | .load .. => execLoadCompletion o.id (BitVec.allOnes 64) s
  | .fill .. => execLoadCompletion o.id (BitVec.allOnes 64) s
  | .bufLoad .. => execLoadCompletion o.id (BitVec.allOnes 64) s
  | .store .. => execStoreCompletion o.id s
  | .bufStore .. => execStoreCompletion o.id s
  | .atomic _ returns _ => if returns then execAt o.id s else execStoreCompletion o.id s
  | .mma .. => execEngineOperationComplete o.id s
  | .tileLoad .. => execEngineOperationComplete o.id s
  | .tileStore .. => execEngineOperationComplete o.id s
  | .copy _ => execCopyCompletion o.id s
  | .callWrite .. => .next s
  | .retRead .. => .next s
  | .head _ =>
    if (strandOf s o.owner).any (·.wait == some (.value o.id)) then .next s else .next (completeOp s o)
/-- An XCMD command's completion. -/
def completeCommand (tenant : Nat) (s : State) : Out :=
  match (tenantOf s tenant).xbusy with
  | some (.invalidate _ _) => execInvalidationComplete tenant s
  | some (.migrate ..) => execMigrationDrainComplete tenant s
  | none => .next s

def doChore (c : Chore) (s : State) : Out :=
  match c with
  | .frame w => execFrameWrite w s
  | .record g => execFaultRecordWrite g s
  | .force g => execPreemptionForce g s
  | .save g => execPreemptionSave g s
  | .resetQueue t q => execDoorbellResetComplete t q s
  | .disableQueue t q => execQueueDisableComplete t q s
  | .ageQueues d => execQueueAgeing d s
  | .ageGangs d => execPlacementAgeing d s
  | .timeout p => execLaunchTimeout p s
  | .group d l n => execGroupStart d l n s
  | .timer d l n => execNodeTimer d l n s
  | .deadlock w => execMeetDeadlock w s
  | .pool w k => execPoolTimeout w k s
  | .place d => execPlacement d (Config.freeAddress s.fresh).toNat s
  | .displace g y => execPlacementDisplace g y s
  | .compact g y => execRegisterCompaction g y s
  | .wake n => .next { s with feTurn := some n }
  | .again r => issueStrand s r
  | .bridge => .next (bridgeTurn s)
  | .evict line => execEv line s
  | .overdue op => execRemoteTimeout op s
  | .reroute p => execPortReroute p s
  | .waiting => .next (sendHeld s)
  | .told t => .next (tellHeld s t)
  | .time => .next (sendTime s)
  | .enable t => (match (tenantOf s t).enabling with
      | some (q, p) => .next (enableQueue s t q p)
      | none => .next s)
  | .complete op => (match opOf s op with
      | some o => completeNext o s
      | none => .next s)
  | .send e => execWr e s
  | .start t q => execPacketStart t q s
  | .work p => (match packetOf s p with
      | some p => workPacket p s
      | none => .next s)
  | .horizon line => execLx line s
  | .hold line => execTo line s
  | .pin core line => execPinTimeout core line s
  | .retry => .next (sendRetries s)
  | .range => execRangeChangeComplete s
  | .command t => completeCommand t s
  | .report t => execAttestReport t s

/-! ## Events whose time has come -/

def isPlaced (s : State) (gang : Nat) : Bool := (gangOf s gang).any fun g => g.phase == .placed
/-- Whether the reading of a warp's frame can go on. -/
def frameAsks (s : State) (w : Warp) : Bool := (nodeOf s w).any fun x => frameTurn s x.2.1 w
def frameDue (s : State) (w : Warp) : Bool :=
  w.drained s && (match w.mode with
    | .ending => true
    | .stopping _ => true
    | _ => isPlaced s w.gang) && (match w.mode with
    | .ending => true
    | .stopping _ => true
    | .running => w.haltPending
    | .handler => w.haltPending && w.forced && frameAsks s w
    | .halted _ => w.goesOnHalted s && frameAsks s w
    | _ => false)
def recordDue (s : State) (g : Gang) : Bool :=
  match g.phase with
  | .terminating kind warp _ => !gangBusy s g.uid && gangStopped s g.uid &&
      (kind != 1 || (warpOf s warp).all (frameAsks s))
  | .recording job _ => jobDone s job
  | _ => false
def forceDue (s : State) (w : Warp) : Bool :=
  w.preemptPending && w.mode == .running && !w.forced && decide (w.preemptAt + displaceNs ≤ s.ns) && isPlaced s w.gang
def saveDue (s : State) (g : Gang) : Bool :=
  g.phase == .placed && ((launchOf s g.launch).any fun l => readyToSave s l g.uid &&
    (savesIn s l g.uid || (askSaves s l g.uid).nextId != s.nextId))
def resetDue (s : State) (t : Nat) (x : Queue) : Bool :=
  x.resetTo.isSome && (startedOf s t x.num).isEmpty && x.state != .disabled
def disableDue (s : State) (t : Nat) (x : Queue) : Bool := x.disabling && (startedOf s t x.num).isEmpty
/-- Dies on which the rules of R380 are due: at an ageing step, or since a doorbell or a completion, once they need not wait, or
have a request to send first. -/
def queuesStale (s : State) (die : Nat) : Bool :=
  let xs := dieQueues s die .pending
  (xs.any fun x => agesNow s die x.2) || ((dieOf s die).rulesDue && !xs.isEmpty &&
    (match firmwareStep s die with | .wait s' => s'.nextId != s.nextId | _ => true))
def gangsStale (s : State) (die : Nat) : Bool := s.gangs.any fun g => g.die == die && ageGang s g != g
/-- Launches with a die queue whose group is due to start. -/
def groupDue (s : State) (l : Launch) : Option Chore :=
  (l.nodes.zipIdx).findSome? fun (n, i) => (List.range 4).findSome? fun d =>
    let q := dieQueue l i d
    if 0 < n.target ∧ n.target ≤ q.length then some (.group d l.uid i)
    else match q.head? with
      | some r => if r.since + n.timer ≤ s.cycles then some (.timer d l.uid i) else none
      | none => none
def poolDue (s : State) (w : Warp) : Option Chore :=
  if !w.goesOn || !isPlaced s w.gang then none
  else (w.liveStrands.find? fun x => x.2.wait == some .records && decide (x.2.waitSince + poolCycles ≤ s.cycles)).map fun x =>
    .pool w.uid x.1
/-- Gangs that have waited 20 µs, with a yard that they clear. -/
def displaceDue (s : State) (g : Gang) : Option Chore :=
  match g.phase, (launchOf s g.launch).bind fun l => l.nodes[g.node]? with
  | .queued _ ns _ eprio, some n =>
    if s.ns < ns + displaceNs ∨ !poolsHold s g ∨ stillClearing s g eprio then none
    else ((yardsFor g).find? fun y => leastYard s n eprio y (yardsFor g) &&
      (displaceable s eprio y).any fun d => s.warps.any fun w => w.gang == d.uid && !w.preemptPending).map fun y =>
        .displace g.uid y
  | _, _ => none
/-- Gangs that contiguity alone has held back for 2^20 cycles. -/
def compactDue (s : State) (g : Gang) : Option Chore :=
  match g.phase, (launchOf s g.launch).bind fun l => l.nodes[g.node]? with
  | .queued _ _ _ _, some n =>
    if s.cycles < g.compactSince + poolCycles then none
    else (blockedYards s g n).head?.map fun y => .compact g.uid y
  | _, _ => none
/-- A front-end processor whose SIGWAIT may end. -/
def wakeDue (s : State) : Option Chore :=
  ((List.range 16).find? fun n => match feAt s n with
    | some x => (match x.waiting with
        | some f => x.signals &&& (x.x f.rs1).setWidth 4 != 0
        | none => false)
    | none => false).map .wake

/-- Queues of every tenant, with the tenant. -/
def allTenantQueues (s : State) : List (Nat × Queue) := s.tenants.flatMap fun t => t.queues.map fun q => (t.num, q)
def allDies : List Nat := [0, 1, 2, 3]

/-- The first event that is due, in the order of this list; each changes what made it due. -/
def urgent (s : State) : Option Chore :=
  ((s.warps.find? (frameDue s)).map fun w => Chore.frame w.uid) <|>
  ((s.gangs.find? (recordDue s)).map fun g => .record g.uid) <|>
  ((s.warps.find? (forceDue s)).map fun w => .force w.gang) <|>
  ((s.gangs.find? (saveDue s)).map fun g => .save g.uid) <|>
  (((allTenantQueues s).find? fun x => resetDue s x.1 x.2).map fun x => .resetQueue x.1 x.2.num) <|>
  (((allTenantQueues s).find? fun x => disableDue s x.1 x.2).map fun x => .disableQueue x.1 x.2.num) <|>
  ((allDies.find? (queuesStale s)).map .ageQueues) <|>
  ((allDies.find? (gangsStale s)).map .ageGangs) <|>
  ((s.launches.find? fun l => !l.timedOut && l.timeout.any fun d => decide (d ≤ s.ns)).map fun l => .timeout l.uid) <|>
  ((sortBy (fun l => l.number.toNat) s.launches).findSome? (groupDue s)) <|>
  ((s.warps.find? fun w => isPlaced s w.gang && (deadlocked s w).isSome).map fun w => .deadlock w.uid) <|>
  (s.warps.findSome? (poolDue s)) <|>
  ((allDies.find? fun d => (placeOne s d (Config.freeAddress s.fresh).toNat).isSome).map .place) <|>
  (s.gangs.findSome? (displaceDue s)) <|>
  (s.gangs.findSome? (compactDue s)) <|>
  wakeDue s <|>
  ((s.tenants.find? fun t => (untold s t).isSome).map fun t => .told t.num)

/-! ## Work in progress, which may have to wait -/

/-- Queues whose slot may read or start a packet. -/
def startChore (s : State) (x : Nat × Queue) : Option Chore :=
  if !fetching x.2 then none
  else match waitingOf s x.1 x.2.num with
    | some p => if mayStart p (startedOf s x.1 x.2.num) then some (.start x.1 x.2.num) else none
    | none =>
      if x.2.rindex != x.2.windex && decide ((startedOf s x.1 x.2.num).length < 64) then some (.start x.1 x.2.num) else none
/-- Whether the shipped firmware serves a die: no program placed on its processors does. -/
def firmwareServes (s : State) (die : Nat) : Bool :=
  s.feTurn.isNone && (dieOf s die).fes.all fun x => x.waiting.isNone && !x.ready
def workChore (s : State) (p : Packet) : Option Chore :=
  match p.phase with
  | .waiting _ => none
  | .handed => if firmwareServes s (packetDie s p) then some (.work p.id) else none
  | .running => if p.type = 6 then some (.work p.id) else none
  | .writing job _ => if jobDone s job then some (.work p.id) else none
  | _ => some (.work p.id)
/-- Lines of one slice of the L2, of 2 MiB: 48 on each of four dies (00 R4). -/
def sliceLines : Nat := 32768
/-- Lines whose home is a slice, of those that are not at rest. -/
def sliceOf (line : Nat) : Nat := Config.homeSlice line % 192
def inSlice (s : State) (n : Nat) : Nat := (s.homes.filter fun e => sliceOf e.1 == n).length
/-- A slice with more lines than it has room for evicts one, in its turn; while R329 lets none of them go it holds them all (DESIGN
CHOICE, log entry 65). -/
def evictDue (s : State) : Option Chore :=
  if s.homes.length ≤ sliceLines then none
  else ((s.homes.find? fun e => evictable s e.1 && decide (sliceLines < inSlice s (sliceOf e.1))).map fun e => .evict e.1)
/-- Whether a strand waits for a line that its home refuses or holds back for now. -/
def asksAgain : Option Wait → Bool
  | some .line => true
  | some (.walk ..) => true
  | _ => false
/-- Such strands ask again. -/
def askAgain (s : State) : List Chore :=
  (issueOrder s).filterMap fun x => if asksAgain x.2.2.2.wait && x.2.2.2.debt == 0 then some (.again x.2.2.1) else none
/-- Front-end processors with an instruction to execute. -/
def feChores (s : State) : List Chore :=
  (List.range 16).filterMap fun n => if (feAt s n).any (·.ready) then some (.wake n) else none
/-- What may be tried next, in no order that the spec lays down. -/
def chores (s : State) : List Chore :=
  s.ops.map (fun o => Chore.complete o.id) ++ s.pend.map (fun p => .send p.id) ++
  (allTenantQueues s).filterMap (startChore s) ++ s.packets.filterMap (workChore s) ++
  (s.homes.filter fun e => horizonPassed s e.1).map (fun e => .horizon e.1) ++
  (s.homes.filter fun e => timeUp e.2 s.ns).map (fun e => .hold e.1) ++
  s.l1.filterMap (fun c => match c.kind with
    | .pin _ since _ _ => if since + pinCycles ≤ s.cycles then some (.pin c.core c.line) else none
    | _ => none) ++
  (if s.retries.isEmpty && s.again.isEmpty then [] else [.retry]) ++
  (if s.part.change.isSome then [.range] else []) ++
  (s.tenants.filter (·.xbusy.isSome)).map (fun t => .command t.num) ++
  (s.part.attests.filter (·.2.busy)).map (fun a => .report a.1) ++
  (if s.part.bridgeQ.isEmpty && !(s.part.bridge.any (·.snooped)) then [] else [.bridge]) ++
  (evictDue s).toList ++ (overdueIds s).map .overdue ++ ((List.range 18).filter (drained s)).map .reroute ++
  (if s.waiting.isEmpty then [] else [.waiting]) ++ (if timeDue s then [.time] else []) ++
  (s.tenants.filter (·.enabling.isSome)).map (fun t => .enable t.num) ++ askAgain s ++ feChores s
/-- The one tried now: each in its turn. -/
def pickChore (s : State) : Option Chore :=
  let cs := chores s
  cs[s.fresh / 2 % max 1 cs.length]?

/-! ## What goes next -/

/-- Who acts in a step. -/
inductive Turn
  | stimulus
  | front (n : Nat)
  | chore (c : Chore)
  | strand (r : StrandRef)
  | idle
  deriving DecidableEq, Repr

/-- Whether the oldest stimulus is due. -/
def stimulusDue (s : State) : Bool :=
  match s.agenda with
  | x :: _ => decide (x.cycle ≤ s.cycles) && decide (x.ns ≤ s.ns)
  | [] => false
/-- A strand and work in progress take turns. -/
def strandOrChore (s : State) : Turn :=
  let strand := (pickStrand s).map Turn.strand
  let chore := (pickChore s).map Turn.chore
  ((if s.fresh % 2 = 0 then strand <|> chore else chore <|> strand)).getD .idle
/-- Stimuli first; a part without power or past its thermal limit does nothing else (18 R456). -/
def turn (s : State) : Turn :=
  if stimulusDue s then .stimulus
  else if s.part.trip || s.part.lost then .idle
  else match s.feTurn with
    | some n => .front n
    | none => (match urgent s with
        | some c => .chore c
        | none => strandOrChore s)

/-! ## One step -/

/-- A next state with the writes of the part's units gone to their homes, the free values read counted, and n cycles gone. -/
def after (n : Nat) (o : Out) : Out :=
  match o with
  | .next s => (let s := drainUnits s; .next (tick n { s with fresh := s.fresh + 1 }))
  | .fault f => .fault f
  | .refused r => .refused r
/-- Cycles that an instruction, or a try of work in progress, takes (log entry 3). -/
def stepCycles : Nat := 4

/-- A front-end processor's turn ends: it goes on by itself unless it waits in SIGWAIT. -/
def feAfter (n : Nat) (s : State) : State :=
  match feAt s n with
  | some x => { setFe s n { x with ready := x.waiting.isNone } with feTurn := none }
  | none => { s with feTurn := none }
def feTurnOf (s : State) (n : Nat) : Out :=
  match feStep s n with
  | .next s => .next (feAfter n s)
  | o => o

def takeTurn (s : State) (t : Turn) : Out :=
  match t with
  | .stimulus => (match s.agenda with
      | x :: rest => after 0 (exec x.ev { s with agenda := rest })
      | [] => after 0 (.next s))
  | .front n => after stepCycles (feTurnOf s n)
  | .chore c => after stepCycles (doChore c s)
  | .strand r => after stepCycles (issueStrand s r)
  | .idle => after stepCycles (.next s)

/-! ## An instruction placed to run next (log entry 4) -/

/-- A node of one warp of one strand that owns every register it may name. -/
def placedNode : NodeEntry :=
  { warpGrain := true, target := 1, maxDepth := 1, recordSize := 1, timer := 1, warps := 1, teams := 1,
    strands := [(0, 0, 16)], cores := [0], regs := List.replicate 96 (0, 0x0001#16),
    granules := [16, 0, 0, 0, 0, 0, 0, 0], tiles := [1, 0, 0, 0, 0, 0, 0, 0], racks := 16, points := 16, wGranules := 1,
    aGranules := 1 }
def placedLaunch (s : State) (code : List Parcel) : Launch :=
  { uid := s.nextId, number := 1, tenant := 0, privileged := true, die := 0, packet := 0, priority := 0, timeout := none,
    image := 0, codeOff := 0, code, nodes := [placedNode], trap := none, privBytes := 4096, widths := [6, 0, 0, 0, 0, 0], seeds := 1,
    seedNode := 0, seedAddr := 0, sregs := List.replicate 32 0, counter := 1, troughs := [emptyTrough 0], faulted := false,
    timedOut := false }
def placedGang (s : State) : Gang :=
  { uid := s.nextId + 1, launch := s.nextId, node := 0, index := 0, die := 0, records := [], phase := .placed, cores := [0],
    teams := [newTeam placedNode 0], save := 0, allocs := [], freed := [], compactSince := 0, moved := [],
    clearing := none, compact := false, wBase := [0], aBase := [0], lastSave := 0 }
/-- Its one warp: all lanes launched, every register it reads full and seen. -/
def placedWarp (s : State) : Warp :=
  { uid := s.nextId + 2, gang := s.nextId + 1, team := 0, num := 0, core := 0, slot := 0, launched := BitVec.allOnes 64,
    free := List.replicate 64 0, record := List.replicate 64 0, depth := List.replicate 64 0,
    strands := [Strand.atLaunch 0 0 16 0 s.cycles], kernel := none, gregs := List.replicate 64 (List.replicate 64 0),
    full := List.replicate 64 1, sregs := List.replicate 32 0, seen := List.replicate 32 1, tiles := [(0, [])], tilePoison := [],
    blocks := [(0, 16)], frames := [0], stack := 0, tframe := 0, formed := [], mode := .running, haltPending := false,
    preemptPending := false, preemptAt := 0, forced := false, traps := 0 }
/-- Code as the one strand of the part. -/
def placeCode (s : State) (code : List Parcel) : State :=
  { s with
    launches := [placedLaunch s code]
    gangs := [placedGang s]
    warps := [placedWarp s]
    nextId := s.nextId + 3
    agenda := []
    feTurn := none
    fresh := s.fresh + s.fresh % 2
    part := { s.part with trip := false, lost := false } }
/-- A front-end word at the pc of processor 0, which executes next: in the part's firmware where the pc lies in it, else in local
memory. -/
def placeFront (s : State) (w : Word) : State :=
  let pc := match feAt s 0 with
    | some x => x.pc.toNat
    | none => 0
  let bs := leBytes 4 w.toNat
  let inside : Bool := decide (pc < s.part.firmware.length)
  { s with mem := s.mem.store pc bs, feTurn := some 0, agenda := [],
           part := { s.part with trip := false, lost := false,
                                 firmware := if inside then overwrite s.part.firmware pc bs else s.part.firmware } }
/-- The word of a table row placed as it is numbered there; what it gives no bits is zeros. -/
def placeTableWord (s : State) (nbits w : Nat) : State :=
  let v : Word := BitVec.ofNat 32 w
  if nbits = 32 && v.extractLsb' 30 2 != 3 then placeFront s v
  else placeCode s ((parcelsOf nbits w ++ List.replicate 16 0).take 16)

end Sys2Proof.Machine
end

