-- ==== Sys2Proof/Machine/Step.lean ====
section
/-! DEFINITION. One step of the machine, and an instruction of the opcode table placed to be its next (log entries 2
and 4). -/

namespace Sys2Proof.Machine

/-- One step: whoever's turn it is acts. -/
def step (s : State) : Host.Outcome State Fault Refusal := takeTurn s (turn s)

/-- The state with an instruction, numbered as spec/opcode_table.json numbers it, where step executes next. -/
def State.withFetchWord (s : State) (nbits w : Nat) : State := placeTableWord s nbits w

end Sys2Proof.Machine
end

