-- ==== Sys2Proof/Safety.lean ====
section
/-! DEFINITION. The terms in which claims about the machine are written: what an instruction runs with, what it may
read, what it leaves behind, and the results that the spec's tables give. -/

namespace Sys2Proof.Machine

/-! ## Running an instruction -/

/-- The strand in focus runs instruction i, whose guard is g, in the context c. -/
def Runs (s : State) (i : Instr) (g : Option Guard) (c : Ctx) : Prop :=
  focusCtx s g (encode i).length (instrValue (encode i)) = some c

/-- The strand may read these general and uniform registers now: declared for it, with a copy, and full (05 R159 to R163). -/
abbrev Ctx.Readable (c : Ctx) (gs ss : List Nat) : Prop :=
  (∀ r ∈ gs, c.gFault false r = none ∧ c.w0.isFull r c.no = true) ∧ ∀ r ∈ ss, c.sFault false r = none

/-- The strand past its instruction, otherwise as it found itself: the lanes at its address advance by the instruction's
length, and it waits for nothing (02 R52; 04 R130). -/
def Ctx.past (c : Ctx) : Strand :=
  { c.k0 with lpc := setLanes c.here (fun _ => c.addr + BitVec.ofNat 32 c.len) c.k0.lpc, wait := none,
              lastIssue := c.s.cycles, skipWatch := false, cancelled := none, em := none, arrivedAt := none }

/-- The slots with slot d written in the lanes of Exec. -/
def Ctx.withSlot (c : Ctx) (d : Nat) (v : Nat → Word) : List (Lanes Word) := c.k0.slots.set d (setLanes c.exec v (c.k0.slot d))

/-- The slots with the pair that starts at slot d written in the lanes of Exec: low word, then high word. -/
def Ctx.withPair (c : Ctx) (d : Nat) (v : Nat → DWord) : List (Lanes Word) :=
  let xs := c.k0.slots.set d (setLanes c.exec (fun l => (v l).lo) (c.k0.slot d))
  xs.set (d + 1) (setLanes c.exec (fun l => (v l).hi) ((xs[d + 1]?).getD (List.replicate 64 0)))

/-- The strand past its instruction with a slot, or a pair of slots, written. -/
def Ctx.wrote (c : Ctx) (d : Nat) (v : Nat → Word) : Strand := { c.past with slots := c.withSlot d v }
def Ctx.wrotePair (c : Ctx) (d : Nat) (v : Nat → DWord) : Strand := { c.past with slots := c.withPair d v }

/-- The warp after reads of general registers (with their last-use marks) and uniform registers: a last use empties the
reader's own copy, and a uniform read is seen (05 R159, R161). -/
def Ctx.afterReads (c : Ctx) (gs : List (Nat × Bool)) (ss : List Nat) : Warp :=
  ss.foldl (fun w r => w.see r c.no) (gs.foldl (fun w g => if g.2 then w.consume g.1 c.no (c.n.reg g.1).1 else w) c.w0)

/-- The frame of an instruction that changes its own strand and warp, and beside them only what makes b of the state it
found. Every byte of memory and every other part of the state is as in b, and so is every other warp; the strand's warp
is w with the strand k in its place; and the other strands of the warp are as before. -/
structure Ctx.LeavesFrom (c : Ctx) (b t : State) (w : Warp) (k : Strand) : Prop where
  memory : ∀ a, t.mem.byte a = b.mem.byte a
  rest : { t with warps := b.warps } = b
  others : ∀ u, u ≠ c.ref.warp → warpOf t u = warpOf b u
  warp : ∃ w', warpOf t c.ref.warp = some w' ∧ { w' with strands := w.strands, kernel := w.kernel } = w ∧
    w'.strandAt c.ref.no = some k ∧ ∀ n, n ≠ c.ref.no → w'.strandAt n = c.w0.strandAt n

/-- The frame of an instruction that changes its own strand and warp alone. -/
abbrev Ctx.Leaves (c : Ctx) (t : State) (w : Warp) (k : Strand) : Prop := c.LeavesFrom c.s t w k

/-- The strand has to wait (04 R126): nothing of its instruction has happened, and what it waits for is recorded with the
cycle at which the wait began. -/
def Ctx.Waits (c : Ctx) (t : State) (x : Wait) : Prop :=
  c.Leaves t c.w0 { c.k0 with wait := some x, waitSince := c.k0.waitsFrom x c.s.cycles }

/-! ## The results of the integer instructions, as the tables of 06 give them. D, A and B are the destination's old value,
the slot and the second operand; n is m[0], 1 for unsigned -/

/-- The lesser and the greater of two values (R177). -/
def lesser (n : Bool) (a b : Word) : Word :=
  if n then (if a.toNat ≤ b.toNat then a else b) else (if a.toInt ≤ b.toInt then a else b)
def greater (n : Bool) (a b : Word) : Word :=
  if n then (if a.toNat ≤ b.toNat then b else a) else (if a.toInt ≤ b.toInt then b else a)
/-- Bits [63:32] of the exact product (R177). -/
def productHigh (n : Bool) (a b : Word) : Word :=
  if n then BitVec.ofNat 32 (a.toNat * b.toNat / 2 ^ 32) else BitVec.ofInt 32 (a.toInt * b.toInt / 2 ^ 32)
/-- The exact 64-bit product (R181). -/
def productWide (n : Bool) (a b : Word) : DWord :=
  if n then BitVec.ofNat 64 (a.toNat * b.toNat) else BitVec.ofInt 64 (a.toInt * b.toInt)
/-- The shifts (R178): an amount of 32 to 63 does not wrap; a rotation takes its amount modulo 32. -/
def shiftedLeft (a : Word) (c : Nat) : Word := if c ≤ 31 then BitVec.ofNat 32 (a.toNat * 2 ^ c) else 0
def shiftedRight (a : Word) (c : Nat) : Word := if c ≤ 31 then BitVec.ofNat 32 (a.toNat / 2 ^ c) else 0
def shiftedArith (a : Word) (c : Nat) : Word :=
  if c ≤ 31 then BitVec.ofInt 32 (a.toInt / 2 ^ c) else if a.getLsbD 31 then 0xFFFFFFFF#32 else 0
def rotated (a : Word) (c : Nat) : Word := (a <<< c) ||| (a >>> (32 - c))
/-- A bit field (R183): position B[4:0], length min(B[13:8], 32 - position); bit i of the result. -/
def fieldPos (b : Word) : Nat := b.toNat % 32
def fieldLen (b : Word) : Nat := min (b.toNat / 256 % 64) (32 - fieldPos b)
def fieldTaken (n : Bool) (a b : Word) : Word :=
  let p := fieldPos b
  let w := fieldLen b
  (BitVec.iunfoldr (fun (i : Fin 32) (_ : Unit) =>
    ((), if w = 0 then false else if i.val < w then a.getLsbD (p + i.val) else !n && a.getLsbD (p + w - 1))) ()).2
def fieldPut (d a b : Word) : Word :=
  let p := fieldPos b
  let w := fieldLen b
  (BitVec.iunfoldr (fun (i : Fin 32) (_ : Unit) =>
    ((), if p ≤ i.val ∧ i.val < p + w then a.getLsbD (i.val - p) else d.getLsbD i.val)) ()).2

/-- The LR instructions of R177, R178 and R183: slot d from D, A and the general register B. -/
def longIntegers : List ((LR → Instr) × (Bool → Word → Word → Word → Word)) :=
  [(.iadd, fun _ _ a b => a + b), (.isub, fun _ _ a b => a - b), (.imul, fun _ _ a b => a * b),
   (.imulh, fun n _ a b => productHigh n a b), (.imad, fun _ d a b => d + a * b), (.and, fun _ _ a b => a &&& b),
   (.or, fun _ _ a b => a ||| b), (.xor, fun _ _ a b => a ^^^ b), (.andn, fun _ _ a b => a &&& ~~~b)] ++
  [(.imin, fun n _ a b => lesser n a b), (.imax, fun n _ a b => greater n a b),
   (.shl, fun _ _ a b => shiftedLeft a (b.toNat % 64)), (.shr, fun _ _ a b => shiftedRight a (b.toNat % 64)),
   (.sar, fun _ _ a b => shiftedArith a (b.toNat % 64)), (.rotl, fun _ _ a b => rotated a (b.toNat % 32)),
   (.bfx, fun n _ a b => fieldTaken n a b), (.bfi, fun _ d a b => fieldPut d a b)]

/-- The S16 instructions of R177 and R178 that read a general register; IMIN and IMAX compare signed. -/
def shortIntegers : List ((S16 → Instr) × (Word → Word → Word → Word)) :=
  [(.iaddShort, fun _ a b => a + b), (.isubShort, fun _ a b => a - b), (.imulShort, fun _ a b => a * b),
   (.imadShort, fun d a b => d + a * b), (.andShort, fun _ a b => a &&& b), (.orShort, fun _ a b => a ||| b),
   (.xorShort, fun _ a b => a ^^^ b)] ++
  [(.iminShort, fun _ a b => lesser false a b), (.imaxShort, fun _ a b => greater false a b),
   (.shlShort, fun _ a b => shiftedLeft a (b.toNat % 64)), (.shrShort, fun _ a b => shiftedRight a (b.toNat % 64)),
   (.sarShort, fun _ a b => shiftedArith a (b.toNat % 64))]

/-- The S16 instructions of R178 and R179 with an immediate, and MOV: slot d from slot a and imm6. -/
def shortImmediates : List ((S16 → Instr) × (BitVec 6 → Word → Word)) :=
  [(.iaddiShort, fun i a => a + BitVec.ofInt 32 i.toInt), (.shli, fun i a => shiftedLeft a i.toNat),
   (.shri, fun i a => shiftedRight a i.toNat), (.movShort, fun _ a => a)]

/-- The LI instructions of R179 and R170: slot d from its old value, slot a and imm16. -/
def longImmediates : List ((LI → Instr) × (BitVec 16 → Word → Word → Word)) :=
  [(.iaddi, fun i _ a => a + BitVec.ofInt 32 i.toInt), (.andi, fun i _ a => a &&& BitVec.ofNat 32 i.toNat),
   (.ori, fun i _ a => a ||| BitVec.ofNat 32 i.toNat), (.xori, fun i _ a => a ^^^ BitVec.ofNat 32 i.toNat),
   (.imuli, fun i _ a => a * BitVec.ofInt 32 i.toInt), (.ldi, fun i _ _ => BitVec.ofInt 32 i.toInt),
   (.ldih, fun i d _ => BitVec.ofNat 32 (65536 * i.toNat + d.toNat % 65536))]

/-- The class of an FP32 value (R192): 0 to 9 as the table numbers them. -/
def classOfFloat (a : Word) : Nat :=
  let e := a.toNat / 2 ^ 23 % 256
  let m := a.toNat % 2 ^ 23
  if e = 255 ∧ m ≠ 0 then (if 2 ^ 22 ≤ m then 9 else 8)
  else
    let up : Nat := if e = 255 then 3 else if e ≠ 0 then 2 else if m ≠ 0 then 1 else 0
    if a.getLsbD 31 then 3 - up else 4 + up

/-- The one-operand LR instructions that round nothing: R182, R168's MOV, FABS, FNEG of R188 and FCLASS of R192. -/
def unaries : List ((LR → Instr) × (Bool → Word → Word)) :=
  [(.iabs, fun n a => if n then a else BitVec.ofNat 32 a.toInt.natAbs), (.ineg, fun _ a => 0 - a),
   (.popc, fun _ a => BitVec.ofNat 32 ((List.range 32).filter a.getLsbD).length),
   (.clz, fun _ a => BitVec.ofNat 32 ((List.range 32).takeWhile fun i => !a.getLsbD (31 - i)).length),
   (.brev, fun _ a => (BitVec.iunfoldr (fun (i : Fin 32) (_ : Unit) => ((), a.getLsbD (31 - i.val))) ()).2),
   (.mov, fun _ a => a), (.fabs, fun _ a => a &&& 0x7FFFFFFF#32), (.fneg, fun _ a => a ^^^ 0x80000000#32),
   (.fclass, fun _ a => BitVec.ofNat 32 (2 ^ (classOfFloat a)))]

/-! ## Floating point (03 R91 to R100; 06 R185 to R199) -/

/-- What a lane computes from the destination's old value, the slot and the other operand, under a rounding mode, with
flush to zero or not, and the lane's draws: the bits of the result and the exceptions raised. -/
abbrev FpOp := Rm → Bool → Word → Word → Word → List Nat → Nat × Flags

/-- One FP32 result, the exact one rounded once (R185). -/
def onFloats (x : Rm → Val → Val → Val → Exact) : FpOp := fun rm z d a b us =>
  fp32.result rm ((us[0]?).getD 0) z (x rm (fpIn z d) (fpIn z a) (fpIn z b))
/-- Two 16-bit results, each half rounded for itself, the low half first (R194). -/
def onHalves (fm : Fmt) (x : Rm → Val → Val → Val → Exact) : FpOp := fun rm _ d a b us =>
  let r (h : Nat) := fm.result rm ((us[h]?).getD 0) false (x rm (halfIn fm d h) (halfIn fm a h) (halfIn fm b h))
  ((r 0).1 + 65536 * (r 1).1, (r 0).2 ||| (r 1).2)
/-- The lesser or greater value under R90, nothing rounded. -/
def onExtremes (max : Bool) : FpOp := fun _ z _ a b _ => fp32.minMax max z a.toNat b.toNat
def onHalfExtremes (max : Bool) : FpOp := fun _ _ _ a b _ =>
  let r (h : Nat) := fp16.minMax max false (half a h) (half b h)
  ((r 0).1 + 65536 * (r 1).1, (r 0).2 ||| (r 1).2)
/-- A function of one operand (R190). -/
def onOne (x : Bool → Val → Nat × Flags) : FpOp := fun _ z _ a _ _ => x z (fpIn z a)

/-- A row of the tables below: the instruction, whether it rounds under the strand's mode, the result elements of a lane,
and what a lane computes. -/
structure FpRow (α : Type) where
  make : α → Instr
  rounds : Bool
  n : Nat
  op : FpOp

/-- The mode a row's draws are made under: none are made where nothing is rounded (R96). -/
def FpRow.mode {α : Type} (r : FpRow α) (rm : Rm) : Rm := if r.rounds then rm else .rn

/-- A lane's result and exceptions, of the lanes of Exec. -/
def Ctx.fpOut (c : Ctx) (rm : Rm) (n : Nat) (op : Nat → List Nat → Nat × Flags) (l : Nat) : Nat × Flags :=
  if c.exec.getLsbD l then op l (lane [] (c.draws rm n).1 l) else (0, 0)
/-- The exceptions of all lanes (R99). -/
def Ctx.raised (c : Ctx) (rm : Rm) (n : Nat) (op : Nat → List Nat → Nat × Flags) : Flags :=
  flagUnion (lanes64.map fun l => (c.fpOut rm n op l).2)
/-- The strand past a floating-point instruction that traps in no lane: the flags stick and the generator keeps its steps. -/
def Ctx.fpPast (c : Ctx) (rm : Rm) (n : Nat) (op : Nat → List Nat → Nat × Flags) : Strand :=
  { c.past with fpflags := c.k0.fpflags ||| c.raised rm n op, rseed := (c.draws rm n).2 }
/-- The same with slot d written. -/
def Ctx.fpWrote (c : Ctx) (d : Nat) (rm : Rm) (n : Nat) (op : Nat → List Nat → Nat × Flags) : Strand :=
  { c.fpPast rm n op with slots := c.withSlot d fun l => BitVec.ofNat 32 (c.fpOut rm n op l).1 }

/-- The exceptions that a lane raises. -/
def Ctx.fpRaises (c : Ctx) (rm : Rm) (n : Nat) (op : Nat → List Nat → Nat × Flags) (l : Nat) : Flags := (c.fpOut rm n op l).2

/-- The same with the pair that starts at slot d written. -/
def Ctx.fpWrotePair (c : Ctx) (d : Nat) (rm : Rm) (n : Nat) (op : Nat → List Nat → Nat × Flags) : Strand :=
  { c.fpPast rm n op with slots := c.withPair d fun l => BitVec.ofNat 64 (c.fpOut rm n op l).1 }

/-- S16 forms with a general register (R186, R188, R194). -/
def shortFps : List (FpRow S16) :=
  [⟨.faddShort, true, 1, onFloats fun rm _ a b => a.add rm b⟩, ⟨.fsubShort, true, 1, onFloats fun rm _ a b => a.add rm b.negate⟩,
   ⟨.fmulShort, true, 1, onFloats fun _ _ a b => a.mul b⟩, ⟨.ffmaShort, true, 1, onFloats fun rm d a b => d.fma rm a b⟩,
   ⟨.ffmsShort, true, 1, onFloats fun rm d a b => d.fma rm a.negate b⟩, ⟨.fminShort, false, 1, onExtremes false⟩,
   ⟨.fmaxShort, false, 1, onExtremes true⟩, ⟨.hfma2Short, true, 2, onHalves fp16 fun rm d a b => d.fma rm a b⟩,
   ⟨.bfma2Short, true, 2, onHalves bf16 fun rm d a b => d.fma rm a b⟩]
/-- LR forms with a general register (R186, R188, R194). -/
def longFps : List (FpRow LR) :=
  [⟨.fadd, true, 1, onFloats fun rm _ a b => a.add rm b⟩, ⟨.fsub, true, 1, onFloats fun rm _ a b => a.add rm b.negate⟩,
   ⟨.fmul, true, 1, onFloats fun _ _ a b => a.mul b⟩, ⟨.ffma, true, 1, onFloats fun rm d a b => d.fma rm a b⟩,
   ⟨.ffms, true, 1, onFloats fun rm d a b => d.fma rm a.negate b⟩, ⟨.fdiv, true, 1, onFloats fun _ _ a b => a.div b⟩,
   ⟨.fmin, false, 1, onExtremes false⟩, ⟨.fmax, false, 1, onExtremes true⟩] ++
  [⟨.hadd2, true, 2, onHalves fp16 fun rm _ a b => a.add rm b⟩, ⟨.hmul2, true, 2, onHalves fp16 fun _ _ a b => a.mul b⟩,
   ⟨.hfma2, true, 2, onHalves fp16 fun rm d a b => d.fma rm a b⟩, ⟨.badd2, true, 2, onHalves bf16 fun rm _ a b => a.add rm b⟩,
   ⟨.bmul2, true, 2, onHalves bf16 fun _ _ a b => a.mul b⟩, ⟨.bfma2, true, 2, onHalves bf16 fun rm d a b => d.fma rm a b⟩,
   ⟨.hmin2, false, 2, onHalfExtremes false⟩, ⟨.hmax2, false, 2, onHalfExtremes true⟩]
/-- LR forms with one operand (R189 to R191). -/
def unaryFps : List (FpRow LR) :=
  [⟨.frcp, true, 1, onFloats fun _ _ a _ => a.rcp⟩, ⟨.fsqrt, true, 1, onFloats fun _ _ a _ => a.sqrt⟩,
   ⟨.frsq, true, 1, onFloats fun _ _ a _ => a.rsq⟩, ⟨.fexp2, false, 1, onOne fexp2⟩, ⟨.flog2, false, 1, onOne flog2⟩,
   ⟨.fsin, false, 1, onOne fsin⟩, ⟨.fcos, false, 1, onOne fcos⟩, ⟨.ftanh, false, 1, onOne ftanh⟩,
   ⟨.frnd, false, 1, fun rm z _ a _ _ => fp32.integral (if rm = .rs then .rn else rm) (fpIn z a)⟩]
/-- S16 and LS forms whose last operand is a uniform register, and LI forms, whose last operand is a BF16 immediate
widened to FP32 (R187). FMAS also reads a general register, here in the place of the destination. -/
def shortUniformFps : List (FpRow S16) :=
  [⟨.ffmasShort, true, 1, onFloats fun rm d a u => d.fma rm a u⟩, ⟨.fmulsShort, true, 1, onFloats fun _ _ a u => a.mul u⟩]
def longUniformFps : List (FpRow LS) :=
  [⟨.fadds, true, 1, onFloats fun rm _ a u => a.add rm u⟩, ⟨.fmuls, true, 1, onFloats fun _ _ a u => a.mul u⟩,
   ⟨.ffmas, true, 1, onFloats fun rm d a u => d.fma rm a u⟩]
def immediateFps : List (FpRow LI) :=
  [⟨.faddi, true, 1, onFloats fun rm _ a i => a.add rm i⟩, ⟨.fmuli, true, 1, onFloats fun _ _ a i => a.mul i⟩,
   ⟨.ffmai, true, 1, onFloats fun rm d a i => d.fma rm a i⟩]

/-- What a lane of a conversion computes (R195 to R199): CVTI, CVTF in both forms, PACK2, UNPK2 and CVTN. -/
def Ctx.cvtiOp (c : Ctx) (f : LR) (l : Nat) (us : List Nat) : Nat × Flags :=
  let ty := intType (field f.g 2 0)
  let r := (fpLow (fpType (field f.g 5 3)) (c.slot f.a.toNat l)).toInt (c.rounding (lrRound f)) ((us[0]?).getD 0) (intLow ty)
    (intHigh ty)
  ((BitVec.ofInt 64 r.1).toNat, r.2)
def Ctx.cvtfOp (c : Ctx) (f : LR) (l : Nat) (us : List Nat) : Nat × Flags :=
  let ty := intType (field f.g 2 0)
  (fpType (field f.g 5 3)).result (c.rounding (lrRound f)) ((us[0]?).getD 0) false
    (.ofInt (intOf ty (if ty.1 = 64 then (c.pair f.a.toNat l).toNat else (c.slot f.a.toNat l).toNat)))
def Ctx.cvtfShortOp (c : Ctx) (f : S16) (l : Nat) (us : List Nat) : Nat × Flags :=
  fp32.result (c.rounding 0) ((us[0]?).getD 0) false (.ofInt (intOf (32, true) (c.slot f.a.toNat l).toNat))
def packFmt (f : LR) : Fmt := if f.g.getLsbD 0 then bf16 else fp16
def Ctx.pack2Op (c : Ctx) (f : LR) (l : Nat) (us : List Nat) : Nat × Flags :=
  let r (h : Nat) (v : Word) := (packFmt f).result (c.rounding (lrRound f)) ((us[h]?).getD 0) false (.ofVal (fpLow fp32 v))
  ((r 0 (c.slot f.a.toNat l)).1 + 65536 * (r 1 (c.slot f.d.toNat l)).1,
    (r 0 (c.slot f.a.toNat l)).2 ||| (r 1 (c.slot f.d.toNat l)).2)
def Ctx.unpk2Op (c : Ctx) (f : LR) (l : Nat) (_ : List Nat) : Nat × Flags :=
  fp32.result .rn 0 false (.ofVal (halfIn (packFmt f) (c.slot f.a.toNat l) (if f.g.getLsbD 1 then 1 else 0)))
def Ctx.cvtnOp (c : Ctx) (f : LR) (l : Nat) (us : List Nat) : Nat × Flags :=
  cvtnCode (field f.g 2 0) (c.rounding (lrRound f)) ((us[0]?).getD 0) (fpLow fp32 (c.slot f.a.toNat l))
/-- The LR conversions, with the mode that they draw under, the results of a lane, and what a lane computes. -/
def conversions : List ((LR → Instr) × (Ctx → LR → Rm) × Nat × (Ctx → LR → Nat → List Nat → Nat × Flags)) :=
  [(.cvti, fun c f => c.rounding (lrRound f), 1, Ctx.cvtiOp), (.cvtf, fun c f => c.rounding (lrRound f), 1, Ctx.cvtfOp),
   (.pack2, fun c f => c.rounding (lrRound f), 2, Ctx.pack2Op), (.unpk2, fun _ _ => .rn, 1, Ctx.unpk2Op),
   (.cvtn, fun c f => c.rounding (lrRound f), 1, Ctx.cvtnOp)]

/-- FOLD of one segment: the value of its lanes in Exec, and what it raises (R203). -/
def Ctx.foldSegment (c : Ctx) (f : LR) (i : Nat) : Word × Flags :=
  let w := segWidth (field f.g 1 0)
  foldValues f.m.toNat c.k0.ftz (((countFrom (i * w) w).filter fun l => c.exec.getLsbD l).map (c.slot f.a.toNat))
/-- What a lane of a FOLD raises. -/
def Ctx.foldRaises (c : Ctx) (f : LR) (l : Nat) : Flags :=
  if c.exec.getLsbD l then (c.foldSegment f (l / segWidth (field f.g 1 0))).2 else 0

/-! ## Predicates and branches (04 R132, R140 to R149) -/

/-- The strand past its instruction with its predicates changed in the lanes of Exec. -/
def Ctx.withPreds (c : Ctx) (f : Nat → BitVec 8 → BitVec 8) : Strand :=
  { c.past with preds := setLanes c.exec (fun l => f l (lane 0 c.k0.preds l)) c.k0.preds }
/-- A push: bit 0 takes the value, every other bit the one below it (R132). -/
def Ctx.pushed (c : Ctx) (v : Nat → Bool) : Strand := c.withPreds fun l p => (p <<< 1) ||| (if v l then 1#8 else 0#8)
/-- The integer conditions (02 R58). -/
def compares (cond : Nat) (a b : Word) : Bool :=
  match cond with
  | 0 => decide (a = b)
  | 1 => decide (a ≠ b)
  | 2 => decide (a.toInt < b.toInt)
  | 3 => decide (a.toInt ≤ b.toInt)
  | 4 => decide (b.toInt < a.toInt)
  | 5 => decide (b.toInt ≤ a.toInt)
  | 6 => decide (a.toNat < b.toNat)
  | 7 => decide (a.toNat ≤ b.toNat)
  | 8 => decide (b.toNat < a.toNat)
  | _ => decide (b.toNat ≤ a.toNat)
/-- What a floating-point comparison raises: invalid in the lanes of Exec with a signalling NaN (R146). -/
def Ctx.compareRaises (c : Ctx) (z : Bool) (a b : Nat → Word) (l : Nat) : Flags :=
  if c.exec.getLsbD l && ((fpIn z (a l)).isSNaN || (fpIn z (b l)).isSNaN) then flagNV else 0
def Ctx.compareFlags (c : Ctx) (z : Bool) (a b : Nat → Word) : Flags := flagUnion (lanes64.map (c.compareRaises z a b))
/-- The strand past a floating-point comparison that does not trap. -/
def Ctx.compared (c : Ctx) (cond : Nat) (z : Bool) (a b : Nat → Word) : Strand :=
  { c.pushed fun l => fcmpHolds cond (fpIn z (a l)) (fpIn z (b l)) with fpflags := c.k0.fpflags ||| c.compareFlags z a b }
/-- The predicate operations of R147 on depths g[2:0] and g[5:3]. -/
def predicateOps : List ((LR → Instr) × (Bool → Bool → Bool)) :=
  [(.pnot, fun i _ => !i), (.pand, fun i j => i && j), (.por, fun i j => i || j), (.pxor, fun i j => i != j),
   (.pdup, fun i _ => i)]
/-- The votes of R149 over the predicates of the lanes of Exec. -/
def votes : List ((LR → Instr) × (List Bool → Bool)) :=
  [(.voteAll, fun v => !v.contains false), (.voteAny, fun v => v.contains true),
   (.voteEq, fun v => !v.contains false || !v.contains true), (.voteOdd, fun v => v.count true % 2 == 1)]
/-- The strand past a branch: the lanes of Exec that it takes stand at their targets, the others past it (R130, R141). -/
def Ctx.jumped (c : Ctx) (taken : Nat → Bool) (target : Nat → Word) : Strand :=
  { c.past with lpc := setLanes (c.exec &&& maskOf taken) target c.past.lpc }
/-- The strand past an EXIT: the lanes of Exec have exited where they stand (R145). -/
def Ctx.exited (c : Ctx) : Strand :=
  { c.past with exited := c.k0.exited ||| c.exec, lpc := setLanes c.exec (fun l => lane 0 c.k0.lpc l) c.past.lpc }

/-! ## Operations that issue (04 R133 to R137; 10 R284) -/

/-- The checks of R284 over the accesses listed find nothing: s1 is the state with the translations that they cached, and
ps gives each access its place. -/
def Ctx.Reaches (c : Ctx) (byAddr : Bool) (size : Nat) (write tagOk : Bool) (ls : List (Nat × DWord)) (s1 : State)
    (ps : List (Nat × DWord × Target)) : Prop :=
  let r := checkLanes c.s c.w0.core c.tenant { size, write, tagOk, priv := c.l.privileged } ls
  r.1 = s1 ∧ firstFailure byAddr r.2 = none ∧ accessesOf r.2 = ps
/-- The same of one access in each lane of Exec. -/
abbrev Ctx.LanesReach (c : Ctx) (size : Nat) (write tagOk : Bool) (va : Nat → DWord) (s1 : State)
    (ps : List (Nat × DWord × Target)) : Prop := c.Reaches false size write tagOk (c.lanes.map fun l => (l, va l)) s1 ps

/-- The watch check of 16 R434 lets the accesses pass: it does not look at them, or no line of theirs hits the filter. -/
def Ctx.Unwatched (c : Ctx) (s1 : State) (sub size : Nat) (va : Nat → DWord) : Prop :=
  ({ c with s := s1 } : Ctx).watches sub = false ∨
  ∀ l ∈ c.lanes, watchHit (coreOf s1 c.w0.core) ((va l).toNat % 2 ^ 56 / 64) = false ∧
    watchHit (coreOf s1 c.w0.core) (((va l).toNat + size - 1) % 2 ^ 56 / 64) = false

/-- The state with an operation of the strand added: its number is the next, and q the queue entry it holds. -/
def Ctx.begun (c : Ctx) (s1 : State) (q : Option EngineQueue) (body : OpBody) : State :=
  { s1 with nextId := s1.nextId + 1, ops := s1.ops ++ [{ id := s1.nextId, owner := c.ref, value := c.value, exec := c.exec,
                                                         queued := q, cancelled := none, steps := [],
                                                         body }] }
/-- The strand past its instruction with the operation counted. -/
def Ctx.counted (c : Ctx) (id : Nat) (cl : CounterClass) : Strand :=
  c.past.setCounter cl (c.k0.counter cl ++ [{ op := id, done := false }])
/-- What a strand asks of a place outside the part. -/
def Ctx.asks (c : Ctx) (id : Nat) (kind : AccessKind) (size : Nat) (data : List Byte) (a : LaneAccess) : Sent :=
  .request id a.target c.tenant kind size data none 0 false (fullName c.l c.g c.w0 a.lane c.no)

/-- The instruction retires with its operation under way: beside its own strand and warp, and the translations its checks
cached, only the operation is new. Where a lane's place is outside the part, its request goes out as well. -/
def Ctx.Begins (c : Ctx) (t s1 : State) (w : Warp) (cl : CounterClass) (q : Option EngineQueue) (body : OpBody)
    (posted : Bool) (mk : LaneAccess → Sent) (ls : List LaneAccess) : Prop :=
  ∃ b, c.LeavesFrom (c.begun s1 q body) b w (c.counted s1.nextId cl) ∧
    t = if ls.all fun a => !isRemote a.target then b else sendLanes b c.tenant s1.nextId posted mk ls

/-- A strand's access to memory: the address is the base pair plus the lane's register plus an offset; its size, its slot,
whether a value is sign-extended, whether it may reach the tag window, its scope, and the register and base pair it reads. -/
structure AccessForm where
  sb : Nat
  g : Nat
  off : Nat
  size : Nat
  slot : Nat
  signed : Bool
  tagOk : Bool
  scope : Nat
  deriving DecidableEq, Repr
def Ctx.reads (c : Ctx) (a : AccessForm) : Warp := c.afterReads [(a.g, false)] [2 * a.sb, 2 * a.sb + 1]
def Ctx.at_ (c : Ctx) (a : AccessForm) (l : Nat) : DWord :=
  c.sPair a.sb + (c.gLane a.g l).setWidth 64 + BitVec.ofNat 64 a.off
/-- Where a loaded value goes: one slot, a pair, or all four. -/
def AccessForm.dest (a : AccessForm) : Dest := { slot := a.slot, count := max 1 (a.size / 4), signed := a.signed }
/-- The bytes that a lane stores: the low bytes of a slot, a pair, or all four. -/
def Ctx.bytesOf (c : Ctx) (slot size l : Nat) : List Byte :=
  ((List.range (max 1 (size / 4))).flatMap fun i => leBytes 4 (c.slot (slot + i) l).toNat).take size
/-- Lanes of an access: where each goes and what it carries. -/
def lanesWith (ps : List (Nat × DWord × Target)) (data : Nat → List Byte) : List LaneAccess :=
  ps.map fun x => { lane := x.1, va := x.2.1, target := x.2.2, data := data x.1 }

/-- The loads of R290 and R294, and the short form of 07 R216. -/
def loadForm : Instr → Option AccessForm
  | .ldB8 f => some ⟨f.sb.toNat, f.g.toNat, f.imm.toNat * 1, 1, f.d.toNat, false, true, 0⟩
  | .ldI8 f => some ⟨f.sb.toNat, f.g.toNat, f.imm.toNat * 1, 1, f.d.toNat, true, true, 0⟩
  | .ldB16 f => some ⟨f.sb.toNat, f.g.toNat, f.imm.toNat * 2, 2, f.d.toNat, false, true, 0⟩
  | .ldI16 f => some ⟨f.sb.toNat, f.g.toNat, f.imm.toNat * 2, 2, f.d.toNat, true, true, 0⟩
  | .ldB32 f => some ⟨f.sb.toNat, f.g.toNat, f.imm.toNat * 4, 4, f.d.toNat, false, true, 0⟩
  | .ldB64 f => some ⟨f.sb.toNat, f.g.toNat, f.imm.toNat * 8, 8, f.d.toNat, false, true, 0⟩
  | .ldB128 f => some ⟨f.sb.toNat, f.g.toNat, f.imm.toNat * 16, 16, f.d.toNat, false, true, 0⟩
  | .ldw f => some ⟨0, f.g.toNat, 0, 4, f.d.toNat, false, true, 0⟩
  | .lds f => some ⟨f.sb.toNat, f.g.toNat, f.off.toNat, 2 ^ f.size.toNat, f.slot.toNat, false, false, scopedCode f⟩
  | _ => none
/-- The stores. -/
def storeForm : Instr → Option AccessForm
  | .stB8 f => some ⟨f.sb.toNat, f.g.toNat, f.imm.toNat * 1, 1, f.a.toNat, false, true, 0⟩
  | .stB16 f => some ⟨f.sb.toNat, f.g.toNat, f.imm.toNat * 2, 2, f.a.toNat, false, true, 0⟩
  | .stB32 f => some ⟨f.sb.toNat, f.g.toNat, f.imm.toNat * 4, 4, f.a.toNat, false, true, 0⟩
  | .stB64 f => some ⟨f.sb.toNat, f.g.toNat, f.imm.toNat * 8, 8, f.a.toNat, false, true, 0⟩
  | .stB128 f => some ⟨f.sb.toNat, f.g.toNat, f.imm.toNat * 16, 16, f.a.toNat, false, true, 0⟩
  | .stw f => some ⟨0, f.g.toNat, 0, 4, f.a.toNat, false, true, 0⟩
  | .sts f => some ⟨f.sb.toNat, f.g.toNat, f.off.toNat, 2 ^ f.size.toNat, f.slot.toNat, false, false, scopedCode f⟩
  | _ => none
/-- The private accesses of R289: LDL, and with write STL. -/
def localForm : Instr → Option (LM × Nat × Bool)
  | .ldlB32 f => some (f, 4, false)
  | .ldlB64 f => some (f, 8, false)
  | .stlB32 f => some (f, 4, true)
  | .stlB64 f => some (f, 8, true)
  | _ => none

/-- The warp and strand found again after a change of the whole part. -/
def Ctx.found (c : Ctx) (s1 : State) (w1 : Warp) (k1 : Strand) : Ctx := { c with s := s1, w0 := w1, k0 := k1, w := w1, k := k1 }
/-- The state with the instruction's reads in place. -/
def Ctx.readDone (c : Ctx) (w : Warp) : State := ({ c with w } : Ctx).commit
/-- A state in which the strand stands as w1 and k1 say. -/
def Ctx.StandsIn (c : Ctx) (s1 : State) (w1 : Warp) (k1 : Strand) : Prop :=
  warpOf s1 c.ref.warp = some w1 ∧ w1.strandAt c.ref.no = some k1

/-- The pieces of a spill record, of n bytes from an address, each within one line (05 R173). -/
def recordPieces (lead : Nat) (va : DWord) (n : Nat) (data : List Byte) (ps : List (Nat × DWord × Target)) : List LaneAccess :=
  (ps.filter fun x => x.1 == lead).map fun x =>
    { lane := lead, va := x.2.1, target := x.2.2,
      data := (data.drop (x.2.1 - va).toNat).take (min (64 - x.2.1.toNat % 64) (n - (x.2.1 - va).toNat)) }
/-- The accesses of a record: every line of it for every lane of Exec. -/
def Ctx.recordAccesses (c : Ctx) (va : DWord) (n : Nat) : List (Nat × DWord) :=
  (spansOf va.toNat n).flatMap fun x => c.lanes.map fun l => (l, BitVec.ofNat 64 x.1)

/-! ## Buffers and racks (07) -/

/-- A strand's access to a buffer of its team, or with peer to a peer window: its size, its slot, its register and offset,
and whether it goes to W. -/
structure BufferForm where
  size : Nat
  slot : Nat
  g : Nat
  off : Nat
  wbuf : Bool
  peer : Option Nat
  deriving DecidableEq, Repr
def bufferLoadForm : Instr → Option BufferForm
  | .ldbA f => some ⟨4, f.d.toNat, f.g.toNat, 0, false, none⟩
  | .ldbB32 f => some ⟨4, f.d.toNat, f.g.toNat, f.imm.toNat * 4, field f.sb 1 0 == 0, none⟩
  | .ldbB64 f => some ⟨8, f.d.toNat, f.g.toNat, f.imm.toNat * 8, field f.sb 1 0 == 0, none⟩
  | .ldbyB32 f => some ⟨4, f.d.toNat, f.g.toNat, f.imm.toNat * 4, field f.sb 3 2 == 0, some (field f.sb 1 0)⟩
  | _ => none
def bufferStoreForm : Instr → Option BufferForm
  | .stbA f => some ⟨4, f.a.toNat, f.g.toNat, 0, false, none⟩
  | .stbB32 f => some ⟨4, f.a.toNat, f.g.toNat, f.imm.toNat * 4, false, none⟩
  | .stbB64 f => some ⟨8, f.a.toNat, f.g.toNat, f.imm.toNat * 8, false, none⟩
  | _ => none
/-- A lane's offset. -/
def Ctx.bufferAt (c : Ctx) (a : BufferForm) (l : Nat) : Nat := (c.gLane a.g l).toNat + a.off
/-- The length that the offsets must lie in: the allocation's, or the peer window's. -/
def Ctx.bufferLength (c : Ctx) (a : BufferForm) : Nat :=
  match a.peer with
  | some p => windowLength a.wbuf (c.g.window p)
  | none => c.bufLimit a.wbuf
/-- The checks of R212 find nothing: the peer is there, and every lane's bytes are aligned and lie in the length. -/
def Ctx.bufferAccepts (c : Ctx) (a : BufferForm) : Prop :=
  (∀ p, a.peer = some p → p < c.g.cores.length) ∧
  ∀ l ∈ c.lanes, c.bufferAt a l % a.size = 0 ∧ c.bufferAt a l + a.size ≤ c.bufferLength a
/-- The bytes of a slot, or of a pair, in a lane. -/
def Ctx.wordsOf (c : Ctx) (slot size l : Nat) : List Byte :=
  (List.range (size / 4)).flatMap fun i => leBytes 4 (c.slot (slot + i) l).toNat

/-- The strand's rack q is there, and initialised. -/
def Ctx.HasRack (c : Ctx) (q : Nat) (r : Rack) : Prop := ∃ t, c.team = some t ∧ t.racks[q]? = some r
/-- The state with the rack changed. -/
def Ctx.withRackSet (c : Ctx) (q : Nat) (r : Rack) : State :=
  updTeam c.s c.g.uid c.w0.team fun t => { t with racks := t.racks.set q r }

/-! ## CALL and RET (04 R142, R143) -/

/-- Where the word of a call depth stands in a lane's private memory (R142; 15 R403). -/
def Ctx.callSlot (c : Ctx) (depth : Nat) : Nat := (if c.ref.no = kernelNo then 1024 else 64 * c.no) + 4 * depth
/-- The address of a lane's word at a depth that counts from its own. -/
def Ctx.callWord (c : Ctx) (depth : Nat → Nat) (l : Nat) : DWord :=
  c.w0.stack + BitVec.ofNat 64 (l * c.l.privBytes) + BitVec.ofNat 64 (c.callSlot (depth (lane 0 c.k0.calls l)))
/-- The lanes of Exec that a CALL's or RET's check of their depth stops. -/
def Ctx.callsOver (c : Ctx) : List Nat :=
  c.lanes.filter fun l => lane 0 c.k0.calls l = 16 ∨ c.l.privBytes < c.callSlot (lane 0 c.k0.calls l) + 4
def Ctx.callsUnder (c : Ctx) : List Nat :=
  c.lanes.filter fun l => lane 0 c.k0.calls l = 0 ∨ c.l.privBytes < c.callSlot (lane 0 c.k0.calls l)
/-- The word that a lane's place in local memory reads as. -/
def wordBack (ps : List (Nat × DWord × Target)) (read : Nat → List Byte) (l : Nat) : Word :=
  match ps.find? fun x => x.1 == l with
  | some (_, _, .mem pa) => BitVec.ofNat 32 (leNat (read pa))
  | _ => 0
/-- The strand jumped, its lanes' call depths changed. -/
def Ctx.called (c : Ctx) (target : Nat → Word) (depth : Nat → Nat) : Strand :=
  { c.jumped (fun _ => true) target with calls := setLanes c.exec (fun l => depth (lane 0 c.k0.calls l)) c.k0.calls }

/-! ## The matrix engine (08) -/

/-- What a synchronous instruction sees of the elements of its tile: the elements themselves, or while engine operations are
outstanding, of each some value that it had or takes from the issue of the earliest of them on (R239). -/
def Ctx.SeesTile (c : Ctx) (b : TileBind) (e : Nat → Nat → Nat) : Prop :=
  ∀ r j, if c.k0.acts = [] then e r j = (c.w0.tile c.cluster b.frame).at r j
    else e r j ∈ valuesOf (64 * r + j) (performed c.k0.acts) (tget 0 c.k0.tileBase (64 * r + j))
/-- The columns c0 to c0 + ncm1. -/
def columnsOf (f : TileF) : List Nat := (List.range (f.ncm1.toNat + 1)).map (f.c0.toNat + ·)
/-- The warp with the elements of the rows of Exec and the columns of f replaced; marks of lines that go whole are dropped. -/
def Ctx.mapped (c : Ctx) (w : Warp) (b : TileBind) (f : TileF) (v : Nat → Nat → Nat) : Warp :=
  (w.setTile c.cluster b.frame (putWords (c.lanes.flatMap fun r => (columnsOf f).map fun j => (64 * r + j, v r j))
    (c.w0.tile c.cluster b.frame))).clearTile c.cluster b.frame c.lanes (columnsOf f)
/-- A change of every element of the rows of Exec and the columns of f, by what it saw there: made at once where no engine
operation is outstanding; else the tile, its marks and the record of the writes (R240) change, and nothing else. -/
def Ctx.MapsTile (c : Ctx) (t : State) (w : Warp) (b : TileBind) (f : TileF) (op : Nat → Nat → Nat → Nat) : Prop :=
  ∃ e, c.SeesTile b e ∧
    if c.k0.acts = [] then c.Leaves t (c.mapped w b f fun r j => op r j (e r j)) c.past
    else ∃ u acts, { u with tiles := w.tiles, tilePoison := w.tilePoison } = w ∧ c.Leaves t u { c.past with acts }
/-- The operations of R246 to R248 on an element: its row, its column and what it was. -/
def tileMaps : List ((TileF → Instr) × (TileF → Bool → Bool) × (Ctx → TileF → Bool → Nat → Nat → Nat → Nat)) :=
  [(.tzero, fun _ _ => true, fun _ _ _ _ _ _ => 0), (.tset, fun _ _ => true, fun c f _ r _ _ => (c.slot f.a.toNat r).toNat),
   (.tmulr, fun _ int => !int, fun c f _ r _ e => mul32 e (c.slot f.a.toNat r).toNat),
   (.tact, fun f int => f.code == 0 || !int, fun _ f int _ _ e => activate f.code.toNat int e)]
/-- An engine operation's strand past its instruction: counted in MX, and with a place in the sequence on its tile. -/
def Ctx.engaged (c : Ctx) (b : TileBind) (id : Nat) : Strand := (c.counted id .mx).outstanding id (c.w0.tile c.cluster b.frame)
/-- The lines of an MMA's operands: of a row of A from its offset, and of the columns of W. -/
def Ctx.rowLines (c : Ctx) (f : MmaF) (idx : Nat → Nat) (t : Team) (r : Nat) : List TaggedLine :=
  linesFrom t.a (64 * (descOff (c.sReg f.s.toNat) + descPitch (c.sReg f.s.toNat) * idx r)) (spanOf f.fa.toNat (kOf f))
def columnLines (f : MmaF) (t : Team) : List TaggedLine :=
  (List.range 64).flatMap fun j => linesFrom t.w (64 * (f.woff.toNat + f.wpitch.toNat * j)) (spanOf f.fb.toNat (kOf f))
/-- The checks of R236 and R243 pass: rows and columns lie in their buffers, every tag is right for its operand, and all lines
are rotated or none. -/
structure Ctx.MmaPasses (c : Ctx) (f : MmaF) (idx : Nat → Nat) (t : Team) : Prop where
  rows : ∀ r ∈ c.lanes, 64 * (descOff (c.sReg f.s.toNat) + descPitch (c.sReg f.s.toNat) * idx r) + spanOf f.fa.toNat (kOf f) ≤
    c.bufLimit false
  cols : 64 * (f.woff.toNat + f.wpitch.toNat * 63) + spanOf f.fb.toNat (kOf f) ≤ c.bufLimit true
  aTags : ∀ r ∈ c.lanes, ∀ x ∈ c.rowLines f idx t r, tagFault f.fa.toNat x.tag = none
  wTags : ∀ x ∈ columnLines f t, tagFault f.fb.toNat x.tag = none
  turned : ∃ q, ∀ x ∈ c.lanes.flatMap (c.rowLines f idx t) ++ columnLines f t, x.tag.rotated = q

/-! ## Copies (09) -/

/-- The copy instructions with the numbers of their kinds. -/
def copyForms : List ((CopyF → Instr) × Nat) :=
  [(.cpyl, 0), (.cpyt, 1), (.cpyw, 2), (.cpyg, 3), (.cpys, 4), (.cpyx, 5), (.cpyq, 6)]
/-- The general registers that a copy reads: CPYW's, CPYG's and CPYS's g, and rg where it names a rack slot; and the
uniform ones: its length or record pair, and the pair of its completion word (R252 to R255). -/
def copyReads (f : CopyF) (kind : Nat) : List Nat :=
  (if kind = 2 ∨ kind = 3 ∨ kind = 4 then [f.g.toNat] else []) ++ if f.rk then [f.rg.toNat] else []
def copyUniforms (f : CopyF) (kind : Nat) : List Nat :=
  (if kind = 0 then [2 * f.sb.toNat] else [2 * f.sb.toNat, 2 * f.sb.toNat + 1]) ++
  if f.cw then [2 * f.cb.toNat, 2 * f.cb.toNat + 1] else []
/-- Step 2 of R271: with rk, the slot j named is Held by the issuer, or DroppedHeld by it, and moves on; off is its offset in
A, and s1 the state after it. -/
def Ctx.TakesSlot (c : Ctx) (f : CopyF) (lead : Nat) (s1 : State) (j off : Nat) : Prop :=
  if f.rk then ∃ r, c.HasRack f.rack.toNat r ∧ r.init = true ∧ j = field (c.gLane f.rg.toNat lead) 15 12 ∧ j < r.n ∧
    off = r.offset j ∧
    ((r.slot j = (.held, c.owner) ∧ s1 = c.withRackSet f.rack.toNat (r.setSlot j .pending c.owner)) ∨
     (r.slot j = (.droppedHeld, c.owner) ∧ s1 = c.withRackSet f.rack.toNat (r.setSlot j .droppedPending c.owner)))
  else j = 0 ∧ off = 0 ∧ s1 = c.s
/-- The rounding mode of a copy, and whether it draws a seed (03 R96). -/
def Ctx.copyMode (c : Ctx) (f : CopyF) : Nat := if f.rm = 0 then c.k0.mode.toNat else f.rm.toNat
def Ctx.copyDraws (c : Ctx) (f : CopyF) (kind : Nat) : Bool := decide (kind = 5 ∨ kind = 6) && Rm.ofCode (c.copyMode f) == .rs
/-- A copy as it is queued: what it reads of its leader lane and, for CPYG and CPYS, of the others. -/
def Ctx.copyJob (c : Ctx) (f : CopyF) (kind lead j : Nat) : CopyJob :=
  { f, kind, leader := lead, regs := (List.range 4).map fun i => c.slot i lead
    base := if kind = 0 then (c.sReg (2 * f.sb.toNat)).setWidth 64 else c.sPair f.sb.toNat
    word := if f.cw then c.sPair f.cb.toNat else 0
    rows := if kind = 2 then [(lead, c.gLane f.g.toNat lead)]
      else if kind = 3 ∨ kind = 4 then c.lanes.map fun l => (l, c.gLane f.g.toNat l) else []
    wordPa := 0, slotNo := j, rm := c.copyMode f, seed := c.k0.rseed, record := none, asked := [], got := [], left := [],
    noise := [], phase := 0 }

/-! ## Releases, acquires and rendezvous (11) -/

/-- The context after a release at a scope has found nothing to wait for: from YARD on the strand's pins are published. -/
def Ctx.afterRelease (c : Ctx) (scope : Nat) : Ctx := if scopeYARD ≤ scope then c.publishOwnPins else c
/-- Whether a release at a scope goes through: R301's wait is over, and no remote failure is recorded that the scope covers. -/
def Ctx.CanRelease (c : Ctx) (scope : Nat) : Prop :=
  releaseHolds c.s c.w0.core c.ref c.k0 scope = true ∧ (scope < scopeNEAR ∨ rerrV c.k0.rerr = false)
/-- The state after an acquire at a scope: from YARD on the core's leased copies are dropped (R301). -/
def Ctx.afterAcquire (c : Ctx) (scope : Nat) : State := if scopeYARD ≤ scope then dropLeases c.s c.w0.core else c.s

/-- A strand's atomic. -/
def atomForms : List ((AtomF → Instr) × Bool) := [(.atom, true), (.atomc, true), (.red, false)]
/-- The lanes of an atomic with their operand and compare value. -/
def Ctx.atomicLanes (c : Ctx) (f : AtomF) (ps : List (Nat × DWord × Target)) : List (LaneAccess × DWord × DWord) :=
  let value (slot l : Nat) : DWord := if atomBytes f.ty.toNat = 8 then c.pair slot l else (c.slot slot l).setWidth 64
  ps.map fun x => ({ lane := x.1, va := x.2.1, target := x.2.2, data := [] }, value f.a.toNat x.1, value f.c.toNat x.1)

/-- The strand's rendezvous point pt is there; the state with the point changed. -/
def Ctx.HasPoint (c : Ctx) (pt : Nat) (p : Point) : Prop := ∃ t, c.team = some t ∧ t.points[pt]? = some p
def Ctx.withPointSet (c : Ctx) (pt : Nat) (p : Point) : State :=
  updTeam c.s c.g.uid c.w0.team fun t => { t with points := t.points.set pt p }
/-- A point after one arrival more (R320). -/
def arrivedPoint (p : Point) : Point :=
  if p.pending - 1 = 0 then { p with phase := p.phase + 1, pending := p.expected } else { p with pending := p.pending - 1 }
/-- What an arrival at a point makes of a strand k: the phase arrived in is recorded, and written where the instruction asks. -/
def Ctx.arrives (c : Ctx) (f : RvF) (p : Point) (k : Strand) : Strand :=
  { k with arrivals := c.k0.arrivals.filter (·.pt != f.pt.toNat) ++ [{ pt := f.pt.toNat, phase := p.phase.toNat }],
           slots := if f.wd then c.withSlot f.d.toNat fun _ => BitVec.ofNat 32 p.phase.toNat else c.k0.slots }
/-- RVINIT's mark: the strands of the issuer's team have not arrived at the point. -/
def Strand.unarrived (k : Strand) (pt : Nat) : Strand := { k with arrivals := k.arrivals.filter (·.pt != pt) }
def Warp.unarrived (w : Warp) (pt : Nat) : Warp := { w with strands := w.strands.map (·.unarrived pt) }
def Ctx.ofTeam (c : Ctx) (w : Warp) : Bool := w.gang == c.g.uid && w.team == c.w0.team

/-! ## Records, events and control registers (13, 14, 15) -/

/-- The context of an EMITC or EVSET with its EM queue entry (04 R136): the one that it holds, or a new one. -/
def Ctx.withEm (c : Ctx) : Ctx :=
  if c.k0.em.isSome then c else { c with k0 := { c.k0 with em := some true }, k := { c.k with em := some true } }
/-- The state with records granted: the strand out of its die's line, the allocations its gang's, the launch's counter up. -/
def Ctx.afterGrant (c : Ctx) (f : EmitaF) (us : List CellUse) : State :=
  let as := allocsOf (tenantOf c.s c.tenant) f.node.toNat us ((c.emitLanes f.one).map c.emitDepth)
  let die := dieOfCore c.w0.core
  let s := setDie c.s die { dieOf c.s die with emitting := (emitLine c.s die).filter (·.1 != c.ref) }
  changeCounter (updGang s c.g.uid fun g => { g with allocs := g.allocs ++ as }) c.l.uid (· + as.length)
/-- The address that a lane's pair takes: its own record's, or with one the only record's. -/
def Ctx.recordFor (c : Ctx) (f : EmitaF) (us : List CellUse) (l : Nat) : DWord :=
  let as := allocsOf (tenantOf c.s c.tenant) f.node.toNat us ((c.emitLanes f.one).map c.emitDepth)
  if f.one then ((as.head?).map (·.addr)).getD 0
  else ((((c.emitLanes f.one).zip (as.map (·.addr))).find? (·.1 == l)).map (·.2)).getD 0

/-! ## Front-end processors (14 R392 to R394) -/

/-- Front-end processor n, here x, has its turn in machine mode. -/
def FeRuns (s : State) (n : Nat) (x : FrontEnd) : Prop := s.feTurn = some n ∧ feAt s n = some x ∧ x.machine = true
/-- The processor past an instruction that gives rd a value. -/
def FrontEnd.past (x : FrontEnd) (rd : BitVec 5) (v : DWord) : FrontEnd :=
  { x.setX rd v with pc := x.pc + 4, waiting := none }
/-- The instruction ends in a state that s is otherwise. -/
def FeEnds (s : State) (n : Nat) (rd : BitVec 5) (v : DWord) (t : State) : Prop :=
  ∀ y, feAt s n = some y → t = setFe s n (y.past rd v)
/-- Bits pos to pos + len - 1. -/
def bitsOf (v : DWord) (pos len : Nat) : Nat := v.toNat / 2 ^ pos % 2 ^ len

/-! ## Groups and placement (13 R357; 01 R34) -/

/-- A group of a launch's node has started on a die (R357): its gang has the records given, a number of its own, the launch's
priority, and waits for placement; outside the launch's seed node it takes the trough's counter as its index. Every other
gang, and every warp, is as before. -/
def GroupStarted (s t : State) (die node : Nat) (l : Launch) (tr : Trough) (rs : List RecordRef) : Prop :=
  (∃ g, gangOf t s.nextId = some g ∧ g.records = rs ∧ g.launch = l.uid ∧ g.node = node ∧ g.die = die ∧
    g.phase = .queued s.cycles s.ns false l.priority ∧ (node ≠ l.seedNode → g.index = BitVec.ofNat 32 tr.groups)) ∧
  (∀ u, u ≠ s.nextId → gangOf t u = gangOf s u) ∧ t.warps = s.warps

/-- The yards at which the placement unit tries a waiting gang of a die, where its search starts at the chosen one. -/
def tried (die choice : Nat) (g : Gang) : List Nat := rotate choice (dieYards die) ++ (yardsFor g).drop 21

/-- A gang that waits, with the priority that its wait gives it where a period is this many ns (R34). -/
def aged (s : State) (g : Gang) (period : Nat) : Gang :=
  match g.phase, launchOf s g.launch with
  | .queued c ns saved _, some l => { g with phase := .queued c ns saved (min 15 (l.priority + (s.ns - ns) / period)) }
  | _, _ => g

/-- A pre-emption request's warps (15 R415): those of the gang ask their strands to stop, from now on unless already asked. -/
def asked (s : State) (gang : Nat) : State :=
  { s with warps := s.warps.map fun w => if w.gang = gang then
      { w with preemptPending := true, preemptAt := if w.preemptPending then w.preemptAt else s.ns } else w }

/-! ## The event vector (14 R388) -/

/-- A tenant's vector takes a value, and each of its packets that waits on a mask within it has it met; nothing else changes. -/
def EventsBecome (s t : State) (tenant : Nat) (v : BitVec 256) : Prop :=
  t = { updTenant s tenant (fun x => { x with events := v }) with packets := t.packets } ∧
  t.packets.length = s.packets.length ∧
  ∀ (i : Nat) (p : Packet), s.packets[i]? = some p → t.packets[i]? = some
    (if p.tenant = tenant ∧ p.phase = .waiting false ∧ p.waitMask &&& v = p.waitMask then { p with phase := .waiting true } else p)

/-! ## Lines at their homes (12 R336, R338) -/

/-- A line under LEASE at rest at its home: in state I, with nothing held and no lease, in no range that is sealed or being
changed, and on no page that moves. -/
structure LineAtRest (s : State) (line : Nat) : Prop where
  lease : protoOf s line = 1
  unsealed : s.part.sealedAt (lineBase line) = false
  still : changing s line = false
  atRest : homeOf s line = HomeLine.rest

/-- A peer's or the host's request that passes the checks on it, for bytes of a line at rest. -/
structure Admitted (s : State) (r : PeerRequest) : Prop where
  passes : peerFault s r = none
  within : r.size ≤ 64 - r.addr.toNat % 64
  line : LineAtRest s (lineOf r.addr.toNat)

/-! ## Traps -/

/-- A trap of the strand in context c has stopped its warp (15 R397, R398): the warp is recorded as stopped with the trap; no
strand of it has retired anything, and none waits; the load of a word ACQ that waited is given up, and every other operation
and warp is as before. -/
structure Ctx.TrappedWith (c : Ctx) (t : State) (r : TrapRec) : Prop where
  warp : warpOf t c.ref.warp = some (c.w0.stopFor c.s r)
  others : ∀ u, u ≠ c.ref.warp → warpOf t u = warpOf c.s u
  kept : t.gangs = c.s.gangs ∧ t.launches = c.s.launches ∧ t.cycles = c.s.cycles ∧
    t.ops = c.s.ops.filter fun o => !fetchesWord c.s c.w0.uid o

/-- What a trap of the instruction in context c records: the cause, subcode, fault address and fault lane mask given, its
instruction's value and the logical name of the lowest lane of the mask. -/
def Ctx.trapOf (c : Ctx) (cause sub : Nat) (addr : DWord) (lanes : Mask) : TrapRec :=
  { strand := c.no, cause, sub, addr, lanes, value := c.value, remote := false,
    name := nameIn c.l c.g c.w0 ((lowestLane lanes).getD 0), issued := true }
/-- The instruction, which has issued, has trapped. -/
abbrev Ctx.Trapped (c : Ctx) (t : State) (cause sub : Nat) (addr : DWord) (lanes : Mask) : Prop :=
  c.TrappedWith t (c.trapOf cause sub addr lanes)
/-- The wait of the instruction, which has not issued, has ended in a trap. -/
abbrev Ctx.WaitTrapped (c : Ctx) (t : State) (cause sub : Nat) (addr : DWord) (lanes : Mask) : Prop :=
  c.TrappedWith t { c.trapOf cause sub addr lanes with issued := false }

/-- A trap of the instruction in the trap kernel ends its gang with kind 1 (15 R405), unless the gang is already to end; the
kernel's strand stands as it stood, before the instruction. -/
def Ctx.EndsGang (c : Ctx) (t : State) (cause sub : Nat) (addr : DWord) (lanes : Mask) : Prop :=
  (c.g.phase = .placed → (gangOf t c.g.uid).map Gang.phase = some (.terminating 1 c.w0.uid (some
    (c.trapOf cause sub addr lanes)))) ∧
  (warpOf t c.ref.warp).map Warp.kernel = some c.w0.kernel

/-- A trap of the instruction: outside a trap kernel it stops the warp, in one it ends the gang (15 R397, R405). -/
def Ctx.Traps (c : Ctx) (t : State) (cause sub : Nat) (addr : DWord) (lanes : Mask) : Prop :=
  (c.w0.kernel = none → c.Trapped t cause sub addr lanes) ∧ (c.w0.kernel ≠ none → c.EndsGang t cause sub addr lanes)
/-- An instruction whose lanes raise these exceptions traps where one of them is enabled: with FP, the lowest enabled one its
subcode, in the lanes that raised it, and fault address 0 (03 R100; 19 R466). -/
def Ctx.FpTraps (c : Ctx) (s : State) (i : Instr) (raises : Nat → Flags) : Prop :=
  let enabled := flagUnion (lanes64.map raises) &&& c.k0.excmask
  ∀ e < 5, enabled.getLsbD e = true → (∀ j < e, enabled.getLsbD j = false) →
    ∃ t, Sys2Proof.Machine.exec i s = .next t ∧ c.Traps t causeFP e 0 (maskOf fun l => (raises l).getLsbD e)

/-- What a trap kernel may not execute (15 R403): op8x 0x00 to 0x0E, 0x50 to 0x53, 0x58 to 0x5C, 0x60 and 0x61, and copies
with rk = 1. -/
def kernelForbids : Instr → Bool
  | .mma _ => true
  | .mmag _ => true
  | .tbind _ => true
  | .tfree _ => true
  | .tzero _ => true
  | .tget _ => true
  | .tset _ => true
  | .taddc _ => true
  | .tmulr _ => true
  | .tscl _ => true
  | .trowred _ => true
  | .tact _ => true
  | .tqnt _ => true
  | .tld _ => true
  | .tst _ => true
  | .rvinit _ => true
  | .rvarr _ => true
  | .rvwait _ => true
  | .rvaw _ => true
  | .rkinit _ => true
  | .rkacq _ => true
  | .rkpub _ => true
  | .rkawait _ => true
  | .rkrel _ => true
  | .rkrelSkip _ => true
  | .emita _ => true
  | .emitc _ => true
  | .cpyl f => f.rk
  | .cpyt f => f.rk
  | .cpyw f => f.rk
  | .cpyg f => f.rk
  | .cpys f => f.rk
  | .cpyx f => f.rk
  | .cpyq f => f.rk
  | _ => false

end Sys2Proof.Machine
end

