-- ==== Sys2Proof/Certificates/Slice0/Obligations.lean ====
section
/-! DEFINITION. The statements about the HN-7 that are to be proved. Each names the rules of spec/ it states. -/

open Sys2Proof Sys2Proof.Machine

/-! ## Encoding and stepping -/

/-- R41 to R67: every well-formed strand instruction is what the decoder reads from its own parcels, with every operand at
every value its form admits. -/
def Obligations.DecodeOfEncode : Prop :=
  ∀ i : Instr, i.wellFormed = true → encode i ≠ [] → decode (encode i) = .ok i

/-- R392: every Xbrod instruction whose unused fields are 0 is what its word decodes to. -/
def Obligations.XbrodDecodeOfEncode : Prop :=
  ∀ (i : Instr) (w : Word), i.wellFormed = true → i.xbrodWord = some w → decodeXbrod w = some i

/-- Words of spec/02 and of the chapters' tables decode to the instructions they stand for. -/
def Obligations.DecodesWordsOfTheSpec : Prop :=
  decodeTableWord 32 0xC0540C40 = some (.sel { sp := none, d := 1, a := 0, g := 3, x := false, l := false,
                                               gd := { p := 1, n := false, e := false }, m := 0 }) ∧
  decodeTableWord 16 0x9C00 = some (.selp { d := 0, a := 0, g := 0 }) ∧
  decodeTableWord 16 0x1400 = some (.iaddShort { d := 0, a := 0, g := 0 }) ∧
  decodeTableWord 32 0xC8200007 = some (.iaddi { sp := none, d := 0, a := 0, imm := 7 }) ∧
  decodeTableWord 32 0x0000000B = some (.qfetch { rd := 0, rs1 := 0, rs2 := 0 })

/-- A strand's turn with no fault due runs the instruction that its parcels decode to: the step is exec of it on the state
with the strand in focus, its acquire's end and its issue charge accounted for, and the clock moved on. -/
def Obligations.StepRunsTheDecodedInstruction : Prop :=
  ∀ (s : State) (r : StrandRef) (c : Ctx) (i : Instr),
    turn s = .strand r → focusCtx { s with focus := some r } none 1 0 = some c →
    dueFault { s with focus := some r } r c.k0 = none → c.k0.cancelled = none →
    decode (fetchParcels { s with focus := some r } c.l c.k0 c.addr.toNat) = .ok i →
    step s = after stepCycles (charged c (exec i (endAcquire { s with focus := some r } c)))

/-! ## Invariants -/

/-- Memory keeps its canonical form in every step. -/
def Obligations.StepKeepsMemoryCanonical : Prop :=
  ∀ s t : State, s.mem.wf = true → step s = .next t → t.mem.wf = true

/-- Memory right after reset is in canonical form, and every byte of it reads as unwritten (log entry 1). -/
def Obligations.ResetMemory : Prop :=
  State.reset.mem.wf = true ∧ ∀ a, State.reset.mem.byte a = unwritten

/-! ## Integer instructions -/

/-- R177, R178, R183: the two-operand LR instructions write their result in the lanes of Exec, and change nothing else. -/
def Obligations.LongIntegerResults : Prop :=
  ∀ p ∈ longIntegers, ∀ (f : LR) (s : State) (c : Ctx),
    Runs s (p.1 f) (some f.gd) c → c.Readable [c.lrReg f] [] →
    ∃ t, exec (p.1 f) s = .next t ∧
      c.Leaves t (c.afterReads [(c.lrReg f, f.l)] [])
        (c.wrote f.d.toNat fun l =>
            p.2 (f.m.getLsbD 0) (c.slot f.d.toNat l) (c.slot f.a.toNat l) (c.gLane (c.lrReg f) l))

/-- R177, R178: the S16 forms. -/
def Obligations.ShortIntegerResults : Prop :=
  ∀ p ∈ shortIntegers, ∀ (f : S16) (s : State) (c : Ctx),
    Runs s (p.1 f) none c → c.Readable [f.g.toNat] [] →
    ∃ t, exec (p.1 f) s = .next t ∧
      c.Leaves t (c.afterReads [(f.g.toNat, false)] [])
        (c.wrote f.d.toNat fun l =>
            p.2 (c.slot f.d.toNat l) (c.slot f.a.toNat l) (c.gLane f.g.toNat l))

/-- R168, R178, R179: the S16 forms with an immediate, and MOV. -/
def Obligations.ShortImmediateResults : Prop :=
  ∀ p ∈ shortImmediates, ∀ (f : S16) (s : State) (c : Ctx), Runs s (p.1 f) none c →
    ∃ t, exec (p.1 f) s = .next t ∧
      c.Leaves t c.w0 (c.wrote f.d.toNat fun l => p.2 f.g (c.slot f.a.toNat l))

/-- R170, R179: the LI forms. -/
def Obligations.LongImmediateResults : Prop :=
  ∀ p ∈ longImmediates, ∀ (f : LI) (s : State) (c : Ctx), Runs s (p.1 f) none c →
    ∃ t, exec (p.1 f) s = .next t ∧
      c.Leaves t c.w0 (c.wrote f.d.toNat fun l => p.2 f.imm (c.slot f.d.toNat l) (c.slot f.a.toNat l))

/-- R168, R182, R188, R192: the LR forms with one operand, which rounds nothing. -/
def Obligations.UnaryResults : Prop :=
  ∀ p ∈ unaries, ∀ (f : LR) (s : State) (c : Ctx), Runs s (p.1 f) (some f.gd) c →
    ∃ t, exec (p.1 f) s = .next t ∧
      c.Leaves t c.w0 (c.wrote f.d.toNat fun l => p.2 (f.m.getLsbD 0) (c.slot f.a.toNat l))

/-- R181: the 64-bit instructions write the pair. -/
def Obligations.WideIntegerResults : Prop :=
  (∀ (f : LR) (s : State) (c : Ctx), Runs s (.imul64w f) (some f.gd) c → c.Readable [c.lrReg f] [] →
    ∃ t, exec (.imul64w f) s = .next t ∧
      c.Leaves t (c.afterReads [(c.lrReg f, f.l)] []) (c.wrotePair f.d.toNat fun l =>
        productWide (f.m.getLsbD 0) (c.slot f.a.toNat l) (c.gLane (c.lrReg f) l))) ∧
  ∀ p ∈ ([(.iadd64, fun a b => a + b), (.isub64, fun a b => a - b)] : List ((LR → Instr) × (DWord → DWord → DWord))),
    ∀ (f : LR) (s : State) (c : Ctx), Runs s (p.1 f) (some f.gd) c → c.Readable [f.g.toNat, f.g.toNat + 1] [] →
    ∃ t, exec (p.1 f) s = .next t ∧
      c.Leaves t (c.afterReads [(f.g.toNat, f.l), (f.g.toNat + 1, f.l)] []) (c.wrotePair f.d.toNat fun l =>
        p.2 (c.pair f.a.toNat l) (DWord.ofPair (c.gLane f.g.toNat l) (c.gLane (f.g.toNat + 1) l)))

/-- R184, R69, R70, 15 R405: IDIV and IREM trap with ILLEGAL, subcode 1, whatever their fields, with the issue address and every lane
that stands there; in a trap kernel the trap ends the gang. -/
def Obligations.DivisionTraps : Prop :=
  ∀ (f : LR) (i : Instr), i = .idiv f ∨ i = .irem f → ∀ (s : State) (c : Ctx), Runs s i (some f.gd) c →
    ∃ t, exec i s = .next t ∧ c.Traps t causeILLEGAL 1 (c.addr.setWidth 64) c.here

/-- R180: the forms with a uniform register. -/
def Obligations.UniformIntegerResults : Prop :=
  (∀ (f : S16) (s : State) (c : Ctx), Runs s (.iaddsShort f) none c → c.Readable [] [f.g.toNat % 32] →
    ∃ t, exec (.iaddsShort f) s = .next t ∧
      c.Leaves t (c.afterReads [] [f.g.toNat % 32])
        (c.wrote f.d.toNat fun l => c.slot f.a.toNat l + c.sReg (f.g.toNat % 32))) ∧
  (∀ (f : LS) (s : State) (c : Ctx), Runs s (.iadds f) (some (lsGuard f)) c → c.Readable [] [f.u.toNat] →
    ∃ t, exec (.iadds f) s = .next t ∧
      c.Leaves t (c.afterReads [] [f.u.toNat]) (c.wrote f.d.toNat fun l => c.slot f.a.toNat l + c.sReg f.u.toNat)) ∧
  ∀ (f : LS) (s : State) (c : Ctx), Runs s (.imas f) (some (lsGuard f)) c → c.Readable [f.g.toNat] [f.u.toNat] →
    ∃ t, exec (.imas f) s = .next t ∧
      c.Leaves t (c.afterReads [(f.g.toNat, false)] [f.u.toNat])
        (c.wrote f.d.toNat fun l => c.slot f.a.toNat l * c.gLane f.g.toNat l + c.sReg f.u.toNat)

/-! ## Floating point -/

/-- R99, R186, R188, R194: the S16 forms with a general register, where no enabled exception is raised. -/
def Obligations.ShortFpResults : Prop :=
  ∀ p ∈ shortFps, ∀ (f : S16) (s : State) (c : Ctx), Runs s (p.make f) none c → c.Readable [f.g.toNat] [] →
    let rm := c.rounding 0
    let op := fun l => p.op rm c.k0.ftz (c.slot f.d.toNat l) (c.slot f.a.toNat l) (c.gLane f.g.toNat l)
    c.raised (p.mode rm) p.n op &&& c.k0.excmask = 0 →
    ∃ t, exec (p.make f) s = .next t ∧
      c.Leaves t (c.afterReads [(f.g.toNat, false)] []) (c.fpWrote f.d.toNat (p.mode rm) p.n op)

/-- R99, R186, R188, R194: the LR forms with a general register. -/
def Obligations.LongFpResults : Prop :=
  ∀ p ∈ longFps, ∀ (f : LR) (s : State) (c : Ctx), Runs s (p.make f) (some f.gd) c → c.Readable [c.lrReg f] [] →
    let rm := c.rounding (lrRound f)
    let op := fun l => p.op rm (c.lrFtz f) (c.slot f.d.toNat l) (c.slot f.a.toNat l) (c.gLane (c.lrReg f) l)
    c.raised (p.mode rm) p.n op &&& c.k0.excmask = 0 →
    ∃ t, exec (p.make f) s = .next t ∧
      c.Leaves t (c.afterReads [(c.lrReg f, f.l)] []) (c.fpWrote f.d.toNat (p.mode rm) p.n op)

/-- R189 to R191: the forms with one operand. -/
def Obligations.UnaryFpResults : Prop :=
  (∀ p ∈ unaryFps, ∀ (f : LR) (s : State) (c : Ctx), Runs s (p.make f) (some f.gd) c →
    let rm := c.rounding (lrRound f)
    let op := fun l => p.op rm (c.lrFtz f) 0 (c.slot f.a.toNat l) 0
    c.raised (p.mode rm) p.n op &&& c.k0.excmask = 0 →
    ∃ t, exec (p.make f) s = .next t ∧ c.Leaves t c.w0 (c.fpWrote f.d.toNat (p.mode rm) p.n op)) ∧
  ∀ (f : S16) (s : State) (c : Ctx), Runs s (.frcpShort f) none c →
    let rm := c.rounding 0
    let op := fun l => onFloats (fun _ _ a _ => a.rcp) rm c.k0.ftz 0 (c.slot f.a.toNat l) 0
    c.raised rm 1 op &&& c.k0.excmask = 0 →
    ∃ t, exec (.frcpShort f) s = .next t ∧ c.Leaves t c.w0 (c.fpWrote f.d.toNat rm 1 op)

/-- R187: the forms with a uniform register or an immediate. -/
def Obligations.UniformFpResults : Prop :=
  (∀ p ∈ shortUniformFps, ∀ (f : S16) (s : State) (c : Ctx), Runs s (p.make f) none c → c.Readable [] [f.g.toNat % 32] →
    let rm := c.rounding 0
    let op := fun l => p.op rm c.k0.ftz (c.slot f.d.toNat l) (c.slot f.a.toNat l) (c.sReg (f.g.toNat % 32))
    c.raised rm 1 op &&& c.k0.excmask = 0 →
    ∃ t, exec (p.make f) s = .next t ∧
      c.Leaves t (c.afterReads [] [f.g.toNat % 32]) (c.fpWrote f.d.toNat rm 1 op)) ∧
  (∀ p ∈ longUniformFps, ∀ (f : LS) (s : State) (c : Ctx), Runs s (p.make f) (some (lsGuard f)) c → c.Readable [] [f.u.toNat] →
    let rm := c.rounding f.m.toNat
    let op := fun l => p.op rm c.k0.ftz (c.slot f.d.toNat l) (c.slot f.a.toNat l) (c.sReg f.u.toNat)
    c.raised rm 1 op &&& c.k0.excmask = 0 →
    ∃ t, exec (p.make f) s = .next t ∧ c.Leaves t (c.afterReads [] [f.u.toNat]) (c.fpWrote f.d.toNat rm 1 op)) ∧
  (∀ (f : LS) (s : State) (c : Ctx), Runs s (.fmas f) (some (lsGuard f)) c → c.Readable [f.g.toNat] [f.u.toNat] →
    let rm := c.rounding f.m.toNat
    let op := fun l => onFloats (fun rm u a g => u.fma rm a g) rm c.k0.ftz (c.sReg f.u.toNat) (c.slot f.a.toNat l)
      (c.gLane f.g.toNat l)
    c.raised rm 1 op &&& c.k0.excmask = 0 →
    ∃ t, exec (.fmas f) s = .next t ∧
      c.Leaves t (c.afterReads [(f.g.toNat, false)] [f.u.toNat]) (c.fpWrote f.d.toNat rm 1 op)) ∧
  ∀ p ∈ immediateFps, ∀ (f : LI) (s : State) (c : Ctx), Runs s (p.make f) none c →
    let rm := c.rounding 0
    let op := fun l => p.op rm c.k0.ftz (c.slot f.d.toNat l) (c.slot f.a.toNat l) (f.imm ++ 0#16)
    c.raised rm 1 op &&& c.k0.excmask = 0 →
    ∃ t, exec (p.make f) s = .next t ∧ c.Leaves t c.w0 (c.fpWrote f.d.toNat rm 1 op)

/-- R195 to R199: the conversions. -/
def Obligations.ConversionResults : Prop :=
  (∀ (f : LR) (s : State) (c : Ctx), Runs s (.cvti f) (some f.gd) c →
    let rm := c.rounding (lrRound f)
    c.raised rm 1 (c.cvtiOp f) &&& c.k0.excmask = 0 →
    ∃ t, exec (.cvti f) s = .next t ∧
      c.Leaves t c.w0 (if (intType (field f.g 2 0)).1 = 64 then c.fpWrotePair f.d.toNat rm 1 (c.cvtiOp f)
        else c.fpWrote f.d.toNat rm 1 (c.cvtiOp f))) ∧
  (∀ (f : LR) (s : State) (c : Ctx), Runs s (.cvtf f) (some f.gd) c →
    let rm := c.rounding (lrRound f)
    c.raised rm 1 (c.cvtfOp f) &&& c.k0.excmask = 0 →
    ∃ t, exec (.cvtf f) s = .next t ∧ c.Leaves t c.w0 (c.fpWrote f.d.toNat rm 1 (c.cvtfOp f))) ∧
  (∀ (f : S16) (s : State) (c : Ctx), Runs s (.cvtfF32I32 f) none c →
    let rm := c.rounding 0
    c.raised rm 1 (c.cvtfShortOp f) &&& c.k0.excmask = 0 →
    ∃ t, exec (.cvtfF32I32 f) s = .next t ∧ c.Leaves t c.w0 (c.fpWrote f.d.toNat rm 1 (c.cvtfShortOp f))) ∧
  (∀ (f : LR) (s : State) (c : Ctx), Runs s (.pack2 f) (some f.gd) c →
    let rm := c.rounding (lrRound f)
    c.raised rm 2 (c.pack2Op f) &&& c.k0.excmask = 0 →
    ∃ t, exec (.pack2 f) s = .next t ∧ c.Leaves t c.w0 (c.fpWrote f.d.toNat rm 2 (c.pack2Op f))) ∧
  (∀ (f : LR) (s : State) (c : Ctx), Runs s (.unpk2 f) (some f.gd) c →
    c.raised .rn 1 (c.unpk2Op f) &&& c.k0.excmask = 0 →
    ∃ t, exec (.unpk2 f) s = .next t ∧ c.Leaves t c.w0 (c.fpWrote f.d.toNat .rn 1 (c.unpk2Op f))) ∧
  ∀ (f : LR) (s : State) (c : Ctx), Runs s (.cvtn f) (some f.gd) c →
    let rm := c.rounding (lrRound f)
    c.raised rm 1 (c.cvtnOp f) &&& c.k0.excmask = 0 →
    ∃ t, exec (.cvtn f) s = .next t ∧ c.Leaves t c.w0
      { c.fpPast rm 1 (c.cvtnOp f) with
        slots := c.withSlot f.d.toNat fun l => withByte (c.slot f.d.toNat l) (field f.g 4 3) (c.fpOut rm 1 (c.cvtnOp f) l).1 }

/-- R100, 15 R405, 19 R466: an instruction that raises an enabled exception traps with FP, the lowest enabled one its subcode, in
the lanes that raised it, and fault address 0; it writes nothing. In a trap kernel it ends the gang. Here for every
instruction that raises floating-point exceptions: the arithmetic in its LR, S16, LS and LI forms, the one-operand forms,
the conversions, FOLD and the comparisons. -/
def Obligations.EnabledFpExceptionTraps : Prop :=
  ∀ (s : State) (c : Ctx),
    (∀ p ∈ longFps, ∀ f : LR, Runs s (p.make f) (some f.gd) c → c.Readable [c.lrReg f] [] →
      let rm := c.rounding (lrRound f)
      c.FpTraps s (p.make f) (c.fpRaises (p.mode rm) p.n fun l =>
        p.op rm (c.lrFtz f) (c.slot f.d.toNat l) (c.slot f.a.toNat l) (c.gLane (c.lrReg f) l))) ∧
    (∀ p ∈ shortFps, ∀ f : S16, Runs s (p.make f) none c → c.Readable [f.g.toNat] [] →
      let rm := c.rounding 0
      c.FpTraps s (p.make f) (c.fpRaises (p.mode rm) p.n fun l =>
        p.op rm c.k0.ftz (c.slot f.d.toNat l) (c.slot f.a.toNat l) (c.gLane f.g.toNat l))) ∧
    (∀ p ∈ unaryFps, ∀ f : LR, Runs s (p.make f) (some f.gd) c →
      let rm := c.rounding (lrRound f)
      c.FpTraps s (p.make f) (c.fpRaises (p.mode rm) p.n fun l => p.op rm (c.lrFtz f) 0 (c.slot f.a.toNat l) 0)) ∧
    (∀ f : S16, Runs s (.frcpShort f) none c →
      let rm := c.rounding 0
      c.FpTraps s (.frcpShort f) (c.fpRaises rm 1 fun l =>
        onFloats (fun _ _ a _ => a.rcp) rm c.k0.ftz 0 (c.slot f.a.toNat l) 0)) ∧
    (∀ p ∈ shortUniformFps, ∀ f : S16, Runs s (p.make f) none c → c.Readable [] [f.g.toNat % 32] →
      let rm := c.rounding 0
      c.FpTraps s (p.make f) (c.fpRaises rm 1 fun l =>
        p.op rm c.k0.ftz (c.slot f.d.toNat l) (c.slot f.a.toNat l) (c.sReg (f.g.toNat % 32)))) ∧
    (∀ p ∈ longUniformFps, ∀ f : LS, Runs s (p.make f) (some (lsGuard f)) c → c.Readable [] [f.u.toNat] →
      let rm := c.rounding f.m.toNat
      c.FpTraps s (p.make f) (c.fpRaises rm 1 fun l =>
        p.op rm c.k0.ftz (c.slot f.d.toNat l) (c.slot f.a.toNat l) (c.sReg f.u.toNat))) ∧
    (∀ f : LS, Runs s (.fmas f) (some (lsGuard f)) c → c.Readable [f.g.toNat] [f.u.toNat] →
      let rm := c.rounding f.m.toNat
      c.FpTraps s (.fmas f) (c.fpRaises rm 1 fun l => onFloats (fun rm u a g => u.fma rm a g) rm c.k0.ftz (c.sReg f.u.toNat)
        (c.slot f.a.toNat l) (c.gLane f.g.toNat l))) ∧
    (∀ p ∈ immediateFps, ∀ f : LI, Runs s (p.make f) none c →
      let rm := c.rounding 0
      c.FpTraps s (p.make f) (c.fpRaises rm 1 fun l =>
        p.op rm c.k0.ftz (c.slot f.d.toNat l) (c.slot f.a.toNat l) (f.imm ++ 0#16))) ∧
    (∀ p ∈ conversions, ∀ f : LR, Runs s (p.1 f) (some f.gd) c →
      c.FpTraps s (p.1 f) (c.fpRaises (p.2.1 c f) p.2.2.1 (p.2.2.2 c f))) ∧
    (∀ f : S16, Runs s (.cvtfF32I32 f) none c →
      c.FpTraps s (.cvtfF32I32 f) (c.fpRaises (c.rounding 0) 1 (c.cvtfShortOp f))) ∧
    (∀ f : LR, Runs s (.fold f) (some f.gd) c → c.FpTraps s (.fold f) (c.foldRaises f)) ∧
    (∀ f : LR, Runs s (.fcmp f) (some f.gd) c → c.Readable [c.lrReg f] [] →
      c.FpTraps s (.fcmp f) (c.compareRaises c.k0.ftz (c.slot f.a.toNat) (c.gLane (c.lrReg f)))) ∧
    (∀ f : S16, Runs s (.flt f) none c → c.Readable [f.g.toNat] [] →
      c.FpTraps s (.flt f) (c.compareRaises c.k0.ftz (c.slot f.a.toNat) (c.gLane f.g.toNat))) ∧
    ∀ f : LS, Runs s (.fcmps f) (some (lsGuard f)) c → c.Readable [] [f.u.toNat] →
      c.FpTraps s (.fcmps f) (c.compareRaises c.k0.ftz (c.slot f.a.toNat) fun _ => c.sReg f.u.toNat)

/-! ## Across lanes -/

/-- R149, R201 to R203: exchange, ballot, fold, leader and votes. -/
def Obligations.LaneResults : Prop :=
  (∀ (f : LR) (s : State) (c : Ctx), Runs s (.lxch f) (some f.gd) c → c.Readable [c.lrReg f] [] →
    ∃ t, exec (.lxch f) s = .next t ∧ c.Leaves t (c.afterReads [(c.lrReg f, f.l)] [])
      (c.wrote f.d.toNat fun l => c.laneValue f.a.toNat
        (lxchSource (field f.m 1 0) (segWidth (field f.m 3 2)) l (field (c.gLane (c.lrReg f) l) 5 0)))) ∧
  (∀ (f : LR) (s : State) (c : Ctx), Runs s (.ballot f) (some f.gd) c →
    ∃ t, exec (.ballot f) s = .next t ∧ c.Leaves t c.w0 (c.wrotePair f.d.toNat fun _ =>
      maskOf fun l => c.exec.getLsbD l && (c.k0.pred (field f.g 2 0) l != f.g.getLsbD 3))) ∧
  (∀ (f : LR) (s : State) (c : Ctx), Runs s (.fold f) (some f.gd) c →
    let w := segWidth (field f.g 1 0)
    let flags := flagUnion (lanes64.map (c.foldRaises f))
    flags &&& c.k0.excmask = 0 →
    ∃ t, exec (.fold f) s = .next t ∧ c.Leaves t c.w0
      { c.wrote f.d.toNat fun l => (c.foldSegment f (l / w)).1 with fpflags := c.k0.fpflags ||| flags }) ∧
  (∀ (f : LR) (s : State) (c : Ctx), Runs s (.leader f) (some f.gd) c →
    ∃ t, exec (.leader f) s = .next t ∧ c.Leaves t c.w0 (c.pushed fun l => c.leader == some l)) ∧
  ∀ p ∈ votes, ∀ (f : LR) (s : State) (c : Ctx), Runs s (p.1 f) (some f.gd) c →
    ∃ t, exec (p.1 f) s = .next t ∧ c.Leaves t c.w0
      (c.pushed fun _ => p.2 (c.lanes.map (c.k0.pred (field f.g 2 0))))

/-! ## Comparisons and predicates -/

/-- R146, R193: the integer comparisons push their result. -/
def Obligations.IntegerComparisons : Prop :=
  (∀ (f : LR) (s : State) (c : Ctx), Runs s (.icmp f) (some f.gd) c → c.Readable [c.lrReg f] [] →
    ∃ t, exec (.icmp f) s = .next t ∧ c.Leaves t (c.afterReads [(c.lrReg f, f.l)] [])
      (c.pushed fun l => compares f.m.toNat (c.slot f.a.toNat l) (c.gLane (c.lrReg f) l))) ∧
  (∀ (f : LI) (s : State) (c : Ctx), Runs s (.icmpi f) none c →
    ∃ t, exec (.icmpi f) s = .next t ∧ c.Leaves t c.w0
      (c.pushed fun l => compares (field f.imm 15 12) (c.slot f.a.toNat l) ((f.imm.setWidth 12).signExtend 32))) ∧
  (∀ (f : S16) (i : Instr) (cond : Nat), (i = .ilt f ∧ cond = 2) ∨ (i = .ieq f ∧ cond = 0) → ∀ (s : State) (c : Ctx),
    Runs s i none c → c.Readable [f.g.toNat] [] →
    ∃ t, exec i s = .next t ∧ c.Leaves t (c.afterReads [(f.g.toNat, false)] [])
      (c.pushed fun l => compares cond (c.slot f.a.toNat l) (c.gLane f.g.toNat l))) ∧
  ∀ (f : LS) (s : State) (c : Ctx), Runs s (.icmps f) (some (lsGuard f)) c → c.Readable [] [f.u.toNat] →
    ∃ t, exec (.icmps f) s = .next t ∧ c.Leaves t (c.afterReads [] [f.u.toNat])
      (c.pushed fun l => compares (field f.g 3 0) (c.slot f.a.toNat l) (c.sReg f.u.toNat))

/-- R146, R193: the floating-point comparisons, where invalid is not raised or not enabled. -/
def Obligations.FpComparisons : Prop :=
  (∀ (f : LR) (s : State) (c : Ctx), Runs s (.fcmp f) (some f.gd) c → c.Readable [c.lrReg f] [] →
    c.compareFlags c.k0.ftz (c.slot f.a.toNat) (c.gLane (c.lrReg f)) &&& c.k0.excmask = 0 →
    ∃ t, exec (.fcmp f) s = .next t ∧ c.Leaves t (c.afterReads [(c.lrReg f, f.l)] [])
      (c.compared f.m.toNat c.k0.ftz (c.slot f.a.toNat) (c.gLane (c.lrReg f)))) ∧
  (∀ (f : S16) (s : State) (c : Ctx), Runs s (.flt f) none c → c.Readable [f.g.toNat] [] →
    c.compareFlags c.k0.ftz (c.slot f.a.toNat) (c.gLane f.g.toNat) &&& c.k0.excmask = 0 →
    ∃ t, exec (.flt f) s = .next t ∧ c.Leaves t (c.afterReads [(f.g.toNat, false)] [])
      (c.compared 2 c.k0.ftz (c.slot f.a.toNat) (c.gLane f.g.toNat))) ∧
  ∀ (f : LS) (s : State) (c : Ctx), Runs s (.fcmps f) (some (lsGuard f)) c → c.Readable [] [f.u.toNat] →
    c.compareFlags c.k0.ftz (c.slot f.a.toNat) (fun _ => c.sReg f.u.toNat) &&& c.k0.excmask = 0 →
    ∃ t, exec (.fcmps f) s = .next t ∧ c.Leaves t (c.afterReads [] [f.u.toNat])
      (c.compared (field f.g 3 0) c.k0.ftz (c.slot f.a.toNat) fun _ => c.sReg f.u.toNat)

/-- R147, R148: predicate arithmetic, pops, and moves between predicates and slots. -/
def Obligations.PredicateResults : Prop :=
  (∀ p ∈ predicateOps, ∀ (f : LR) (s : State) (c : Ctx), Runs s (p.1 f) (some f.gd) c →
    ∃ t, exec (p.1 f) s = .next t ∧ c.Leaves t c.w0
      (c.pushed fun l => p.2 (c.k0.pred (field f.g 2 0) l) (c.k0.pred (field f.g 5 3) l))) ∧
  (∀ (f : LR) (s : State) (c : Ctx), Runs s (.ppop f) (some f.gd) c →
    ∃ t, exec (.ppop f) s = .next t ∧ c.Leaves t c.w0 (c.withPreds fun _ p => p >>> (field f.g 2 0 + 1))) ∧
  (∀ (n : BitVec 3) (s : State) (c : Ctx), Runs s (.ppopShort n) none c →
    ∃ t, exec (.ppopShort n) s = .next t ∧ c.Leaves t c.w0 (c.withPreds fun _ p => p >>> (n.toNat + 1))) ∧
  (∀ (f : LR) (s : State) (c : Ctx), Runs s (.pmov f) (some f.gd) c →
    ∃ t, exec (.pmov f) s = .next t ∧
      c.Leaves t c.w0 (c.wrote f.d.toNat fun l => BitVec.ofNat 32 (lane 0 c.k0.preds l).toNat)) ∧
  ∀ (f : LR) (s : State) (c : Ctx), Runs s (.pstore f) (some f.gd) c →
    ∃ t, exec (.pstore f) s = .next t ∧
      c.Leaves t c.w0 (c.withPreds fun l _ => BitVec.ofNat 8 (c.slot f.a.toNat l).toNat)

/-! ## Moves and registers -/

/-- R166, R168, R169, R171, R172: moves from registers, selects, the index register and special registers. -/
def Obligations.MoveResults : Prop :=
  (∀ (f : S16) (i : Instr) (last : Bool), (i = .getShort f ∧ last = false) ∨ (i = .getl f ∧ last = true) →
    ∀ (s : State) (c : Ctx), Runs s i none c → c.Readable [f.g.toNat] [] →
    ∃ t, exec i s = .next t ∧
      c.Leaves t (c.afterReads [(f.g.toNat, last)] []) (c.wrote f.d.toNat fun l => c.gLane f.g.toNat l)) ∧
  (∀ (f : LR) (s : State) (c : Ctx), Runs s (.get f) (some f.gd) c → c.Readable [c.lrReg f] [] →
    ∃ t, exec (.get f) s = .next t ∧
      c.Leaves t (c.afterReads [(c.lrReg f, f.l)] []) (c.wrote f.d.toNat fun l => c.gLane (c.lrReg f) l)) ∧
  (∀ (f : LR) (s : State) (c : Ctx), Runs s (.sel f) none c → c.Readable [c.lrReg f] [] →
    ∃ t, exec (.sel f) s = .next t ∧ c.Leaves t (c.afterReads [(c.lrReg f, f.l)] [])
      (c.wrote f.d.toNat fun l =>
        if c.k0.pred f.gd.p.toNat l ≠ f.gd.n then c.slot f.a.toNat l else c.gLane (c.lrReg f) l)) ∧
  (∀ (f : S16) (s : State) (c : Ctx), Runs s (.selp f) none c →
    ∃ t, exec (.selp f) s = .next t ∧ c.Leaves t c.w0
      (c.wrote f.d.toNat fun l => if c.k0.pred 0 l then c.slot f.a.toNat l else c.slot f.d.toNat l)) ∧
  (∀ (f : LS) (s : State) (c : Ctx), Runs s (.sels f) none c → c.Readable [] [f.u.toNat] →
    ∃ t, exec (.sels f) s = .next t ∧ c.Leaves t (c.afterReads [] [f.u.toNat])
      (c.wrote f.d.toNat fun l => if c.k0.pred 0 l ≠ f.n then c.slot f.a.toNat l else c.sReg f.u.toNat)) ∧
  (∀ (f : LI) (s : State) (c : Ctx), Runs s (.ixset f) none c →
    ∃ t, exec (.ixset f) s = .next t ∧ c.Leaves t c.w0 { c.past with ix := BitVec.ofNat 6 f.imm.toNat }) ∧
  (∀ (f : LI) (s : State) (c : Ctx), Runs s (.ixadd f) none c →
    ∃ t, exec (.ixadd f) s = .next t ∧ c.Leaves t c.w0 { c.past with ix := c.k0.ix + BitVec.ofNat 6 f.imm.toNat }) ∧
  ∀ (f : LR) (s : State) (c : Ctx), Runs s (.srd f) (some f.gd) c →
    ∃ t, exec (.srd f) s = .next t ∧ c.Leaves t c.w0
      (if srd64 f.g.toNat then c.wrotePair f.d.toNat fun l => c.special f.g.toNat l
       else c.wrote f.d.toNat fun l => BitVec.ofNat 32 (c.special f.g.toNat l).toNat)

/-- R159 to R161, R168: PUT and PUTS publish once every reader is ready for it, and wait before. A PUT writes the lanes of
Exec in the register and fills every reader's copy; a PUTS writes the leader's slot, unless Exec is empty, and clears
every reader's Seen bit. -/
def Obligations.PublishResults : Prop :=
  (∀ (i : Instr) (g : Option Guard) (r a : Nat) (s : State) (c : Ctx),
    (∃ f : S16, i = .putShort f ∧ g = none ∧ r = f.g.toNat ∧ a = f.a.toNat) ∨
      (∃ f : LR, i = .put f ∧ g = some f.gd ∧ r = c.lrReg f ∧ a = f.a.toNat) →
    Runs s i g c → c.gFault true r = none →
    if c.canPublish r then
      ∃ t, exec i s = .next t ∧ c.Leaves t
        { c.w0 with gregs := c.w0.gregs.set r (setLanes c.exec (fun l => c.slot a l) (c.gReg r)),
                    full := c.w0.full.set r ((c.w0.full[r]?).getD 0 ||| (c.n.reg r).2) } c.past
    else ∃ t, exec i s = .next t ∧ c.Waits t (.publish r)) ∧
  ∀ (f : LR) (s : State) (c : Ctx), Runs s (.puts f) (some f.gd) c →
    let r := f.g.toNat % 32
    c.sFault true r = none →
    if c.canPublishUniform r then
      ∃ t, exec (.puts f) s = .next t ∧ c.Leaves t
        { c.w0 with sregs := (match c.leader with
                      | some l => c.w0.sregs.set r (c.slot f.a.toNat l)
                      | none => c.w0.sregs),
                    seen := c.w0.seen.set r ((c.w0.seen[r]?).getD 0 &&& ~~~(c.n.reg (64 + r)).2) } c.past
    else ∃ t, exec (.puts f) s = .next t ∧ c.Waits t (.publishUniform r)

/-- R94, R97, R99, R172, 11 R309: a write of a strand register takes the leader's slot or pair; with Exec empty it writes
nothing. -/
def Obligations.SpecialWrites : Prop :=
  ∀ (f : LR) (s : State) (c : Ctx), Runs s (.srdSet f) (some f.gd) c → ∃ t, exec (.srdSet f) s = .next t ∧
    match c.leader with
    | none => c.Leaves t c.w0 c.past
    | some l =>
      let v := c.slot f.d.toNat l
      (f.g.toNat = 0x19 → c.Leaves t c.w0 { c.past with excmask := BitVec.ofNat 5 v.toNat }) ∧
      (f.g.toNat = 0x1A → c.Leaves t c.w0 { c.past with fpflags := BitVec.ofNat 5 v.toNat }) ∧
      (f.g.toNat = 0x1B → c.Leaves t c.w0 { c.past with
        ftz := v.getLsbD 3, mode := if 1 ≤ v.toNat % 8 ∧ v.toNat % 8 ≤ 5 then BitVec.ofNat 3 v.toNat else c.k0.mode }) ∧
      (f.g.toNat = 0x1C → c.Leaves t c.w0 { c.past with
        rseed := if c.pair f.d.toNat l = 0 then 0x9E3779B97F4A7C15#64 else c.pair f.d.toNat l }) ∧
      (f.g.toNat = 0x1D → c.Leaves t c.w0 { c.past with rerr := v &&& 0xC1FFFFFF#32 })

/-! ## Control flow -/

/-- R140, R141, R144, R152 to R154: branches, and the instructions that only go on. A branch's offset counts from the branch
itself; PROG counts in its core's register; YIELD puts the strand behind all others. -/
def Obligations.ControlResults : Prop :=
  (∀ (f : LB) (s : State) (c : Ctx), Runs s (.bra f) (some f.gd) c →
    ∃ t, exec (.bra f) s = .next t ∧
      c.Leaves t c.w0 (c.jumped (fun _ => true) fun _ => c.addr + BitVec.ofInt 32 f.off.toInt)) ∧
  (∀ (o : BitVec 10) (i : Instr) (taken : Ctx → Nat → Bool),
    (i = .brs o ∧ taken = fun _ _ => true) ∨ (i = .bps o ∧ taken = fun c l => c.k0.pred 0 l) ∨
      (i = .bns o ∧ taken = fun c l => !c.k0.pred 0 l) → ∀ (s : State) (c : Ctx), Runs s i none c →
    ∃ t, exec i s = .next t ∧ c.Leaves t c.w0 (c.jumped (taken c) fun _ => c.addr + BitVec.ofInt 32 o.toInt)) ∧
  (∀ (f : LB) (s : State) (c : Ctx), Runs s (.brx f) (some f.gd) c → c.Readable [field f.off 15 10] [] →
    ∃ t, exec (.brx f) s = .next t ∧ c.Leaves t (c.afterReads [(field f.off 15 10, false)] [])
      (c.jumped (fun _ => true) fun l => c.gLane (field f.off 15 10) l)) ∧
  (∀ (i : Instr) (s : State) (c : Ctx), i = .nop ∨ (∃ m, i = .safe m) → Runs s i none c →
    ∃ t, exec i s = .next t ∧ c.Leaves t c.w0 c.past) ∧
  (∀ (sp : Safe) (s : State) (c : Ctx), Runs s (.yield sp) none c →
    ∃ t, exec (.yield sp) s = .next t ∧ c.Leaves t c.w0 { c.past with lastIssue := c.s.cycles + 1 }) ∧
  ∀ (sp : Safe) (n : BitVec 3) (s : State) (c : Ctx), Runs s (.prog sp n) none c →
    let x := coreOf c.s c.w0.core
    ∃ t, exec (.prog sp n) s = .next t ∧ c.LeavesFrom
      (setCore c.s c.w0.core { x with pcnt := x.pcnt.set n.toNat ((x.pcnt[n.toNat]?).getD 0 + 1) }) t c.w0 c.past

/-- R145, 11 R310, 09 R273, 15 R404: EXIT ends the lanes of Exec. While lanes of the strand are left, nothing more happens. When none
is left, no remote failure is recorded and no fault is held, the warp and its gang are looked after; else the gang ends by a fault
(R310, R273), for which the gang has to be there still (log entry 67: the model's reading). In a trap kernel, whose last lane this
is, EXIT waits until LD, ST and CP are 0, and, its frame in hand, ends the kernel as XRET does: the warp is restored from its frame,
and the lanes that exited in the kernel have exited in every strand. -/
def Obligations.ExitResults : Prop :=
  ∀ (i : Instr) (g : Option Guard), (i = .exitShort ∧ g = none) ∨ (∃ f, i = .exit f ∧ g = some f.gd) →
    ∀ (s : State) (c : Ctx), Runs s i g c →
    ∃ b, c.Leaves b c.w0 c.exited ∧
      (c.w0.launched &&& ~~~(c.k0.exited ||| c.exec) ≠ 0 → exec i s = .next b) ∧
      (c.w0.launched &&& ~~~(c.k0.exited ||| c.exec) = 0 → (c.k0.rerr.getLsbD 31 = true ∨ c.k0.faults ≠ []) →
        exec i s = .next (terminate b c.w0.gang 2 c.w0.uid none)) ∧
      (c.w0.launched &&& ~~~(c.k0.exited ||| c.exec) = 0 → c.k0.rerr.getLsbD 31 = false → c.k0.faults = [] →
        (c.ref.no ≠ kernelNo → exec i s = .next (settleWarp b c.ref.warp)) ∧
        (c.ref.no = kernelNo → ¬(c.k0.ld = [] ∧ c.k0.st = [] ∧ c.k0.cp = []) → c.k0.mx.length ≤ 7 →
          ∃ t, exec i s = .next t ∧ c.Waits t (.counters 0 0 0 7)) ∧
        (c.ref.no = kernelNo → c.k0.ld = [] → c.k0.st = [] → c.k0.cp = [] → c.k0.mx.length ≤ 7 →
          ∀ n v bs, c.l.nodes[c.g.node]? = some n → warpOf b c.ref.warp = some v → frameIn c.s c.l c.w0 = true →
            readFrame b c.l v = some bs →
          let w := ((v.resumed n bs b).watching (watchedBy v.formed)).exitLanes (c.k0.exited ||| c.exec)
          let t := updWarp b c.ref.warp fun _ => w
          exec i s = .next (if v.haltPending then haltKernel t c.ref.warp false bs else settleWarp t c.ref.warp)))

/-- R150, R151: WAITC goes on once every counter is at or below its bound; a bounded wait goes on once its condition holds or
its deadline, 64 cycles for each unit of the hint from its first issue, has come, and pushes whether the condition holds. -/
def Obligations.WaitResults : Prop :=
  (∀ (i : Instr) (ld st cp mx : Nat) (s : State) (c : Ctx),
    (∃ n : BitVec 6, i = .waitcLd n ∧ ld = n.toNat ∧ st = 63 ∧ cp = 15 ∧ mx = 7) ∨
      (∃ (sp : Safe) (a b : BitVec 6) (d : BitVec 4) (e : BitVec 3), i = .waitc sp a b d e ∧ ld = a.toNat ∧ st = b.toNat ∧
        cp = d.toNat ∧ mx = e.toNat) → Runs s i none c →
    if c.k0.ld.length ≤ ld ∧ c.k0.st.length ≤ st ∧ c.k0.cp.length ≤ cp ∧ c.k0.mx.length ≤ mx then
      ∃ t, exec i s = .next t ∧ c.Leaves t c.w0 (c.past.cover mx)
    else ∃ t, exec i s = .next t ∧ c.Waits t (.counters ld st cp mx)) ∧
  ∀ (i : Instr) (hint : Nat) (cond : Bool) (s : State) (c : Ctx),
    (∃ (sp : Safe) (n : BitVec 6) (cl : BitVec 2) (h : BitVec 8), i = .trywaitCtr sp n cl h ∧ hint = h.toNat ∧
        cond = decide (c.k0.count (classOf cl) ≤ n.toNat)) ∨
      (∃ (sp : Safe) (j : BitVec 6) (h : BitVec 10), i = .trywaitFull sp j h ∧ hint = h.toNat ∧
        c.gFault false j.toNat = none ∧ cond = c.w0.isFull j.toNat c.no) → Runs s i none c →
    ∃ deadline, (∀ d, c.k0.wait = some (.tryUntil d) → deadline = d) ∧
      ((∀ d, c.k0.wait ≠ some (.tryUntil d)) → deadline = c.s.cycles + 64 * hint) ∧
      if cond ∨ deadline ≤ c.s.cycles then ∃ t, exec i s = .next t ∧ c.Leaves t c.w0 (c.pushed fun _ => cond)
      else ∃ t, exec i s = .next t ∧ c.Waits t (.tryUntil deadline)

/-! ## Memory -/

/-- R284, R290, R294, 07 R216: a load whose registers may be read and whose checks pass issues as one operation counted in
LD, which will fill its slots; until LD has room it waits. -/
def Obligations.LoadsIssue : Prop :=
  ∀ (i : Instr) (a : AccessForm), loadForm i = some a → ∀ (s : State) (c : Ctx), Runs s i none c →
    c.Readable [a.g] [2 * a.sb, 2 * a.sb + 1] →
    (63 ≤ c.k0.ld.length → ∃ t, exec i s = .next t ∧ c.Waits t .counterMax) ∧
    (c.k0.ld.length < 63 → ∀ s1 ps, c.LanesReach a.size false a.tagOk (c.at_ a) s1 ps → c.Unwatched s1 0 a.size (c.at_ a) →
      ∃ t, exec i s = .next t ∧ c.Begins t s1 (c.reads a) .ld none (.load a.size a.dest a.scope (lanesWith ps fun _ => []))
        false (fun x => c.asks s1.nextId (if scopeCORE < scopeOf a.scope then .acquire else .read) a.size x.data x)
        (lanesWith ps fun _ => []))

/-- R284, R291, R294, 07 R216: a store likewise, counted in ST, with an ST queue entry and its lanes' bytes; without a scope
its writes outside the part are posted. -/
def Obligations.StoresIssue : Prop :=
  ∀ (i : Instr) (a : AccessForm), storeForm i = some a → ∀ (s : State) (c : Ctx), Runs s i none c →
    c.Readable [a.g] [2 * a.sb, 2 * a.sb + 1] → c.k0.st.length < 63 → queueGrants c.s c.w0.core .st = true →
    ∀ s1 ps, c.LanesReach a.size true a.tagOk (c.at_ a) s1 ps → c.Unwatched s1 1 a.size (c.at_ a) →
      ∃ t, exec i s = .next t ∧ c.Begins t s1 (c.reads a) .st (some .st)
        (.store a.size a.scope false (lanesWith ps (c.bytesOf a.slot a.size))) (scopeOf a.scope = 0)
        (fun x => c.asks s1.nextId .write x.data.length x.data x) (lanesWith ps (c.bytesOf a.slot a.size))

/-- R288, R289, 15 R405: LDL and STL, whose offsets all lie in the lanes' private memory, issue likewise at the lanes' own
addresses; an offset past the end traps with STACK, subcode 3, which in a trap kernel ends the gang. -/
def Obligations.PrivateAccesses : Prop :=
  ∀ (i : Instr) (f : LM) (size : Nat) (write : Bool), localForm i = some (f, size, write) → ∀ (s : State) (c : Ctx),
    Runs s i none c → c.Readable [f.g.toNat] [] →
    (if write then c.k0.st.length < 63 ∧ queueGrants c.s c.w0.core .st = true else c.k0.ld.length < 63) →
    let off (l : Nat) : Nat := (c.gLane f.g.toNat l).toNat + f.imm.toNat * size
    let va (l : Nat) : DWord := c.w0.stack + BitVec.ofNat 64 (l * c.l.privBytes) + BitVec.ofNat 64 (off l)
    let w := c.afterReads [(f.g.toNat, false)] []
    ((∀ l ∈ c.lanes, off l + size ≤ c.l.privBytes) → ∀ s1 ps, c.LanesReach size write false va s1 ps →
      ∃ t, exec i s = .next t ∧
        if write then c.Begins t s1 w .st (some .st) (.store size 0 false (lanesWith ps (c.bytesOf f.a.toNat size))) true
            (fun x => c.asks s1.nextId .write x.data.length x.data x) (lanesWith ps (c.bytesOf f.a.toNat size))
        else c.Begins t s1 w .ld none
            (.load size { slot := f.d.toNat, count := size / 4, signed := false } 0 (lanesWith ps fun _ => [])) false
            (fun x => c.asks s1.nextId .read size x.data x) (lanesWith ps fun _ => [])) ∧
    ∀ l bad, c.lanes.filter (fun l => decide (c.l.privBytes < off l + size)) = l :: bad →
      ∃ t, exec i s = .next t ∧ c.Traps t causeSTACK 3 (BitVec.ofNat 64 (off l)) (maskOfList (l :: bad))

/-- R173, R174: SPILL and FILL move one record at the base pair plus the offset, one piece a line, counted in ST and LD;
a lane that was never launched spills 0. FILL, here of a record in local memory, reads the record's format as its core sees
it now, once its home serves the line, and loads what the format needs; a format above 3 is its trap, in the lanes of Exec. That the
format is read when FILL issues, and decides its trap and what it loads, and the lanes of the trap are the model's choices
(log entries 16, 56). -/
def Obligations.SpillAndFill : Prop :=
  ∀ (f : SpillF) (s : State) (c : Ctx), c.Readable [] [2 * f.sb.toNat, 2 * f.sb.toNat + 1] →
    let va := c.sPair f.sb.toNat + BitVec.ofNat 64 (f.off.toNat * 16)
    let w := c.afterReads [] [2 * f.sb.toNat, 2 * f.sb.toNat + 1]
    (Runs s (.spill f) none c → c.k0.st.length < 63 → queueGrants c.s c.w0.core .st = true →
      let data := spillBytes (lanes64.map fun l => if c.w0.launched.getLsbD l then c.slot f.slot.toNat l else 0)
      ∀ s1 ps, c.Reaches false 16 true false (c.recordAccesses va data.length) s1 ps →
      let ls := recordPieces (c.leader.getD 0) va data.length data ps
      ∃ t, exec (.spill f) s = .next t ∧
        c.Begins t s1 w .st (some .st) (.store 16 0 false ls) true (fun x => c.asks s1.nextId .write x.data.length x.data x) ls) ∧
    (Runs s (.fill f) none c → c.k0.ld.length < 63 → (∀ id, c.k0.wait ≠ some (.value id)) →
      ∀ s0 l a pa ps0, c.Reaches false 16 false false (c.lanes.map fun l => (l, va)) s0 ((l, a, .mem pa) :: ps0) →
      olderTouches s0 c.ref s0.nextId (.mem pa) 8 false = false →
      ∀ s2, fetchLine s0 c.w0.core (readCode c.ref) (lineOf pa) evRD false = (s2, .done) →
      let r := asAnswered s2 (some c.w0.core) (readCode c.ref)
      r.mem.poisoned (lineOf pa) = false →
      let d := ({ c with w } : Ctx).onTo (dropAnswers s2 (some c.w0.core) (readCode c.ref) [lineOf pa])
      let fmt := sliceNat (coreRead r c.w0.core c.ref s2.nextId pa 1 true) 0 1
      (3 < fmt → d.w0.kernel = none →
        ∃ t a, exec (.fill f) s = .next t ∧ (c.StandsIn s2 d.w0 d.k0 → d.Trapped t causeSTACK 2 a c.exec)) ∧
      (fmt ≤ 3 → d.k0.ld.length < 63 → ∀ s1 ps, d.Reaches false 16 false false (c.recordAccesses va (fillSize fmt)) s1 ps →
        let ls := recordPieces (c.leader.getD 0) va (fillSize fmt) (zeros (fillSize fmt)) ps
        ∃ t, exec (.fill f) s = .next t ∧ (c.StandsIn s2 d.w0 d.k0 →
          d.Begins t s1 { d.w0 with full := w.full, seen := w.seen } .ld none (.fill f.slot.toNat fmt c.exec ls) false
            (fun x => c.asks s1.nextId .read x.data.length [] x) ls)))

/-- R295: PREF always completes once its registers may be read. What it asks for is asked in lane order; it raises nothing,
counts nothing and changes no register. -/
def Obligations.PrefetchCompletes : Prop :=
  ∀ (f : LM) (s : State) (c : Ctx), Runs s (.pref f) none c →
    c.Readable [f.g.toNat] [2 * f.sb.toNat, 2 * f.sb.toNat + 1] →
    let w := c.afterReads [(f.g.toNat, false)] [2 * f.sb.toNat, 2 * f.sb.toNat + 1]
    let s1 := c.lanes.foldl (fun s l => prefetch c s
      (c.sPair f.sb.toNat + (c.gLane f.g.toNat l).setWidth 64 + BitVec.ofNat 64 (f.imm.toNat * 64))) (c.readDone w)
    ∃ t, exec (.pref f) s = .next t ∧
      ∀ w1 k1, c.StandsIn s1 w1 k1 → (c.found s1 w1 k1).Leaves t w1 (c.found s1 w1 k1).past

/-! ## Buffers and racks -/

/-- R205, R212 to R216: a buffer access whose register may be read and whose checks pass issues as one operation of its
strand, counted in LD or ST, with every lane's offset, and for a store with an ST queue entry and the lanes' bytes. -/
def Obligations.BufferAccessesIssue : Prop :=
  (∀ (i : Instr) (a : BufferForm), bufferLoadForm i = some a → ∀ (s : State) (c : Ctx), Runs s i none c →
    c.Readable [a.g] [] → c.k0.ld.length < 63 → c.bufferAccepts a →
    ∃ t, exec i s = .next t ∧
      c.LeavesFrom (c.begun c.s none (.bufLoad (a.peer.getD c.w0.team) a.wbuf a.peer.isSome a.size a.slot
          (c.lanes.map fun l => (l, c.bufferAt a l)))) t
        (c.afterReads [(a.g, false)] []) (c.counted c.s.nextId .ld)) ∧
  ∀ (i : Instr) (a : BufferForm), bufferStoreForm i = some a → ∀ (s : State) (c : Ctx), Runs s i none c →
    c.Readable [a.g] [] → c.k0.st.length < 63 → queueGrants c.s c.w0.core .st = true → c.bufferAccepts a →
    ∃ t, exec i s = .next t ∧
      c.LeavesFrom (c.begun c.s (some .st) (.bufStore c.w0.team
          (c.lanes.map fun l => (c.bufferAt a l, c.wordsOf a.slot a.size l)))) t
        (c.afterReads [(a.g, false)] []) (c.counted c.s.nextId .st)

/-- R142, R143, 15 R403: CALL stores the return address at each lane's depth in its private memory, goes to its target and
deepens the lanes; RET goes to the word below the depth. Here where those words lie in local memory and no older access
of the strand is still to touch them; a depth that is full, empty or past the private memory traps with STACK, which in a trap
kernel ends the gang (R405). -/
def Obligations.CallAndReturn : Prop :=
  ∀ (f : LB) (s : State) (c : Ctx),
    (Runs s (.call f) (some f.gd) c → c.callsOver = [] →
      let data := leBytes 4 (c.addr + BitVec.ofNat 32 c.len).toNat
      ∀ s1 ps, c.LanesReach 4 true false (c.callWord id) s1 ps →
        (∀ x ∈ ps, isRemote x.2.2 = false ∧ olderTouches s1 c.ref s1.nextId x.2.2 4 true = false) →
        ∃ t, exec (.call f) s = .next t ∧
          c.LeavesFrom (({ c with s := s1 } : Ctx).storeWords data ps).s t c.w0
            (c.called (fun _ => c.addr + BitVec.ofInt 32 f.off.toInt) (· + 1))) ∧
    (Runs s (.ret f) (some f.gd) c → c.callsUnder = [] →
      ∀ s1 ps, c.LanesReach 4 false false (c.callWord (· - 1)) s1 ps →
        (∀ x ∈ ps, isRemote x.2.2 = false ∧ olderTouches s1 c.ref s1.nextId x.2.2 4 false = false) →
      let lines := linesOfLanes (lanesWith ps fun _ => [])
      ∀ s2, fetchLines s1 c.w0.core (readCode c.ref) lines = (s2, none) →
        let r := asAnswered s2 (some c.w0.core) (readCode c.ref)
        (∀ x ∈ ps, ∀ pa, x.2.2 = .mem pa → r.mem.poisoned (lineOf pa) = false) →
      ∃ t, exec (.ret f) s = .next t ∧ ∀ w1 k1, c.StandsIn s2 w1 k1 →
        let s3 := dropAnswers s2 (some c.w0.core) (readCode c.ref) lines
        let d := c.found (noteReads s3 c.ref s2.nextId ((lanesWith ps fun _ => []).filterMap wordRead)) w1 k1
        d.Leaves t { w1 with full := c.w0.full, seen := c.w0.seen }
          (d.called (wordBack ps fun pa => coreRead r c.w0.core c.ref s2.nextId pa 4 true) (· - 1))) ∧
    (∀ i ls sub, (i = .call f ∧ ls = c.callsOver ∧ sub = 0) ∨ (i = .ret f ∧ ls = c.callsUnder ∧ sub = 1) →
      Runs s i (some f.gd) c → ls ≠ [] → ∃ t a, exec i s = .next t ∧ c.Traps t causeSTACK sub a (maskOfList ls))

/-! ## Trap instructions -/

/-- R398, R403, R405, R409 to R411, R414: BKPT and TRAP trap in the lanes of Exec, with fault address 0; in a trap kernel they end
the gang. XRET in the trap kernel, once its LD, ST and CP are 0, restores the warp from its frame, and it issues again;
with a halt pending it stops for the debugger instead, and HALTACK acts as XRET then, and else only goes on. Outside the
trap kernel both raise ILLEGAL, subcode 2. R403: so do, in a trap kernel, the instructions that it may not execute, which ends
the gang (R405). -/
def Obligations.TrapInstructions : Prop :=
  (∀ (i : Instr) (cause sub : Nat) (s : State) (c : Ctx),
    (∃ sp, i = .bkpt sp ∧ cause = causeBKPT ∧ sub = 0) ∨ (∃ sp n, i = .trap sp n ∧ cause = causeSWTRAP ∧ sub = n.toNat) →
    Runs s i none c →
    (c.w0.kernel = none → ∃ t, exec i s = .next t ∧ c.Trapped t cause sub 0 c.exec) ∧
    (c.w0.kernel ≠ none → ∃ t, exec i s = .next t ∧ c.EndsGang t cause sub 0 c.exec)) ∧
  (∀ (i : Instr) (s : State) (c : Ctx), kernelForbids i = true → Runs s i none c → c.ref.no = kernelNo →
    ∃ t, exec i s = .next t ∧ c.EndsGang t causeILLEGAL 2 (c.addr.setWidth 64) c.here) ∧
  ∀ (i : Instr) (s : State) (c : Ctx), (∃ sp, i = .xret sp ∨ i = .haltack sp) → Runs s i none c →
    (c.ref.no ≠ kernelNo → c.w0.kernel = none →
      ∃ t, exec i s = .next t ∧ c.Trapped t causeILLEGAL 2 (c.addr.setWidth 64) c.here) ∧
    (c.ref.no = kernelNo → (∃ sp, i = .haltack sp) → c.w0.haltPending = false →
      ∃ t, exec i s = .next t ∧ c.Leaves t c.w0 c.past) ∧
    (c.ref.no = kernelNo → (∃ sp, i = .xret sp) ∨ c.w0.haltPending = true →
      (¬(c.k0.ld = [] ∧ c.k0.st = [] ∧ c.k0.cp = []) →
        c.k0.mx.length ≤ 7 → ∃ t, exec i s = .next t ∧ c.Waits t (.counters 0 0 0 7)) ∧
      (c.k0.ld = [] → c.k0.st = [] → c.k0.cp = [] → c.k0.mx.length ≤ 7 →
        ∀ n b, c.l.nodes[c.g.node]? = some n → frameIn c.s c.l c.w0 = true → readFrame c.s c.l c.w0 = some b →
        let w := (c.w0.resumed n b c.s).watching (watchedBy c.w0.formed)
        let t := updWarp c.s c.ref.warp fun _ => w
        exec i s = .next (if c.w0.haltPending then haltKernel t c.ref.warp false b else settleWarp t c.ref.warp)))

/-! ## The matrix engine -/

/-- R231, R239, R240, R244 to R248, R250: the synchronous tile instructions of a strand outside the trap kernel. TBIND takes the
lowest free frame of its cluster; TFREE waits for MX; the others need a binding of a type that they allow. A bound strand's
TBIND traps with MMA_FORMAT, subcode 3, and with no free frame with BUF_BOUNDS, subcode 3; an unbound strand's tile
instruction with MMA_FORMAT, subcode 0. That the lanes of these traps are Exec (log entry 56), that a line written whole drops its
mark (log entry 38), and that a read sees of the outstanding operations only what those performed have made, and a write among them
may be lost (log entry 68), are the model's choices. -/
def Obligations.TileInstructions : Prop :=
  ∀ (f : TileF) (s : State) (c : Ctx), c.ref.no ≠ kernelNo →
    (∀ (i : Instr) (cause sub : Nat), c.w0.kernel = none → Runs s i none c →
      (i = .tbind f ∧ c.k0.bind ≠ none ∧ cause = causeMMAFORMAT ∧ sub = 3) ∨
      (i = .tbind f ∧ c.k0.bind = none ∧ c.freeFrames = [] ∧ cause = causeBUFBOUNDS ∧ sub = 3) ∨
      (((∃ p ∈ tileMaps, i = p.1 f) ∨ i = .tfree f ∨ i = .tget f ∨ i = .trowred f ∨ i = .tqnt f ∨ i = .taddc f) ∧
        c.k0.bind = none ∧ cause = causeMMAFORMAT ∧ sub = 0) →
      ∃ t, exec i s = .next t ∧ c.Trapped t cause sub 0 c.exec) ∧
    (Runs s (.tbind f) none c → c.k0.bind = none → ∀ i is, c.freeFrames = i :: is →
      ∃ t, exec (.tbind f) s = .next t ∧ c.Leaves t
        (if f.code.getLsbD 1 then (c.w0.setTile c.cluster i []).clearTile c.cluster i (List.range 64) (List.range 64) else c.w0)
        { c.past with bind := some { frame := i, int := f.code.getLsbD 0 } }) ∧
    ∀ b, c.k0.bind = some b →
    (Runs s (.tfree f) none c → if c.k0.mx = [] then
        ∃ t, exec (.tfree f) s = .next t ∧ c.Leaves t c.w0 { c.past with bind := none, acts := [], tileBase := [] }
      else ∃ t, exec (.tfree f) s = .next t ∧ c.Waits t (.counters 63 63 15 0)) ∧
    (∀ p ∈ tileMaps, Runs s (p.1 f) none c → p.2.1 f b.int = true →
      ∃ t, exec (p.1 f) s = .next t ∧ c.MapsTile t c.w0 b f (p.2.2 c f b.int)) ∧
    (Runs s (.taddc f) none c → 64 * f.woff.toNat + 4 * (f.c0.toNat + f.ncm1.toNat + 1) ≤ c.bufLimit true →
      ∃ t, exec (.taddc f) s = .next t ∧ c.MapsTile t c.w0 b f fun _ j e =>
        if b.int then (e + c.wWord (64 * f.woff.toNat + 4 * j)) % 2 ^ 32 else add32 e (c.wWord (64 * f.woff.toNat + 4 * j))) ∧
    (Runs s (.tscl f) none c → c.Readable [] [f.s.toNat] → b.int = false →
      ∃ t, exec (.tscl f) s = .next t ∧
        c.MapsTile t (c.afterReads [] [f.s.toNat]) b f fun _ _ e => mul32 e (c.sReg f.s.toNat).toNat) ∧
    (Runs s (.tget f) none c → ∃ t e, exec (.tget f) s = .next t ∧ c.SeesTile b e ∧
      c.Leaves t c.w0 (c.wrote f.d.toNat fun r => BitVec.ofNat 32 (e r f.c0.toNat))) ∧
    (Runs s (.trowred f) none c → (b.int = decide (3 ≤ f.code.toNat)) →
      ∃ t e, exec (.trowred f) s = .next t ∧ c.SeesTile b e ∧
        c.Leaves t c.w0 (c.wrote f.d.toNat fun r => BitVec.ofNat 32
          (((columnsOf f).tail).foldl (fun a j => reduceStep f.code.toNat a (e r j)) (e r f.c0.toNat)))) ∧
    (Runs s (.tqnt f) none c → b.int = false → let s1 := performBuffers c.s c.ref
      ∀ tm, (gangOf s1 c.g.uid).bind (fun g => teamOf g c.w0) = some tm →
      (∀ r ∈ c.lanes, (c.slot f.a.toNat r).toNat % 64 = 0 ∧
        (c.slot f.a.toNat r).toNat + (if f.code.toNat < 2 then 128 else 64) ≤ c.bufLimit false) →
      ∃ t e, exec (.tqnt f) s = .next t ∧ c.SeesTile b e ∧
        let q := tqntRows f.code.toNat (c.rounding f.rm.toNat) e (fun r => (c.slot f.a.toNat r).toNat) c.lanes tm.a c.k0.rseed
        c.LeavesFrom (updTeam s1 c.g.uid c.w0.team fun x => { x with a := q.1 }) t c.w0 { c.past with rseed := q.2 })

/-- R237, R242, R243, R249: an engine operation whose checks pass issues, counted in MX, with an MX queue entry and its place in
the sequence on the strand's tile. MMA takes the lane for its row's index, MMAG slot a; both keep their operands' tags
and bytes as they are at issue. TLD asks at once for what lies outside the part; TST's checks are made by address. -/
def Obligations.EngineOperations : Prop :=
  (∀ (f : MmaF) (i : Instr) (s : State) (c : Ctx) (idx : Nat → Nat),
    (i = .mma f ∧ idx = id) ∨ (i = .mmag f ∧ idx = fun r => (c.slot f.a.toNat r).toNat) → Runs s i none c →
    c.ref.no ≠ kernelNo → c.k0.mx.length < 7 → queueGrants c.s c.w0.core .mx = true → c.Readable [] [f.s.toNat] →
    ∀ b tm, c.k0.bind = some b → b.int = decide (f.fa.toNat = 7) → c.team = some tm → c.MmaPasses f idx tm →
    ∃ t, exec i s = .next t ∧
      c.LeavesFrom (c.begun c.s (some .mx) (.mma f
          (c.lanes.map fun r => (r, 64 * (descOff (c.sReg f.s.toNat) + descPitch (c.sReg f.s.toNat) * idx r)))
          (pairsOfLines (columnLines f tm)) (pairsOfLines (c.lanes.flatMap (c.rowLines f idx tm))) tm.a tm.w)) t
        (c.afterReads [] [f.s.toNat]) (c.engaged b c.s.nextId)) ∧
  ∀ (f : TileF) (i : Instr) (write : Bool) (size : Nat) (s : State) (c : Ctx) (b : TileBind),
    (i = .tld f ∧ write = false ∧ size = 4) ∨
      (i = .tst f ∧ write = true ∧ size = (if f.code = 0 then 4 else 2) ∧ (f.code = 0 ∨ b.int = false)) →
    Runs s i none c → c.ref.no ≠ kernelNo → c.k0.mx.length < 7 → queueGrants c.s c.w0.core .mx = true → c.k0.bind = some b →
    ∀ s1 ps, c.Reaches true size write false (c.lanes.flatMap fun r => (List.range (f.ncm1.toNat + 1)).map fun n =>
        (r, c.pair f.a.toNat r + BitVec.ofNat 64 (size * n))) s1 ps →
      let ls := tileLanes f.c0.toNat (f.ncm1.toNat + 1) ps
      ∃ t u, exec i s = .next t ∧
        c.LeavesFrom (c.begun s1 (some .mx) (if write then .tileStore f.c0.toNat size f.code.toNat ls else
          .tileLoad f.c0.toNat ls)) u c.w0 (c.engaged b s1.nextId) ∧
        t = if write ∨ ls.all (fun a => !isRemote a.target) then u
          else sendLanes u c.tenant s1.nextId false (fun x => c.asks s1.nextId .read size [] x) ls

/-! ## Copies -/

/-- R251, R252, R271: a copy whose checks at issue pass is queued, counted in CP, with a CP queue entry; its rack slot moves on;
CPYX and CPYQ that round stochastically draw. CPYL to or from a buffer lies in the allocation. -/
def Obligations.CopiesIssue : Prop :=
  ∀ p ∈ copyForms, ∀ (f : CopyF) (s : State) (c : Ctx) (lead : Nat), Runs s (p.1 f) none c → c.leader = some lead →
    (f.rk = true → c.ref.no ≠ kernelNo) → c.k0.cp.length < 15 → queueGrants c.s c.w0.core .cp = true →
    c.Readable (copyReads f p.2) (copyUniforms f p.2) →
    ∀ s1 j off, c.TakesSlot f lead s1 j off → (f.cw = true → (c.sPair f.cb.toNat).toNat % 8 = 0) →
    (p.2 = 0 → f.dir ≠ 2 → (c.slot (if f.dir = 0 then 2 else 0) lead).toNat + off + (c.sReg (2 * f.sb.toNat)).toNat ≤
      c.bufLimit (!f.buf)) →
    ∃ t, exec (p.1 f) s = .next t ∧
      c.LeavesFrom (c.begun s1 (some .cp) (.copy (c.copyJob f p.2 lead j))) t
        (c.afterReads ((copyReads f p.2).map fun r => (r, false)) (copyUniforms f p.2))
        { c.counted c.s.nextId .cp with rseed := if c.copyDraws f p.2 then rngStep c.k0.rseed else c.k0.rseed }

/-! ## Ordering -/

/-- R300, R301, R303, R310: REL waits until its release holds; one at NEAR or wider that finds a remote failure recorded traps
with it, V and MULT of the record cleared; else it publishes its pins and goes on. ACQ waits until its acquire holds, and
drops leased copies. FENCE does both. That a release and an acquire wait for every pending store of the core is the model's
reading (log entry 26). -/
def Obligations.FenceResults : Prop :=
  ∀ (sp : Safe) (scope : BitVec 3) (s : State) (c : Ctx),
    let n := scope.toNat
    let d := c.afterRelease n
    (∀ i, i = .rel sp scope ∨ i = .fence sp scope → Runs s i none c →
      (releaseHolds c.s c.w0.core c.ref c.k0 n = false → ∃ t, exec i s = .next t ∧ c.Waits t (.released n)) ∧
      (releaseHolds c.s c.w0.core c.ref c.k0 n = true → scopeNEAR ≤ n → rerrV c.k0.rerr = true → c.w0.kernel = none →
        ∃ t w r k, exec i s = .next t ∧ warpOf t c.ref.warp = some w ∧ w.mode = .stopping r ∧ r.cause = causeREMOTE ∧
          r.sub = field c.k0.rerr 15 8 ∧ r.addr = c.k0.rerrAddr ∧ r.name = c.k0.rerrName ∧ r.lanes = c.exec ∧
          w.strandAt c.ref.no = some k ∧ k.rerr = c.k0.rerr &&& 0x3FFFFFFF#32)) ∧
    (Runs s (.rel sp scope) none c → c.CanRelease n →
      ∃ t, exec (.rel sp scope) s = .next t ∧ (c.StandsIn d.s d.w0 d.k0 → d.Leaves t d.w0 d.past)) ∧
    (Runs s (.acq sp scope) none c →
      if acquireHolds c.s c.w0.core c.ref c.k0 n = true then
        ∃ t, exec (.acq sp scope) s = .next t ∧ c.LeavesFrom (c.afterAcquire n) t c.w0 c.past
      else ∃ t, exec (.acq sp scope) s = .next t ∧ c.Waits t (.acquired n)) ∧
    (Runs s (.fence sp scope) none c → c.CanRelease n →
      ∃ t, exec (.fence sp scope) s = .next t ∧ (c.StandsIn d.s d.w0 d.k0 →
        if acquireHolds d.s d.w0.core d.ref d.k0 n = true then d.LeavesFrom (d.afterAcquire n) t d.w0 d.past
        else d.Waits t (.acquired n)))

/-- R303, R304, R311, R312: REL of a word releases and then stores; ACQ of a word loads, and once the values are in place
acquires and retires; FLUSH and INV, once a release at YARD or their wider scope holds, what the strand has posted is
acknowledged and every page of the range may be read, flush the lines of the range, from the one on at which a home held or
refused them, INV then dropping their clean copies. That an acquire waits for every pending store of the core is the model's
reading (log entry 26). -/
def Obligations.WordsAndLines : Prop :=
  (∀ (f : SyncF) (s : State) (c : Ctx),
    let size := if f.size then 8 else 4
    let n := f.scope.toNat
    let va (l : Nat) : DWord := c.sPair f.sb.toNat + (c.gLane f.g.toNat l).setWidth 64 + BitVec.ofNat 64 f.off.toNat
    let w := c.afterReads [(f.g.toNat, false)] [2 * f.sb.toNat, 2 * f.sb.toNat + 1]
    let read := c.Readable [f.g.toNat] [2 * f.sb.toNat, 2 * f.sb.toNat + 1]
    (Runs s (.relWord f) none c → read → c.k0.st.length < 63 → queueGrants c.s c.w0.core .st = true →
      ∀ s1 ps, c.LanesReach size true false va s1 ps → c.Unwatched s1 1 size va →
      ({ c with s := s1, w } : Ctx).CanRelease n →
      let d := ({ c with s := s1, w } : Ctx).afterRelease n
      let ls := lanesWith ps (c.bytesOf f.slot.toNat size)
      ∃ t, exec (.relWord f) s = .next t ∧ (c.StandsIn d.s d.w0 d.k0 →
        d.Begins t d.s d.w .st (some .st) (.store size n true ls) false (fun x => d.asks d.s.nextId .release size x.data x) ls)) ∧
    (Runs s (.acqWord f) none c → (∀ id slot old, c.k0.wait ≠ some (.values id slot old)) → read →
      acquireHolds c.s c.w0.core c.ref c.k0 n = true →
      ∀ s1 ps, c.LanesReach size false false va s1 ps → c.Unwatched s1 0 size va →
      let ls := lanesWith ps fun _ => []
      ∃ t u, exec (.acqWord f) s = .next t ∧
        c.LeavesFrom (c.begun s1 none (.load size { slot := f.slot.toNat, count := size / 4, signed := false } (8 + n) ls)) u w
          { c.k0 with wait := some (.values s1.nextId f.slot.toNat ((c.k0.slots.drop f.slot.toNat).take (size / 4)))
                      waitSince := c.s.cycles } ∧
        t = if ls.all fun a => !isRemote a.target then u
          else sendLanes u c.tenant s1.nextId false
            (fun x => c.asks s1.nextId (if scopeCORE < n then .acquire else .read) size [] x) ls) ∧
    ∀ id slot old, Runs s (.acqWord f) none c → c.k0.wait = some (.values id slot old) →
      if acquireHolds c.s c.w0.core c.ref c.k0 n = true then
        ∃ t, exec (.acqWord f) s = .next t ∧ c.LeavesFrom (c.afterAcquire n) t c.w0 c.past
      else ∃ t, exec (.acqWord f) s = .next t ∧ c.Waits t (.values id slot old)) ∧
  ∀ (f : FlushF) (i : Instr) (drop : Bool) (s : State) (c : Ctx),
    (i = .flush f ∧ drop = false) ∨ (i = .inv f ∧ drop = true) → Runs s i none c →
    let n := f.scope.toNat
    let base := (c.sPair f.sb.toNat).toNat
    let size := (c.sReg f.s.toNat).toNat
    let r : AccessReq := { size := 64, write := false, tagOk := false, priv := c.l.privileged }
    ∀ w s1 todo lines,
    ((∀ held left all base, c.k0.wait ≠ some (.walk held left all base)) ∧ c.Readable [] [2 * f.sb.toNat, 2 * f.sb.toNat + 1, f.s.toNat] ∧
        w = c.afterReads [] [2 * f.sb.toNat, 2 * f.sb.toNat + 1, f.s.toNat] ∧
        checkPages c.s c.w0.core c.tenant r (pageStarts base size) = (s1, none) ∧
        releaseHolds s1 c.w0.core c.ref c.k0 (max n scopeYARD) = true ∧ ownPosted s1 c.ref = false ∧
        lines = linePlaces s1 c.tenant r base size ∧ todo = lines) ∨
      (w = c.w0 ∧ ∃ held left base, c.k0.wait = some (.walk held left lines base) ∧
        if held = true then walkHeld c.s (readCode c.ref) left = false ∧
          (match walkAnswer c.s c.w0.core (readCode c.ref) left with
           | some a => a.error = none ∧ todo = left.drop 1 ∧ s1 = dropAnswers c.s (some c.w0.core) (readCode c.ref) [a.line]
           | none => todo = left ∧ s1 = c.s)
        else todo = left ∧ s1 = c.s) →
    ∀ s2 w2 k2, flushLines s1 c.w0.core c.tenant (readCode c.ref) n todo = (s2, .done, []) → c.StandsIn s2 w2 k2 →
    let s3 := ({ c.found s2 w2 k2 with w := { w2 with full := w.full, seen := w.seen } } : Ctx).commit
    let s3 := if drop then lines.foldl (fun s t => invLine s c.w0.core n t) s3 else s3
    ∃ t, exec i s = .next t ∧ ∀ w1 k1, c.StandsIn s3 w1 k1 → (c.found s3 w1 k1).Leaves t w1 (c.found s3 w1 k1).past

/-- R313, R314, R318: an atomic whose checks pass, with a releasing one's release made, issues as one operation counted in LD, or
RED in ST, with an ST queue entry and every lane's operands; an acquiring one has its strand wait for its end. What lies
outside the part is asked for. -/
def Obligations.AtomicsIssue : Prop :=
  ∀ p ∈ atomForms, ∀ (f : AtomF) (s : State) (c : Ctx), Runs s (p.1 f) none c →
    c.Readable [f.g.toNat] [2 * f.sb.toNat, 2 * f.sb.toNat + 1] →
    let cl : CounterClass := if p.2 then .ld else .st
    (c.k0.counter cl).length < 63 → queueGrants c.s c.w0.core .st = true →
    let n := atomBytes f.ty.toNat
    let va (l : Nat) : DWord := c.sPair f.sb.toNat + (c.gLane f.g.toNat l).setWidth 64 + BitVec.ofNat 64 f.off.toNat
    ∀ s1 ps, c.LanesReach n true false va s1 ps → c.Unwatched s1 2 n va →
    let c1 : Ctx := { c with s := s1, w := c.afterReads [(f.g.toNat, false)] [2 * f.sb.toNat, 2 * f.sb.toNat + 1] }
    (f.sem.getLsbD 1 = true → c1.CanRelease f.scope.toNat) →
    let d := if f.sem.getLsbD 1 then c1.afterRelease f.scope.toNat else c1
    let k := d.counted d.s.nextId cl
    ∃ t u, exec (p.1 f) s = .next t ∧ (c.StandsIn d.s d.w0 d.k0 →
        d.LeavesFrom (d.begun d.s (some .st) (.atomic f p.2 (c.atomicLanes f ps))) u d.w
          (if f.sem.getLsbD 0 then { k with wait := some (.acquired f.scope.toNat), waitSince := d.s.cycles } else k)) ∧
      t = sendGroups u c.tenant d.s.nextId ∧
      ((∀ x ∈ ps, isRemote x.2.2 = false) → (∀ o ∈ d.s.ops, o.id ≠ d.s.nextId) → t = u)

/-! ## Racks and rendezvous -/

/-- R217 to R221, R224: the rack instructions of a strand outside the trap kernel, on a rack of its team. RKINIT empties the
rack; RKACQ and RKAWAIT wait for a Free or a Filled slot, take it, and write its offset and the status word; RKPUB and
RKREL give up a slot of theirs, and RKREL.skip passes a slot over, once the strand's ST counter, and for the two LD too, is 0. -/
def Obligations.RackInstructions : Prop :=
  ∀ (q : Nat) (r : Rack) (s : State) (c : Ctx), c.ref.no ≠ kernelNo → c.HasRack q r →
    (∀ f : RackInitF, f.rack.toNat = q → Runs s (.rkinit f) none c →
      64 * f.base.toNat + (f.count.toNat + 1) * (64 * (f.size.toNat + 1)) ≤ c.bufLimit false →
      (r.init = true → ∀ j < r.n, ∀ x, r.slots[j]? = some x → x.1 = .free) →
      ∃ t, exec (.rkinit f) s = .next t ∧ c.LeavesFrom (c.withRackSet q
        { init := true, base := f.base, size := f.size, count := f.count, pcur := 0, ccur := 0, ahead := 0, pseq := 0,
          cseq := 0, slots := List.replicate 16 (.free, 0) }) t c.w0 c.past) ∧
    (r.init = true → ∀ f : RackF, f.rack.toNat = q →
      let status (r' : Rack) (seq : BitVec 16) (j : Nat) : Word :=
        BitVec.ofNat 32 (65536 * seq.toNat + 4096 * j + 32 * r'.countOf .filled + r'.countOf .free)
      let took (r' : Rack) (seq : BitVec 16) (j : Nat) : Strand :=
        c.wrotePair f.d.toNat fun _ => DWord.ofPair (BitVec.ofNat 32 (r.offset j)) (status r' seq j)
      let named := field (c.slot f.a.toNat (c.leader.getD 0)) 15 12
      let passed := { r with ccur := (r.ccur + 1) % r.n, ahead := r.ahead - 1, cseq := r.cseq + 1 }
      let holds (st : RackSlot) (x : RackSlot × BitVec 8) : Prop := x = (st, c.owner)
      (Runs s (.rkacq f) none c →
        let r' := { r.setSlot r.pcur .held c.owner with pcur := (r.pcur + 1) % r.n, ahead := r.ahead + 1, pseq := r.pseq + 1 }
        if (r.slot r.pcur).1 = .free then
          ∃ t, exec (.rkacq f) s = .next t ∧ c.LeavesFrom (c.withRackSet q r') t c.w0 (took r' r.pseq r.pcur)
        else ∃ t, exec (.rkacq f) s = .next t ∧ c.Waits t (.rackAcquire q)) ∧
      (Runs s (.rkawait f) none c →
        let r' := { r.setSlot r.ccur .taken c.owner with ccur := (r.ccur + 1) % r.n, ahead := r.ahead - 1, cseq := r.cseq + 1 }
        if 0 < r.ahead ∧ (r.slot r.ccur).1 = .filled then
          ∃ t, exec (.rkawait f) s = .next t ∧ c.LeavesFrom (c.withRackSet q r') t c.w0 (took r' r.cseq r.ccur)
        else ∃ t, exec (.rkawait f) s = .next t ∧ c.Waits t (.rackAwait q)) ∧
      (Runs s (.rkpub f) none c → c.k0.st ≠ [] → ∃ t, exec (.rkpub f) s = .next t ∧ c.Waits t (.counters 63 0 15 7)) ∧
      (∀ i, i = .rkrel f ∨ i = .rkrelSkip f → Runs s i none c → ¬(c.k0.ld = [] ∧ c.k0.st = []) →
        ∃ t, exec i s = .next t ∧ c.Waits t (.counters 0 0 15 7)) ∧
      (Runs s (.rkpub f) none c → c.k0.st = [] → named < r.n → ∀ st, (holds .held (r.slot named) ∧ st = .filled) ∨
          (holds .droppedHeld (r.slot named) ∧ st = .free) →
        ∃ t, exec (.rkpub f) s = .next t ∧ c.LeavesFrom (c.withRackSet q (r.setSlot named st 0)) t c.w0 c.past) ∧
      (Runs s (.rkrel f) none c → c.k0.ld = [] → c.k0.st = [] → named < r.n → holds .taken (r.slot named) →
        ∃ t, exec (.rkrel f) s = .next t ∧ c.LeavesFrom (c.withRackSet q (r.setSlot named .free 0)) t c.w0 c.past) ∧
      (Runs s (.rkrelSkip f) none c → c.k0.ld = [] → c.k0.st = [] → 0 < r.ahead →
        ∃ t, exec (.rkrelSkip f) s = .next t ∧ c.LeavesFrom (c.withRackSet q { passed with slots :=
          (match (r.slot r.ccur).1 with
           | .filled => r.setSlot r.ccur .free 0
           | .held => r.setSlot r.ccur .droppedHeld (r.slot r.ccur).2
           | .pending => r.setSlot r.ccur .droppedPending (r.slot r.ccur).2
           | _ => r).slots }) t c.w0 c.past))

/-- R320, R321: the rendezvous instructions of a strand outside the trap kernel, on a point of its team. RVINIT starts the point
and clears its team's arrivals; RVARR arrives once its release holds; RVWAIT waits until the phase has passed; RVAW arrives
once its release holds, and waits. A point that is not there, one not initialised, and an RVINIT of one in use trap with RV,
subcodes 0, 1 and 2, at the point's number; that the lanes are Exec is the model's choice (log entry 56). 04 R151: the
bounded waits on a rack and on a point push whether their condition holds. -/
def Obligations.RendezvousInstructions : Prop :=
  (∀ (f : RvF) (p : Point) (s : State) (c : Ctx), c.ref.no ≠ kernelNo → c.HasPoint f.pt.toNat p →
    let pt := f.pt.toNat
    let p' := arrivedPoint p
    (Runs s (.rvinit f) none c →
      (p.init = true → p.pending = p.expected ∧ ∀ w ∈ c.s.warps, c.ofTeam w = true → ∀ k ∈ w.strands, waitsOn k pt = false) →
      let s0 := c.withPointSet pt { init := true, expected := f.cnt.toNat + 1, pending := f.cnt.toNat + 1, phase := 0 }
      let d := c.found { s0 with warps := s0.warps.map fun w => if c.ofTeam w then w.unarrived pt else w }
        (c.w0.unarrived pt) (c.k0.unarrived pt)
      ∃ t, exec (.rvinit f) s = .next t ∧ d.Leaves t d.w0 d.past) ∧
    (p.init = true →
      (Runs s (.rvarr f) none c →
        if c.k0.ld = [] ∧ c.k0.st = [] ∧ ownAtomics c.s c.ref = false then
          ∃ t, exec (.rvarr f) s = .next t ∧ c.LeavesFrom (c.withPointSet pt p') t c.w0 (c.arrives f p c.past)
        else ∃ t, exec (.rvarr f) s = .next t ∧ c.Waits t (.released scopeCORE)) ∧
      (∀ i, i = .rvwait f ∨ (i = .rvaw f ∧ c.k0.arrivedAt = some c.addr) → Runs s i none c →
        (pointPassed c.k0 pt p = true → c.k0.ld = [] → ∃ t, exec i s = .next t ∧ c.Leaves t c.w0 c.past) ∧
        (pointPassed c.k0 pt p = true → c.k0.ld ≠ [] → ∃ t, exec i s = .next t ∧ c.Waits t (.acquired scopeCORE)) ∧
        (pointPassed c.k0 pt p = false → ∀ n, c.k0.arrival pt = some n →
          ∃ t, exec i s = .next t ∧ c.Waits t (.rendezvous pt n))) ∧
      (Runs s (.rvaw f) none c → c.k0.arrivedAt ≠ some c.addr →
        ¬(c.k0.ld = [] ∧ c.k0.st = [] ∧ ownAtomics c.s c.ref = false) →
        ∃ t, exec (.rvaw f) s = .next t ∧ c.Waits t (.released scopeCORE)) ∧
      (Runs s (.rvaw f) none c → c.k0.arrivedAt ≠ some c.addr →
        c.k0.ld = [] → c.k0.st = [] → ownAtomics c.s c.ref = false →
        ∃ t, exec (.rvaw f) s = .next t ∧ c.LeavesFrom (c.withPointSet pt p') t c.w0
          (if p'.phase ≠ p.phase then c.arrives f p c.past
           else { c.arrives f p c.k0 with arrivedAt := some c.addr, waitSince := c.s.cycles,
                                          wait := some (.rendezvous pt p.phase.toNat) })))) ∧
  (∀ (f : RvF) (i : Instr) (s : State) (c : Ctx), i ∈ ([.rvinit f, .rvarr f, .rvwait f, .rvaw f] : List Instr) →
    c.ref.no ≠ kernelNo → c.w0.kernel = none → Runs s i none c →
    let traps (sub : Nat) : Prop := ∃ t, exec i s = .next t ∧ c.Trapped t causeRV sub (BitVec.ofNat 64 f.pt.toNat) c.exec
    (∀ tm, c.team = some tm → tm.points[f.pt.toNat]? = none → traps 0) ∧
    ∀ p, c.HasPoint f.pt.toNat p →
      (p.init = false → i ≠ .rvinit f → traps 1) ∧
      (p.init = true → i = .rvinit f → (p.pending ≠ p.expected ∨ ∃ w ∈ c.s.warps, c.ofTeam w = true ∧
        ∃ k ∈ w.strands, waitsOn k f.pt.toNat = true) → traps 2)) ∧
  ∀ (sp : Safe) (j : BitVec 6) (h : BitVec 10) (i : Instr) (cond : Bool) (s : State) (c : Ctx),
    (∃ r, c.HasRack j.toNat r ∧ r.init = true ∧
      ((i = .trywaitRackfill sp j h ∧ cond = (decide (0 < r.ahead) && (r.slot r.ccur).1 == .filled)) ∨
       (i = .trywaitRackfree sp j h ∧ cond = ((r.slot r.pcur).1 == .free)))) ∨
    (∃ t p, c.team = some t ∧ t.points[j.toNat]? = some p ∧ p.init = true ∧ i = .trywaitPhase sp j h ∧
      cond = pointPassed c.k0 j.toNat p) → Runs s i none c →
    ∃ deadline, (∀ d, c.k0.wait = some (.tryUntil d) → deadline = d) ∧
      ((∀ d, c.k0.wait ≠ some (.tryUntil d)) → deadline = c.s.cycles + 64 * h.toNat) ∧
      if cond ∨ deadline ≤ c.s.cycles then ∃ t, exec i s = .next t ∧ c.Leaves t c.w0 (c.pushed fun _ => cond)
      else ∃ t, exec i s = .next t ∧ c.Waits t (.tryUntil deadline)

/-! ## Records, events, crumbs and control registers -/

/-- R363, R365, R369, R372, 16 R431, 15 R418: EMITA, once the record unit grants it, allocates a record for each lane, or one, and
writes their addresses; until then it waits in its die's line. EMITC, after its release, commits its lanes' records in lane
order; EVSET, after its, sets its bit. TRACE leaves crumbs. CSRW reads and writes a control register of its core, for
privileged launches, and raises PRIV in others. Which free cells a grant takes is the model's choice: the lowest that fit
(log entry 11). -/
def Obligations.NodeInstructions : Prop :=
  ∀ (s : State) (c : Ctx),
    (∀ (f : EmitaF), Runs s (.emita f) none c → c.ref.no ≠ kernelNo → ∀ n, c.l.nodes[f.node.toNat]? = some n →
      areaEnabled (tenantOf c.s c.tenant).rareaBase = true → (∀ l ∈ c.emitLanes f.one, c.emitDepth l ≤ n.maxDepth) →
      let die := dieOfCore c.w0.core
      let stands := (emitLine c.s die).any (·.1 == c.ref)
      (stands = true ∨ queueGrants c.s c.w0.core .em = true) → c.exec ≠ 0 →
      match grantFor c.s die c.ref c.tenant n.cells (c.emitLanes f.one).length with
      | some us => ∃ t, exec (.emita f) s = .next t ∧
          c.LeavesFrom (c.afterGrant f us) t c.w0 (c.wrotePair f.d.toNat (c.recordFor f us))
      | none => ∃ t, exec (.emita f) s = .next t ∧ c.LeavesFrom (if stands then c.s else
            setDie c.s die { dieOf c.s die with emitting := emitLine c.s die ++ [(c.ref, true)] }) t c.w0
          { c.k0 with wait := some .records, waitSince := c.k0.waitsFrom .records c.s.cycles }) ∧
    (∀ (f : EmitcF), Runs s (.emitc f) none c → c.ref.no ≠ kernelNo →
      (∀ l ∈ c.emitLanes f.one, ∃ x ∈ c.g.allocs, x.addr = c.pair f.a.toNat l ∧ x.committed = false) →
      (∀ l ∈ c.emitLanes f.one, ∀ m ∈ c.emitLanes f.one, m < l → c.pair f.a.toNat m ≠ c.pair f.a.toNat l) →
      (c.k0.em.isSome ∨ queueGrants c.s c.w0.core .em = true) → c.CanRelease scopePKG →
      let d := c.withEm.afterRelease scopePKG
      ∃ t, exec (.emitc f) s = .next t ∧ ∀ k, c.StandsIn d.s d.w0 k → d.LeavesFrom
        ((c.emitLanes f.one).foldl (fun s l => commitRecord s c.l.uid c.g.uid (dieOfCore d.w0.core) (d.pair f.a.toNat l)) d.s) t
        d.w0 d.past) ∧
    (∀ (f : EvsetF) (l : Nat), Runs s (.evset f) none c → c.leader = some l →
      (c.k0.em.isSome ∨ queueGrants c.s c.w0.core .em = true) → c.CanRelease f.scope.toNat →
      let d := c.withEm.afterRelease f.scope.toNat
      ∃ t, exec (.evset f) s = .next t ∧ ∀ k, c.StandsIn d.s d.w0 k → d.LeavesFrom
        (setEventBit d.s c.tenant (if f.ind then (d.slot f.a.toNat l).toNat % 256 else f.bit.toNat)) t d.w0 d.past) ∧
    (∀ (f : TraceF), Runs s (.trace f) none c →
      ∃ t, exec (.trace f) s = .next t ∧ c.LeavesFrom
        ((if f.all then c.lanes else c.lanes.take 1).foldl (fun s l =>
          crumb s c.l c.g c.w0.team c.w0.num (c.ref.no == kernelNo) (dieOfCore c.w0.core) l c.no 0 f.mark.toNat
            (if f.v then (c.slot f.a.toNat l).toNat else 0)) c.s) t c.w0 c.past) ∧
    ∀ (f : CsrwF), Runs s (.csrw f) none c →
      (c.l.privileged = true → ∀ l, c.leader = some l →
        let x := coreOf c.s c.w0.core
        ∃ t, exec (.csrw f) s = .next t ∧ c.LeavesFrom
          (if f.w then setCore c.s c.w0.core (x.setCsr f.csr.toNat (c.slot f.a.toNat l)) else c.s) t c.w0
          (if f.r then c.wrote f.d.toNat fun _ => x.csr f.csr.toNat else c.past)) ∧
      (c.l.privileged = false → ∃ t, exec (.csrw f) s = .next t ∧ c.Traps t causePRIV 0 (c.addr.setWidth 64) c.here)

/-! ## Front-end processors -/

/-- R392 to R394: the Xbrod instructions of a processor in machine mode; outside it they are illegal. Field extraction and
insertion check their field; SIGWAIT takes the signals that pend, or waits; QFETCH, DISPATCH, QSAVE and QLOAD act on the
packet buffer and the queue slots of the processor's die; EVPOST sets an event bit; a write of XFREE frees an entry, a
read of XPKTQ takes the oldest entry handed over, and XTIMER signals when its time has come. That QFETCH reads with privilege
(log entry 41), that QLOAD finds its queue by its block's address and waits until the block is settled (log entry 37), and what an
exception does to the processor (log entry 8) are the model's choices. -/
def Obligations.FrontEndInstructions : Prop :=
  (∀ (f : XbrodF) (s : State) (n : Nat) (x : FrontEnd), FeRuns s n x →
    let die := feDie n
    let pos := (x.x f.rs2).toNat % 64
    let len := (x.x f.rs2).toNat / 256 % 128
    let v := bitsOf (x.x f.rs1) pos len
    let slot := (x.x f.rs1).toNat
    let fault (code : Nat) : FrontEnd := x.takeException 24 (BitVec.ofNat 64 code)
    (∀ i, i = .xbrodBfx f ∨ i = .xbrodBfxS f ∨ i = .xbrodBfi f → len = 0 ∨ 64 < pos + len →
      exec i s = .next (setFe s n (fault 4))) ∧
    (len ≠ 0 → pos + len ≤ 64 →
      exec (.xbrodBfx f) s = .next (setFe s n (x.past f.rd (BitVec.ofNat 64 v))) ∧
      exec (.xbrodBfxS f) s = .next (setFe s n (x.past f.rd
        (if v < 2 ^ (len - 1) then BitVec.ofNat 64 v else BitVec.ofInt 64 (v - 2 ^ len)))) ∧
      ∃ u : DWord, exec (.xbrodBfi f) s = .next (setFe s n (x.past f.rd u)) ∧ ∀ i < 64, u.getLsbD i =
        if pos ≤ i ∧ i < pos + len then (x.x f.rs1).getLsbD (i - pos) else (x.x f.rd).getLsbD i) ∧
    ((x.x f.rs1).toNat < 16 →
      let got := x.signals &&& BitVec.ofNat 4 (x.x f.rs1).toNat
      exec (.sigwait f) s = .next (setFe s n (if got = 0 then { x with waiting := some f }
        else { x.past f.rd (BitVec.ofNat 64 got.toNat) with signals := x.signals &&& ~~~got }))) ∧
    (∀ i s' bs, (x.x f.rs2).toNat % 128 = 0 → freeEntry s die = some i →
      unitRead s ((x.x f.rs1).toNat % 64) true 7 (x.x f.rs2).toNat 128 1 = .ok s' bs →
      ∃ t, exec (.qfetch f) s = .next t ∧ FeEnds (setEntry s' die i (some
        { packet := 0, tenant := (x.x f.rs1).toNat % 64, privileged := false, bytes := bs })) n f.rd (BitVec.ofNat 64 i) t) ∧
    (∀ e s' code, (dieOf s die).entries[(x.x f.rs1).toNat]? = some (some e) → sliceNat e.bytes 0 1 = 1 →
      dispatchEntry s die (x.x f.rs1).toNat e = .ok s' code →
      ∃ t, exec (.dispatch f) s = .next t ∧ FeEnds s' n f.rd (BitVec.ofNat 64 code) t) ∧
    (∀ t q, slot < 32 → ((dieOf s die).slots[slot]?).getD none = some (t, q) → (x.x f.rs2).toNat % 256 = 0 →
      (x.x f.rs2).toNat + 256 ≤ memSize →
      let y := (queueOf s t q).repending s
      ∃ t', exec (.qsave f) s = .next t' ∧
        FeEnds (saveBlock (setQueue (freeSlotOf s t q) t y) t y (x.x f.rs2).toNat) n f.rd 0 t') ∧
    (∀ t y y' s' bs, slot < 32 → ((dieOf s die).slots[slot]?).getD none = none → (x.x f.rs2).toNat % 256 = 0 →
      (x.x f.rs2).toNat + 256 ≤ memSize → queueAt s (x.x f.rs2).toNat = some (t, y) → blockSettled s t y.num = true →
      unitReadAt s (x.x f.rs2).toNat 256 = .ok s' bs → loadBlock die y bs = some y' → y'.state = .pending → y'.die = die →
      ∃ t', exec (.qload f) s = .next t' ∧ FeEnds (mapQueue s' die t slot y') n f.rd 0 t') ∧
    ((x.x f.rs1).toNat < 64 → (x.x f.rs2).toNat < 256 →
      ∃ t, exec (.evpost f) s = .next t ∧ FeEnds (setEventBit s (x.x f.rs1).toNat (x.x f.rs2).toNat) n 0 0 t)) ∧
  (∀ (f : XbrodF) (i : Instr) (s : State) (n : Nat) (x : FrontEnd), s.feTurn = some n → feAt s n = some x → x.machine = false →
    i ∈ ([.qfetch f, .xbrodBfx f, .xbrodBfxS f, .xbrodBfi f, .sigwait f, .dispatch f, .qsave f, .qload f, .evpost f] : List Instr) →
    ∃ a, exec i s = .next (setFe s n (x.takeException 2 a))) ∧
  ∀ (s : State) (n : Nat) (x : FrontEnd), feAt s n = some x →
    (∀ e, (dieOf s (feDie n)).pktq.contains e = false →
      exec (.xfreeWrite n e) s = .next (setEntry s (feDie n) e none)) ∧
    (∀ rd i rest, (dieOf s (feDie n)).pktq = i :: rest →
      exec (.xpktqRead n rd) s = .next (takeEntry (setFe s n (x.setX rd (BitVec.ofNat 64 i))) (feDie n))) ∧
    exec (.xtimerSignal n) s = .next
      (if x.xtimer.toNat ≤ s.ns then setFe s n { x with signals := x.signals ||| 2#4 } else s)

/-! ## Events: operations end -/

/-- R133 to R136, R214, R237, R267, 10 R292, R297, 11 R308, R309, 04 R151, 17 R449: how operations that can end do. A load of one
line that its core may read, with no older access to it under way, takes its values as its core sees them; a store's bytes
go on to their homes; an MMA's tile takes its sums; a copy's command is read, its line lands, and its fault ends it; an
answer or its lack 2 ms after the request left ends what awaits it; the oldest entry of a queue is released; and a TRYWAIT
whose deadline has come is executed, and charged to the other strands where a trial covers it. A load takes its line's bytes as
it completes (log entry 5), a store's lanes go on to their homes as it completes (log entry 6), and a copy's lines land one by
one once every source has been read (log entry 15): these are the model's choices. -/
def Obligations.OperationsEnd : Prop :=
  ∀ (s : State) (id : Nat) (o : Op), opOf s id = some o →
    (∀ size d ls line m, o.body = .load size d 0 ls → ls ≠ [] → (∀ a ∈ ls, m.getLsbD a.lane = true ∧ ∃ pa, a.target = .mem pa ∧
        lineOf pa = line ∧ olderTouches s o.owner o.id (.mem pa) size false = false) →
      (∃ k, copyOf s (opCore s o) line = some k ∧ k.readable s.ns = true) →
      (∀ a, answerOf s line (some (opCore s o)) evRD id = some a → a.error = none) →
      let r := asAnswered s (some (opCore s o)) id
      r.mem.poisoned line = false →
      let s1 := ls.foldl (fun s a => deliverLoad s o.owner d a.lane
        (coreRead r (opCore s o) o.owner o.id (placeAddr a) size true)) (dropAnswers s (some (opCore s o)) id [line])
      let s2 := noteReads s1 o.owner o.id (ls.map fun a => (placeAddr a, size))
      exec (.loadCompletion id m) s = .next (settle (dropOpLanes (touchPin s2 (opCore s o) line o.owner false true) id
        fun x => ls.any fun b => b.lane == x.lane))) ∧
    (∀ team size slot ls m w g tm, o.body = .bufLoad team false false size slot ls → olderBuffer s o = false →
      warpOf s o.owner.warp = some w → gangOf s w.gang = some g → g.teams[team]? = some tm →
      (∀ x ∈ ls, x.2 < tm.a.limit ∧ tm.a.poisoned x.2 = false) →
      exec (.loadCompletion id m) s = .next (completeOp (ls.foldl (fun s x =>
        deliver s o.owner x.1 slot (size / 4) (BitVec.ofNat 64 (leNat (tm.a.read x.2 size)))) s) o)) ∧
    (∀ size ls, o.body = .store size 0 false ls →
      (∀ a ∈ ls, olderTouches s o.owner o.id a.target a.data.length true = false) →
      exec (.storeCompletion id) s = .next (settle (dropOpLanes (addPending s o false (localLanes ls)) id fun _ => true))) ∧
    (∀ team ls w, o.body = .bufStore team ls → olderBuffer s o = false → warpOf s o.owner.warp = some w →
      exec (.storeCompletion id) s = .next (completeOp
        (updTeam s w.gang team fun t => { t with a := ls.foldl (fun b x => b.write x.1 x.2) t.a }) o)) ∧
    (∀ f rows tags atags a0 w0 w k b tm, o.body = .mma f rows tags atags a0 w0 → olderEngine s o = false →
      opTile s o = some (w, k, b) → (gangOf s w.gang).bind (teamOf · w) = some tm →
      (∀ x ∈ mmaLines f rows, (tm.buf x.1).poisoned x.2 = false) → w.tilePoison = [] →
      exec (.engineOperationComplete id) s =
        .next (completeOp (engineDone s o (.mma o.id f rows tags atags a0 w0 tm.a tm.w)) o)) ∧
    (∀ j c, o.body = .copy j → copyRun s o j = some c → o.cancelled = none →
      (engineReads s c.w.core o = true → o.queued.isSome →
        exec (.copyCompletion id) s = .next (updOp s id fun o => { o with queued := none })) ∧
      (∀ x rest, o.queued = none → copyHeld s c.l.tenant o.id = false → j.phase = 2 → j.left = x :: rest → j.f.dir = 0 →
        j.f.chk = false →
        exec (.copyCompletion id) s = .next (setJob (updTeam s c.g.uid c.w.team fun t =>
          t.setBuf (!j.f.buf) (landBuffer (t.buf (!j.f.buf)) x)) o { j with left := rest })) ∧
      ∀ cause sub addr, ¬(cause = causeCOPY ∧ sub = 6) →
        exec (.copyFault id cause sub addr) s = .next (copyFault s o cause sub addr (c.lanes addr.toNat))) ∧
    (∀ size d a r, o.body = .load size d 0 [a] → isRemote a.target = true → a.back = none → r.code = 0 → r.lease = 0 →
      (∀ x ∈ s.posted, x.id ≠ id) → (∀ x ∈ s.part.fills, x.1 ≠ id) → (∀ p ∈ s.packets, p.id ≠ id) →
      notSent s id a.target = false →
      exec (.remoteAck id r) s = .next (settle (dropAwaited
        (dropOpLanes (deliverLoad s o.owner d a.lane (r.data.take size)) id (sameLane a)) id))) ∧
    (∀ f a v x r, o.body = .atomic f true [(a, v, x)] → isHost a.target = true → isRemote a.target = true → r.code = 0 →
      o.steps = [] → (∀ x ∈ s.posted, x.id ≠ id) → (∀ x ∈ s.part.fills, x.1 ≠ id) → (∀ p ∈ s.packets, p.id ≠ id) →
      notSent s id a.target = false →
      exec (.hostAtomicCompletion id r) s = .next (settle (dropAwaited (endGroup (deliverGroup s o f true
        (leNat (r.data.take (atomBytes f.ty.toNat))) [(a, v, x)]) o a.target [(a, v, x)]) id))) ∧
    (∀ size d a, o.body = .load size d 0 [a] → isRemote a.target = true → a.back = none →
      (∃ x ∈ s.awaiting, x.op = id ∧ x.since + 2000000 ≤ s.ns) → (∀ x ∈ s.awaiting, x.op = id → x.target = a.target) →
      (∀ x ∈ s.posted, x.id ≠ id) → (∀ x ∈ s.part.fills, x.1 ≠ id) → (∀ p ∈ s.packets, p.id ≠ id) →
      exec (.remoteTimeout id) s =
        .next (settle (dropAwaited (failLanes s o 0x0B (if isHost a.target then 5 else 1) [a]) id))) ∧
    (∀ core q, q = .mx ∨ q = .st → s.ops.head? = some o → o.queued = some q → coreOfWarp s o.owner.warp = some core →
      exec (.queueEntryRelease core q) s = .next { s with ops := { o with queued := none } :: s.ops.tail }) ∧
    ∀ (w : Warp) (k : Strand) (x : Gang × Launch × NodeEntry) (no d : Nat) (sp : Safe) (n : BitVec 6) (cl : BitVec 2)
      (h : BitVec 8) (c : Ctx), warpOf s w.uid = some w → w.strandAt no = some k → nodeOf s w = some x →
      k.wait = some (.tryUntil d) → d ≤ s.cycles → k.debt = 0 →
      decode (fetchParcels s x.2.1 k (k.issueAddress w.launched).toNat) = .ok (.trywaitCtr sp n cl h) →
      let s1 := { s with focus := some { warp := w.uid, no } }
      Runs s1 (.trywaitCtr sp n cl h) none c →
      ∃ t, exec (.trywaitDeadline w.uid no) s = .next (charge c t) ∧
        c.Leaves t c.w0 (c.pushed fun _ => decide (c.k0.count (classOf cl) ≤ n.toNat))

/-! ## Events: waits that end, placement, groups -/

/-- 05 R164, 13 R364, 11 R306: a warp whose every strand that is not done has waited on presence for 2^16 cycles in which
none issued traps at the lowest of them, unless a halt or a pre-emption has stopped its strands; an EMITA that has waited 2^20
cycles traps likewise; a pin is published after 4,096. -/
def Obligations.WaitsEnd : Prop :=
  (∀ (s : State) (w : Warp) (k : Strand) (sub reg : Nat) (c : Ctx), warpOf s w.uid = some w → w.mode = .running →
    w.kernel = none → w.haltPending = false → w.preemptPending = false → (w.strands.find? fun k => !k.isDone w.launched) = some k →
    presenceWait k = some (sub, reg) →
    (∀ j ∈ w.strands, j.isDone w.launched = false → (presenceWait j).isSome ∧ j.waitSince + 65536 ≤ s.cycles) →
    (∀ j ∈ w.strands, j.lastIssue + 65536 ≤ s.cycles) → stuckCtx s { warp := w.uid, no := k.no } = some c →
    ∃ t lanes, exec (.meetDeadlock w.uid) s = .next t ∧ c.WaitTrapped t causeMEETDEADLOCK sub (BitVec.ofNat 64 reg) lanes) ∧
  (∀ (s : State) (r : StrandRef) (c : Ctx), stuckCtx s r = some c → c.w0.kernel = none → c.w0.mode = .running →
    c.w0.haltPending = false → c.w0.preemptPending = false → c.k0.wait = some .records → c.k0.waitSince + 1048576 ≤ s.cycles →
    ∃ t a, exec (.poolTimeout r.warp r.no) s = .next t ∧ c.WaitTrapped t causePOOL 0 a c.exec) ∧
  ∀ (s : State) (core line : Nat) (h : StrandRef) (since : Nat) (rs ws : List StrandRef),
    copyOf s core line = some (.pin h since rs ws) →
    since + 4096 ≤ s.cycles → exec (.pinTimeout core line) s = .next (settle (publishPin s line))

/-- 01 R34, 05 R157, 13 R356, R357, 14 R381: the placement unit tries the waiting gangs in order and places the first that
fits; a saved gang is resumed where it fits; a gang that has waited 20 µs has the gangs of lower priority on one yard
pre-empted; waiting gangs and pending queues age; a queue of records starts a group at its target or its timer. The order in which
yards are tried (log entries 28, 54), the first fit on one (log entry 11) and the measure of displacement (log entry 54) are the
model's choices. -/
def Obligations.PlacementAndGroups : Prop :=
  (∀ (s t : State) (die choice y : Nat) (before after : List Gang) (g : Gang) (ys zs : List Nat),
    waitingGangs s die = before ++ g :: after → tried die choice g = ys ++ y :: zs →
    (∀ p ∈ before, ∀ z ∈ tried die choice p, tryPlace s p z = none) → (∀ z ∈ ys, tryPlace s g z = none) →
    tryPlace s g y = some t → exec (.placement die choice) s = .next t) ∧
  (∀ (s : State) (g : Gang) (l : Launch) (n : NodeEntry) (yard c ns eprio : Nat) (saved : Bool), gangOf s g.uid = some g →
    launchOf s g.launch = some l → l.nodes[g.node]? = some n → g.phase = .queued c ns saved eprio →
    (∀ fits, saved = true → fitYard s n yard = some fits → takesRoom s (resumeGang s l g n fits) g yard = false →
      exec (.gangResume g.uid yard) s = .next (resumeGang s l g n fits)) ∧
    (ns + 20000 ≤ s.ns → poolsHold s g = true → stillClearing s g eprio = false → leastYard s n eprio yard (yardsFor g) = true →
      exec (.placementDisplace g.uid yard) s = .next ((displaceable s eprio yard).foldl (fun s d => requestPreempt s d.uid false)
        (updGang s g.uid fun g => { g with clearing := some yard }))) ∧
    (yard ∈ blockedYards s g n → g.compactSince + 1048576 ≤ s.cycles →
      ∃ vs : List Nat, exec (.registerCompaction g.uid yard) s =
          .next (vs.foldl (fun s v => moveFor s g.uid v) (updGang s g.uid fun g => { g with compactSince := s.cycles })) ∧
        vs.Nodup ∧ ∀ u, u ∈ vs ↔ ∃ y core v, y ∈ blockedYards s g n ∧ core ∈ yardCores y ∧ blockedCore s n core = true ∧
          moveVictim s g.uid core = some v ∧ v.uid = u)) ∧
  (∀ (s : State) (die : Nat),
    let age (g : Gang) : Gang := if g.die = die then aged s g (1000 * max 1 (dieOf s die).ageper.toNat) else g
    exec (.placementAgeing die) s = .next { s with gangs := s.gangs.map age }) ∧
  (∀ (s : State) (die : Nat),
    let age (s : State) (y : Nat × Queue) : State :=
      let e := min 15 (y.2.base + (s.ns - y.2.ptime) / (1000 * max 1 (dieOf s y.2.die).ageper.toNat))
      if e = y.2.eprio then s else mirrorQueue (setQueue s y.1 { y.2 with eprio := e }) y.1 y.2.num
    let u := (dieQueues s die .pending).foldl age s
    exec (.queueAgeing die) s = .next (applyRules (setDie u die { dieOf u die with rulesAt := u.ns }) die)) ∧
  ∀ (s : State) (die node : Nat) (l : Launch) (n : NodeEntry) (tr : Trough) (r : RecordRef), launchOf s l.uid = some l →
    l.nodes[node]? = some n → l.troughs[node]? = some tr → (dieQueue l node die).head? = some r → 0 < n.target →
    (∀ g ∈ s.gangs, g.uid ≠ s.nextId) →
    let rs := (dieQueue l node die).take n.target
    (n.target ≤ (dieQueue l node die).length →
      ∃ t, exec (.groupStart die l.uid node) s = .next t ∧ GroupStarted s t die node l tr rs) ∧
    (r.since + n.timer ≤ s.cycles →
      ∃ t, exec (.nodeTimer die l.uid node) s = .next t ∧ GroupStarted s t die node l tr rs)

/-! ## Events: frames, fault records, pre-emption -/

/-- 15 R397, R408, R413, R415, R416, 07 R210: a stopped warp whose LD and ST are 0 writes its frame and starts its trap kernel, or is
halted, or, where its gang ends, goes no further: its frame then has no cause of its own, which is the model's choice (log
entry 58). A gang that ends, once its warps have stopped and its operations have ended, writes its fault record, its sequence
number last; a request stops a placed gang, by force 20 µs later outside its trap kernels; one whose warps have all stopped is
saved, and waits for placement. -/
def Obligations.StopsAndSaves : Prop :=
  (∀ (s s1 : State) (w : Warp) (g : Gang) (l : Launch) (n : NodeEntry), warpOf s w.uid = some w → w.drained s = true →
    nodeOf s w = some (g, l, n) →
    (∀ tr h, w.mode = .stopping tr → g.phase = .placed → l.trap = some h →
      let bytes := frameBytes s n (teamOf g w) w tr.head
      writeFrame (updWarp s w.uid fun w => { w with formed := bytes }) l w bytes = some s1 →
      exec (.frameWrite w.uid) s = .next (updWarp s1 w.uid fun w => w.startKernel l h s1.cycles)) ∧
    (∀ warp kind nested, w.mode = .ending → g.phase = .terminating kind warp nested → kind ≠ 2 →
      let bytes := frameBytes s n (teamOf g w) w (stopHead s 0 false false)
      writeFrame (updWarp s w.uid fun w => { w with formed := bytes }) l w bytes = some s1 →
      exec (.frameWrite w.uid) s = .next (updWarp s1 w.uid fun w => { w with mode := .terminated })) ∧
    (w.mode = .running → w.haltPending = true → exec (.frameWrite w.uid) s = .next (haltWarp s w.uid)) ∧
    (∀ b, w.mode = .handler → w.haltPending = true → w.forced = true → frameIn s l w = true → readFrame s l w = some b →
      exec (.frameWrite w.uid) s = .next (haltKernel s w.uid true b))) ∧
  (∀ (s : State) (g : Gang) (l : Launch), gangOf s g.uid = some g → launchOf s g.launch = some l →
    (∀ kind warp nested, g.phase = .terminating kind warp nested → gangBusy s g.uid = false → kind ≠ noRecord →
      gangStopped s g.uid = true → recordIn s l kind warp = true → exec (.faultRecordWrite g.uid) s = .next (writeRecord s g l kind warp nested)) ∧
    (∀ job va seq s1, g.phase = .recording job (some (va, seq)) → jobDone s job = true →
      unitWrite s l.tenant false unitCore .unit true va (leBytes 8 seq) = some s1 →
      exec (.faultRecordWrite g.uid) s = .next (updGang s1 g.uid fun g => { g with phase := .recording s.nextId none })) ∧
    (g.phase = .placed → exec (.preemptionRequest g.uid) s = .next (asked s g.uid))) ∧
  (∀ (s : State) (gang : Nat), exec (.preemptionForce gang) s = .next { s with warps := s.warps.map fun w =>
    if w.gang = gang ∧ w.mode = .running ∧ w.preemptPending = true ∧ w.preemptAt + 20000 ≤ s.ns
    then { w with forced := true } else w }) ∧
  ∀ (s : State) (g : Gang) (l : Launch) (n : NodeEntry), gangOf s g.uid = some g → launchOf s g.launch = some l →
    l.nodes[g.node]? = some n → g.phase = .placed → readyToSave s l g.uid = true → savesIn s l g.uid = true →
    let ws := (s.warps.filter (·.gang == g.uid)).map (·.uid)
    let s1 := ws.foldl saveWarp (publishPins s (heldBy ws))
    (gangOf s1 g.uid).map Gang.phase = some .placed →
    let s2 := crumb (writeArea s1 g l n) l g 0 0 false g.die 0 0 4 0 0
    exec (.preemptionSave g.uid) s = .next (settle (putBack (updGang s2 g.uid fun g =>
      { g with phase := .queued s2.cycles s2.ns true l.priority, lastSave := s2.ns, compactSince := s2.cycles, clearing := none })
      g.uid))

/-! ## Events: queues and the event vector -/

/-- 14 R375, R377, R378, R388: doorbells of a queue that they may name advance its write index, or put it in error; a reset
waits for started packets, then sets both indices; an enable of a disabled queue reads its block; a disable stops its
packets and then writes its block; EVSETR and EVCLR change the vector, and a packet whose mask then holds may start. That a plain
doorbell is applied at once while a reset waits, and that a second reset takes the place of the first (log entry 30), that a queue
in error gives up its slot (log entry 31), and that the rules are applied when a disable ends (log entry 11), are the model's
choices. -/
def Obligations.QueueEvents : Prop :=
  (∀ (s : State) (t q : Nat) (w : Word) (priv : Bool) (i j : Instr), (priv = false → i = .doorbell t q w ∧ j = .doorbellReset t q w) →
    (priv = true → i = .pdoorbell t q w ∧ j = .pdoorbellReset t q w) →
    let x := queueOf s t q
    (ringable s t q priv = false → exec i s = .next s ∧ exec j s = .next s) ∧
    (ringable s t q priv = true →
      exec j s = .next (setQueue s t { x with resetTo := some w }) ∧
      ((w - x.windex).toNat + (x.windex - x.rindex).toNat ≤ 2 ^ x.log2size →
        (x.state ≠ .idle → exec i s = .next (firmware (setQueue s t { x with windex := w }) x.die)) ∧
        (x.state = .idle → exec i s = .next (firmware (signal (mirrorQueue
          (setQueue s t { x with windex := w, state := .pending, ptime := s.ns, eprio := x.base }) t q) x.die 0) x.die))) ∧
      (2 ^ x.log2size < (w - x.windex).toNat + (x.windex - x.rindex).toNat →
        exec i s = .next (firmware (queueFails s t q 1) x.die)))) ∧
  (∀ (s : State) (t q : Nat) (w : Word), startedOf s t q = [] →
    let x := queueOf s t q
    let s1 := dropWaiting (freeSlotOf s t q) t q
    (x.resetTo = some w → x.state ≠ .disabled → exec (.doorbellResetComplete t q) s = .next (firmware (mirrorQueue
      (setQueue s1 t { x with state := .idle, rindex := w, windex := w, error := 0, eprio := x.base, resetTo := none }) t q) x.die)) ∧
    (x.disabling = true →
      let s2 := setQueue s1 t { x with state := .disabled, disabling := false, resetTo := none }
      let s3 := writeBlock s2 t q 0x10 (leBytes 4 x.rindex.toNat ++ leBytes 4 x.windex.toNat)
      exec (.queueDisableComplete t q) s = .next (firmware (mirrorQueue (writeBlock s3 t q 0x40 (savedState s3)) t q) x.die))) ∧
  (∀ (s : State) (t q : Nat) (priv : Bool) (i j : Instr), (tenantOf s t).enabling = none →
    (i, j, priv) ∈ ([(.qctlEnable t q, .qctlDisable t q, false), (.qctlpEnable t q false, .qctlpDisable t q, false),
      (.qctlpEnable t q true, .qctlpDisable t q, true)] : List (Instr × Instr × Bool)) →
    let s1 := updTenant s t fun tn => { tn with enabling := none }
    (∀ s2 bs x, (tenantOf s t).enabled = true → q < queueCount (tenantOf s t) → (queueOf s1 t q).state = .disabled →
      blockSettled s1 t q = true → unitRead s1 t priv scopeSYSTEM (blockAddr (tenantOf s t) q) 256 0 = .ok s2 bs →
      readBlock bs q priv = some x → exec i s = .next (mirrorQueue (setQueue s2 t x) t q)) ∧
    (let x := queueOf s t q
     x.state ≠ .disabled → x.privileged = false → exec j s = .next (setQueue s t { x with disabling := true }))) ∧
  ∀ (s : State) (t : Nat) (bits : BitVec 256) (tn : Tenant), s.tenants[t]? = some tn → tn.num = t →
    (∀ x ∈ s.tenants.take t, x.num ≠ t) →
    (∃ u, exec (.evsetr t bits) s = .next u ∧ EventsBecome s u t (tn.events ||| bits)) ∧
    ∃ u, exec (.evclr t bits) s = .next u ∧ EventsBecome s u t (tn.events &&& ~~~bits)

/-! ## Events: tenants -/

/-- 14 R374, R377, 10 R283, R285, R287: a tenant is enabled with every queue disabled, and torn down: its queues disabled, its
packets dropped, every gang of its launches terminated without a fault record, and their records discarded; its cached
translations are invalidated once no access uses them; a page of local memory moves once its homes have drained; a
replayed access walks again, and a cancelled one raises its held cause. -/
def Obligations.TenantEvents : Prop :=
  (∀ (s : State) (t : Nat),
    (t < 64 → (tenantOf s t).enabled = false → exec (.tenantEnable t) s =
      .next (setAttest (updTenant s t fun x => { x with enabled := true, queues := [] }) t
        { attestOf s t with measure := List.replicate 32 0, images := [] })) ∧
    ((tenantOf s t).enabled = true → (tenantOf s t).queues = [] → (∀ l ∈ s.launches, l.tenant ≠ t) → exec (.tenantTeardown t) s =
      .next (leaveRanges (cancelHeld (updTenant (dropTenantWork s t) t fun x => { x with enabled := false, queues := [] }) t) t)) ∧
    ((tenantOf s t).enabled = true →
      let s1 := cancelHeld (updTenant (dropTenantWork (((tenantOf s t).queues.map (·.num)).foldl (fun s q => disableMirror s t q) s) t) t
        fun x => { x with enabled := false, queues := [] }) t
      exec (.tenantTeardown t) s = .next (leaveRanges (((launchesOf s t).map (·.uid)).foldl stopLaunch s1) t) ∧
      (tenantOf s1 t).enabled = false ∧ (tenantOf s1 t).queues = [] ∧ (∀ p ∈ s1.packets, p.tenant ≠ t) ∧
      ∀ d ∈ s1.dies, ∀ x ∈ d.slots, ∀ q, x ≠ some (t, q)) ∧
    (∀ l g, launchOf s l.uid = some l → gangOf s g.uid = some g → g.launch = l.uid → g.phase = .placed →
      (∀ h ∈ s.gangs, h.launch = l.uid → gangOf s h.uid = some h ∧ ∀ c ns saved e, h.phase ≠ .queued c ns saved e) →
      let u := stopLaunch s l.uid
      (gangOf u g.uid).map Gang.phase = some (.terminating noRecord 0 none) ∧
      (∀ w ∈ u.warps, w.gang = g.uid → w.mode ≠ .running) ∧
      ∀ v, launchOf u l.uid = some v → ∀ tr ∈ v.troughs, ∀ q ∈ tr.queues, q = []) ∧
    (∀ va arg, (tenantOf s t).xbusy = none → exec (.invalidateTranslations t va arg) s = .next (updTenant s t fun x =>
      { x with xbusy := some (.invalidate (va.toNat * 65536) (arg.toNat + 1)), xerr := false })) ∧
    (∀ va pages, (tenantOf s t).xbusy = some (.invalidate va pages) →
      let s1 := dropTlb s t fun e => overlaps e.first (2 ^ e.bits) va (pages * 65536)
      (translationsUsed s va (pages * 65536) = false →
        exec (.invalidationComplete t) s = .next (updTenant s1 t fun x => { x with xbusy := none })) ∧
      (translationsUsed s va (pages * 65536) = true → exec (.invalidationComplete t) s = .next s1)) ∧
    (∀ (va : BitVec 44) (arg : BitVec 16) e bits leaf, (tenantOf s t).xbusy = none → arg.toNat < 32 →
      (tenantOf s t).xleaf[arg.toNat]? = some leaf → walk s.mem (tenantOf s t).ptroot.toNat (va.toNat * 65536) = .leaf e bits →
      localLeaf e bits = true → localLeaf leaf bits = true →
      granulesCovered (enabledLocal (tenantOf s t)) 18 (pteAddr leaf / 65536) ((pteAddr leaf + 2 ^ bits - 1) / 65536) = true →
      let x : XCommand := .migrate (va.toNat * 65536 / 2 ^ bits * 2 ^ bits) (pteAddr e) (pteAddr leaf) bits
        (leafAddr s.mem (va.toNat * 65536) (tenantOf s t).ptroot.toNat levels) leaf
      let s1 := publishPins (updTenant s t fun t => { t with xbusy := some x, xerr := false }) fun c => x.moves c.line
      exec (.migratePage t va arg) s =
        .next (settle ((linesMoving s1 x).foldl (fun s line => (dispatch s line (partEvent s evMG)).1) s1))) ∧
    (∀ va old new bits at_ leaf, (tenantOf s t).xbusy = some (.migrate va old new bits at_ leaf) →
      let x : XCommand := .migrate va old new bits at_ leaf
      (∀ line ∈ linesMoving s x, (homeOf s line).state = 0 ∧ (homeOf s line).held = [] ∧ (homeOf s line).horizon = none) →
      ∃ u, exec (.migrationDrainComplete t) s = .next (updTenant u t fun t => { t with xbusy := none }) ∧
        u.mem = (s.mem.copyFrame old new (2 ^ bits)).write at_ (leBytes 8 leaf.toNat) ∧ u.tenants = s.tenants ∧
        u.homes = s.homes.filter (fun e => !x.moves e.1) ∧ u.warps = s.warps ∧
        ∀ c, c ∈ u.cores → ∀ e ∈ c.tlb, e.tenant = t → overlaps e.first (2 ^ e.bits) va (2 ^ bits) = false)) ∧
  ∀ (s : State) (t : Nat) (seq : BitVec 48) (h : HeldAccess), heldBySeq s t seq = some h →
    exec (.replay t seq) s =
      .next (h.vas.foldl (fun s va => dropTlb s t fun e => e.matches t va.toNat) (dropHeld s t h.seq)) ∧
    (h.copy = 0 → exec (.cancel t seq) s = .next (updStrand (dropHeld s t h.seq) h.owner fun k =>
      if k.wait = some (.held h.seq) then { k with cancelled := some h.trap } else k)) ∧
    (h.copy ≠ 0 → exec (.cancel t seq) s = .next (updOp (dropHeld s t h.seq) h.copy fun o =>
      { o with cancelled := some (h.trap.sub, h.trap.addr, h.trap.lanes) }))

/-! ## Events: the range table, protocols, registers -/

/-- 12 R325, R326, R346, R348, R349: commands of the range table, while no change is in progress; a change completes where
no line of it is away from rest or in an L1; a protocol's table is checked, and installed where no check fails; a tenant's quota
is set unless it would exceed 1,024, or all quotas would together. That a staged entry with V = 0 removes the entry is the model's
reading (log entry 27). -/
def Obligations.RangeEvents : Prop :=
  (∀ (s : State) (index : BitVec 10), s.part.change = none →
    let i := index.toNat
    let r := stagedEntry s.part
    (rangeCode s i r = 0 → exec (.rangeWrite index) s =
      .next { s with part := { s.part with rtcode := 0, change := some (i, if r.valid then some r else none) } }) ∧
    (rangeCode s i r ≠ 0 → exec (.rangeWrite index) s = .next { s with part := { s.part with rtcode := rangeCode s i r } }) ∧
    (∀ e, validEntry s.part i = some e →
      exec (.rangeRead index) s = .next { s with part := { s.part with staging := [e.q0, e.q1, e.q2, e.q3], rtcode := 0 } } ∧
      exec (.rangeInvalidate index) s = .next { s with part := { s.part with rtcode := 0, change := some (i, none) } })) ∧
  (∀ (s : State) (i : Nat) (r : Option RangeEntry), s.part.change = some (i, r) →
    (∀ e ∈ s.homes, rangeChanging s e.1 = false) → (∀ x ∈ s.l1, rangeChanging s x.line = false) →
    let s1 := dropEntries s (· == i)
    exec .rangeChangeComplete s = .next (settle { s1 with part := { s.part with
      ranges := putEntry i r s.part.ranges, rtcode := 0, change := (s.part.leaving.head?).map fun j => (j, none),
      leaving := s.part.leaving.drop 1 } })) ∧
  (∀ (s : State) (src : BitVec 42) (slot : BitVec 4), 8 ≤ slot.toNat → (∀ e ∈ s.part.ranges, e.2.proto ≠ slot.toNat) →
    src.toNat * 1024 + 1024 ≤ memSize → (∀ i < 16, s.mem.poisoned (lineOf (src.toNat * 1024) + i) = false) →
    let t : ProtoTable := (List.range 256).map fun i => BitVec.ofNat 32 (leNat (s.mem.read (src.toNat * 1024 + 4 * i) 4))
    (∀ c st e, tableFault t = some (c, st, e) → exec (.protocolLoad src slot) s =
      .next { s with part := { s.part with ptcode := c, ptstate := st, ptevent := e } }) ∧
    (tableFault t = none → exec (.protocolLoad src slot) s = .next { s with part := { s.part with
      ptcode := 0, ptstate := 0, ptevent := 0, protos := putTable slot.toNat t s.part.protos } })) ∧
  ∀ (s : State) (t : Nat) (v : DWord),
    let q := v.toNat % 2048
    let qs := tput 0 s.part.quotas t q
    t < 64 → q ≤ 1024 → (qs.map (·.2)).foldl (· + ·) 0 ≤ 1024 →
    exec (.rquotaWrite t v) s = .next { s with part := { s.part with quotas := qs } }

/-- 13 R361, 15 R412, R413, 16 R427, 17 R448, 18 R460, R463: writes of registers that start something or are refused under a
condition. RPOOL keeps every die within its pool; the record area stays while a launch is live; DBG halts, resumes and
forces a launch; TRC.BASE begins a sequence; SCOPE.CTL locks a consistent table; ATTEST begins a report, which is
written whole; PCAP is kept; the functions' registers answer while the part is up. That a refused lock leaves h5 and h6 as they were
(log entry 46), that a report's leaf counter advances at GO (log entry 47), and that a resume withdraws halts that are still
pending (log entry 35) are the model's choices. -/
def Obligations.RegisterEvents : Prop :=
  (∀ (s : State) (t : Nat) (v : DWord),
    let s1 := updTenant s t fun x => { x with rpool := v &&& 0x0FFFFFFFFFFFFFFF#64 }
    (if ∀ d < 4, ((s1.tenants.map fun x => poolQuota x d).foldl (· + ·) 0) ≤ 24576 then exec (.rpoolWrite t v) s = .next s1
      else exec (.rpoolWrite t v) s = .next s) ∧
    ((∃ l ∈ s.launches, l.tenant = t) → ∀ b, exec (.rareaWrite t b v) s = .next s) ∧
    ((∀ l ∈ s.launches, l.tenant ≠ t) →
      exec (.rareaWrite t false v) s = .next (updTenant s t fun x => { x with rareaBase := v &&& 0x00FFFFFFFFFF0001#64 }) ∧
      exec (.rareaWrite t true v) s = .next (updTenant s t fun x => { x with rareaSize := v &&& 0x000000FFFFFF0000#64 })) ∧
    exec (.trcBaseWrite t v) s = .next (updTenant s t fun x => { x with
      trcBase := v &&& 0x00FFFFFFFFFF0001#64, trcSeq := if v.getLsbD 0 && !x.trcBase.getLsbD 0 then 0 else x.trcSeq })) ∧
  (∀ (s : State) (t : Nat) (n : BitVec 16) (l : Launch), numbered s t n = some l →
    let s1 := updTenant s t fun x => { x with dbg := insertNat l.uid x.dbg }
    let s2 := updTenant s t fun x => { x with dbg := x.dbg.filter (· != l.uid) }
    let halts (w : Warp) : Warp := if ofLaunch s l.uid w && w.canHalt then { w with haltPending := true } else w
    let forces (w : Warp) : Warp :=
      if ofLaunch s l.uid w && w.haltPending && (match w.mode with | .stopping _ => true | m => m == .handler)
      then { w with forced := true } else w
    exec (.dbgHalt t n) s = .next { s1 with warps := s.warps.map halts } ∧
    exec (.dbgResume t n) s = .next (settle (((s.warps.filter (ofLaunch s l.uid)).map (·.uid)).foldl resumeHalted s2)) ∧
    exec (.dbgForce t n) s = .next { s with warps := s.warps.map forces }) ∧
  (∀ (s : State) (t : Nat) (v : DWord),
    let a := { attestOf s t with addr := v &&& 0x00FFFFFFFFFFFFC0#64 }
    (v.getLsbD 63 = false ∨ a.busy = true → exec (.attestGo t v) s = .next (setAttest s t a)) ∧
    (v.getLsbD 63 = true → a.busy = false → exec (.attestGo t v) s = .next (setPart
      (setAttest s t { a with busy := true, leaf := s.part.leaf }) fun p =>
        { p with leaf := if s.part.leaf < 1048576 then s.part.leaf + 1 else s.part.leaf }))) ∧
  (∀ (s : State) (t : Nat), (attestOf s t).busy = true →
    (∀ s1, (attestOf s t).job = none →
      unitWrite s t false unitCore .unit true (attestOf s t).addr.toNat (reportBytes s (attestOf s t)) = some s1 →
      exec (.attestReport t) s = .next (setAttest s1 t { attestOf s t with job := some s.nextId })) ∧
    (∀ j, (attestOf s t).job = some j → jobDone s j = true →
      exec (.attestReport t) s = .next (setAttest s t { attestOf s t with busy := false, job := none }))) ∧
  (∀ (s : State) (v : DWord) (p : BitVec 16),
    let h6 := BitVec.ofNat 5 (v.toNat / 2 ^ 25)
    let h5 := BitVec.ofNat 5 (v.toNat / 2 ^ 20)
    exec (.pcapWrite p) s = .next { s with part := { s.part with pcap := p.setWidth 12 } } ∧
    (s.part.lock = true → exec (.scopeLock v) s = .next s) ∧
    (s.part.lock = false → v.getLsbD 63 = false → exec (.scopeLock v) s = .next { s with part := { s.part with h5, h6 } }) ∧
    (s.part.lock = false → v.getLsbD 63 = true →
      (h5.toNat ≤ h6.toNat ∧ s.part.near &&& s.part.domain = s.part.near ∧ s.part.near.getLsbD s.part.device.toNat = true ∧
          s.part.domain.getLsbD s.part.device.toNat = true →
        exec (.scopeLock v) s = .next { s with part := { s.part with h5, h6, lock := true } }) ∧
      (h6.toNat < h5.toNat ∨ s.part.near &&& s.part.domain ≠ s.part.near ∨ s.part.near.getLsbD s.part.device.toNat = false ∨
          s.part.domain.getLsbD s.part.device.toNat = false → exec (.scopeLock v) s = .next s))) ∧
  ∀ (s : State) (v : DWord), s.part.lost = false →
    exec (.registerWrite (.mgmt 0) v) s = .next { s with part := { s.part with devnum := v.setWidth 9 } } ∧
    (s.part.pfEnabled = false ∨ servesHost s.part = false → ∀ t off, exec (.registerWrite (.vf t off) v) s = .next s ∧
      exec (.registerWrite (.pf off) v) s = .next s ∧ exec (.registerWrite (.pf32 off) v) s = .next s) ∧
    (s.part.pfEnabled = true → servesHost s.part = true → ∀ t < 64,
      exec (.registerWrite (.pf (0x20000 + 0x1000 * t)) v) s =
        .next (updTenant s t fun x => { x with ptroot := v &&& 0x000FFFFFFFFF0000#64 }) ∧
      (∀ q < 1024, v.getLsbD 63 = false →
        exec (.registerWrite (.vf t (0x1000 + 8 * q)) v) s = exec (.doorbell t q (v.setWidth 32)) s) ∧
      (s.part.lock = false → ∀ d < 512, exec (.registerWrite (.pf32 (0x81000 + 4 * d)) v) s =
        .next { s with part := { s.part with routes := tput 0 s.part.routes d (v.toNat % 2 ^ 18) } }))

/-! ## Events: packets -/

/-- 14 R382 to R387: a mapped queue's next packet is read, and starts once it may; a NOP ends; an EVENT clears its mask; a
TIMESTAMP writes its start; a WAITVAL reads its word until its condition holds or its time is up; a COPY reads its lines and
writes them; a LAUNCH is handed over and dispatched, and may time out; an INDIRECT is handed over and runs its array; a
packet whose work has ended is released, sets its mask, writes its completion word, and is gone. -/
def Obligations.PacketEvents : Prop :=
  (∀ (s s1 : State) (t q : Nat) (bs : List Byte),
    let x := queueOf s t q
    fetching x = true → waitingOf s t q = none → x.rindex ≠ x.windex → (startedOf s t q).length < 64 →
    unitRead s t x.privileged scopeSYSTEM x.entryAddr 128 0 = .ok s1 bs →
    exec (.packetStart t q) s = .next (tryStart (readPacket s1 t q x.rindex.toNat none bs) t q)) ∧
  (∀ (s : State) (t q : Nat) (p : Packet), fetching (queueOf s t q) = true → waitingOf s t q = some p →
    mayStart p (startedOf s t q) = true → exec (.packetStart t q) s = .next (mirrorQueue
      (beginPacket (setQueue s t { queueOf s t q with rindex := (queueOf s t q).rindex + 1 }) p) t q)) ∧
  (∀ (s : State) (p : Packet) (ns : Nat), packetOf s p.id = some p → p.phase = .started ns →
    (p.type = 0 → exec (.nopPacket p.id) s = .next (setPhase s p.id (.ending 0))) ∧
    (p.type = 3 → exec (.event p.id) s =
      .next (setPhase (changeEvents s p.tenant fun v => v &&& ~~~p.clearMask) p.id (.ending 0))) ∧
    (∀ s1, p.type = 5 →
      unitWrite s p.tenant (packetPriv s p) unitCore (.packet p.id) false (p.quad 0x50).toNat (leBytes 8 ns) = some s1 →
      exec (.timestamp p.id) s = .next (setPhase s1 p.id (.ending 0))) ∧
    (∀ s1 bs, p.type = 4 → packetRead s p.id p.tenant (packetPriv s p) p.acq (p.quad 0x50).toNat p.waitSize 0x0A = .ok s1 bs →
      exec (.waitval p.id) s =
        .next (setPhase s1 p.id (if p.holds (leNat bs) then .ending 0 else .polling ns s1.ns))) ∧
    (∀ src dst, p.type = 2 → packetLines s p false (linearPlan (packetJob p) 0).src = .ok src →
      packetLines s p true (linearPlan (packetJob p) 0).dst = .ok dst →
      (∀ x ∈ src ++ dst, linkDown s p.tenant x.2 = false) → (∀ x ∈ src, ∃ y ∈ p.got, y.1 = x.1) →
      exec (.copyPacket p.id) s = .next (landPacket s p (linearPlan (packetJob p) 0) dst)) ∧
    (∀ i, freeEntry s (packetDie s p) = some i → (p.type = 1 → exec (.launch p.id) s = .next (handOver s p)) ∧
      (p.type = 6 → exec (.indirect p.id) s = .next (handOver s p)))) ∧
  (∀ (s : State) (p : Packet) (ns last : Nat), packetOf s p.id = some p → p.phase = .polling ns last →
    (∀ s1 bs, packetRead s p.id p.tenant (packetPriv s p) p.acq (p.quad 0x50).toNat p.waitSize 0x0A = .ok s1 bs →
      exec (.waitvalPoll p.id) s =
        .next (setPhase s1 p.id (if p.holds (leNat bs) then .ending 0 else .polling ns s1.ns))) ∧
    (0 < (p.quad 0x70).toNat → ns + 1000 * (p.quad 0x70).toNat ≤ s.ns →
      exec (.waitvalTimeout p.id) s = .next (setPhase s p.id (.ending 0x0B)))) ∧
  (∀ (s : State) (p : Packet) (i : Nat) (e : BufEntry), packetOf s p.id = some p → p.phase = .handed →
    firstEntry s (packetDie s p) = some (i, e) → e.packet = p.id →
    (∀ s1 code, p.type = 1 → dispatchEntry s (packetDie s p) i e = .ok s1 code →
      exec (.launch p.id) s = .next (takeEntry s1 (packetDie s p))) ∧
    (p.type = 6 → exec (.indirect p.id) s = .next (updPacket
      (setEntry (takeEntry s (packetDie s p)) (packetDie s p) i none) p.id fun x =>
        { x with phase := .running, left := (x.quad 0x58).toNat, next := x.quad 0x50 }))) ∧
  (∀ (s : State) (l : Launch) (d : Nat), launchOf s l.uid = some l → l.timeout = some d →
    d ≤ s.ns → l.timedOut = false →
    exec (.launchTimeout l.uid) s = .next (stopLaunch (updLaunch s l.uid fun l => { l with timedOut := true }) l.uid)) ∧
  ∀ (s : State) (p : Packet), packetOf s p.id = some p →
    (∀ code, p.phase = .ending code → workReleased s p = true →
      let s1 := changeEvents s p.tenant fun v => v ||| p.setMask
      (p.done = 0 → exec (.packetCompletion p.id) s = .next (finishPacket s1 p false)) ∧
      (∀ s2, p.done ≠ 0 → p.done.toNat % 8 = 0 → unitWrite s1 p.tenant (packetPriv s1 p) unitCore (.packet p.id) true
          p.done.toNat (leBytes 4 code ++ leBytes 4 p.seq) = some s2 →
        exec (.packetCompletion p.id) s = .next (setPhase s2 p.id (.writing s1.nextId code)))) ∧
    (∀ job code, p.phase = .writing job code → jobDone s job = true →
      exec (.packetCompletion p.id) s = .next (finishPacket s p false))

/-! ## Events: lines at their homes -/

/-- 12 R327, R329, R331 to R333, R338, 11 R306, 17 R438, R439: events at a line under LEASE that is at rest. A read takes a
lease; an acquiring read takes none; a store, an atomic, and a peer's or the host's access are performed at once; a pin is
granted and published; a horizon that has passed is forgotten, and returns a leased line to I; an eviction returns any
line to I; a held event's time comes. -/
def Obligations.HomeEvents : Prop :=
  (∀ (s : State) (core line : Nat), LineAtRest s line → copyOf s core line = none →
    let u : Expiry := .at (s.ns + leaseOf s line)
    exec (.rd core line) s = .next (settle (takeNext (putCopy (raiseHorizon s line u) core line (.lease u)) line 1)) ∧
    exec (.aq core line) s = .next (settle (takeNext s line 0)) ∧
    ∀ w no, coreOfWarp s w = some core → no < 32 → (pinsOf s core).length < 32 → exec (.pn w no line) s =
      .next (settle (takeNext (putCopy s core line (.pin { warp := w, no } s.cycles [] [])) line 3))) ∧
  (∀ (s : State) (p : Pending), (s.pend.find? fun x => x.id == p.id) = some p → behindPending s p = false →
    changing s p.line = false →
    (p.rel = false → holdsLine s p.core p.line = true → exec (.wr p.id) s = .next (settle (performStore s p.id))) ∧
    (LineAtRest s p.line → holdsLine s p.core p.line = false →
      (p.rel = false → exec (.wr p.id) s = .next (settle (takeNext (performStore s p.id) p.line 0))) ∧
      ∀ r, (s.pend.find? fun x => x.core == p.core && x.rel && !x.window && lineOf x.pa == p.line) = some p →
        boundSync s p.pa p.bytes.length = some r → r.proto = 1 →
        exec (.rl p.core p.line) s = .next (settle (takeNext (performStore s p.id) p.line 0)))) ∧
  (∀ (s : State) (o : Op) (f : AtomF) (returns : Bool) (ls : List (LaneAccess × DWord × DWord)) (line : Nat),
    opOf s o.id = some o → o.body = .atomic f returns ls → atomLineOf ls = some line → scopeCORE < f.scope.toNat →
    (∀ x ∈ ls, onLine line x.1 = true → olderTouches s o.owner o.id x.1.target (atomSize f) true = false ∧
      pendTouches s (opCore s o) (placeAddr x.1) (atomSize f) = false) →
    let i : Instr := if returns then .at o.id else .re o.id
    (holdsLine s (opCore s o) line = true → exec i s = .next (settle (performAtomic s o.id line))) ∧
    (LineAtRest s line → holdsLine s (opCore s o) line = false →
      exec i s = .next (settle (takeNext (performAtomic s o.id line) line 0)))) ∧
  (∀ (s : State) (line : Nat), protoOf s line = 1 →
    let h := homeOf s line
    (horizonPassed s line = true → h.held = [] →
      (h.state = 0 → exec (.lx line) s = .next (settle (setHome s line { h with horizon := none }))) ∧
      (h.state = 1 →
        let s1 := takeNext (setHome s line { h with held := [] }) line 0
        exec (.lx line) s = .next (settle (setHome s1 line { homeOf s1 line with horizon := none })))) ∧
    (evictable s line = true → exec (.ev line) s = .next (settle (takeNext s line 0))) ∧
    (pinned s line = true → h.state = 3 → exec (.un line) s = .next (settle (takeNext (dropCopies s line isPin) line 0))) ∧
    ((∃ e ∈ h.held, e.due ≤ s.ns) → exec (.to line) s = .next (settle (expire s line evTO)))) ∧
  (∀ (s : State) (r : PeerRequest) (i : Instr), fromHost r = false → Admitted s r → i = .remoteRequest r ∨
      (i = .rr r ∧ readsOnly r.kind = true) ∨ (i = .rw r ∧ readsOnly r.kind = false) →
    let line := lineOf r.addr.toNat
    (r.kind = .read → (s.part.syncOk = false ∨ leaseOf s line ≤ 100) →
      exec i s = .next (settle (takeNext (answerData s r 0) line 1))) ∧
    (r.kind = .read → s.part.syncOk = true → 100 < leaseOf s line →
      exec i s = .next (settle (takeNext (answerData (raiseHorizon s line (.at (s.ns + leaseOf s line))) r
        (s.ns + leaseOf s line)) line 1))) ∧
    (r.kind = .write → exec i s = .next (settle (takeNext (performRequest s r) line 0)))) ∧
  (∀ (s : State) (r : PeerRequest) (cause sub : Nat), peerFault s r = some (cause, sub) →
    exec (.remoteRequest r) s = .next (answer s r cause sub [] 0)) ∧
  ∀ (s : State) (line : Nat), LineAtRest s line → servesHost s.part = true → 64 * line + 64 ≤ memSize →
    exec (.hs line) s = .next (settle (takeNext (answerData s (hostRead line) 0) line 0))

/-! ## Events: links -/

/-- 17 R441 to R447: a flit in order is taken; one that fails its CRC or leaves a gap is named in a NAK, and again where it fails its
CRC once more, comes out of its turn, or 2 µs have passed (log entry 71); one taken already is discarded, and a
part that does not serve its links takes none. A NAK has the flits after it sent again, whichever way it comes (log entries 45, 71);
a port that is down gives up its flits once every request sent on it has ended, here where no message waits; time flits set the offset; discovery keeps the least hop count and the ports that have it
until the table is locked, and a duplicate takes its number's route away (log entry 45); the host takes a line that the bridge
holds, poison mark and all; a link is trained again. -/
def Obligations.LinkEvents : Prop :=
  (∀ (s : State) (port : Nat) (p : Port) (flit : List Byte), portAt s port = some p →
    (p.up = false ∨ serving s.part = false → exec (.flitReceive port flit) s = .next s) ∧
    (p.up = true → serving s.part = true →
      (flitIntact flit = true → flitType flit = 2 → exec (.flitReceive port flit) s =
        .next (flushOut (receiveNak s port (BitVec.ofNat 12 (flitAck flit))) port)) ∧
      (flitIntact flit = true → flitType flit ≠ 2 →
        (flitSeq flit = (p.rxSeq + 1).toNat → exec (.flitReceive port flit) s = .next (flushOut (takeFlit s port flit) port)) ∧
        (flitSeq flit ≠ (p.rxSeq + 1).toNat → p.took (flitSeq flit) = true → exec (.flitReceive port flit) s = .next s)) ∧
      (flitIntact flit = false ∨ (flitType flit ≠ 2 ∧ flitSeq flit ≠ (p.rxSeq + 1).toNat ∧ p.took (flitSeq flit) = false) →
        let seq := if flitIntact flit then BitVec.ofNat 12 (flitSeq flit) else p.rxSeq + 1
        (p.nak = none ∨ flitIntact flit = false → exec (.flitReceive port flit) s = .next (sendNak s port seq)) ∧
        ∀ at_ last, p.nak = some (at_, last) → flitIntact flit = true →
          if s.ns < at_ + 2000 ∧ (seq - last - 1).toNat < 2047 then
            exec (.flitReceive port flit) s = .next (updPort s port fun p => { p with nak := some (at_, seq) })
          else exec (.flitReceive port flit) s = .next (sendNak s port seq))) ∧
    (∀ last : BitVec 12, p.up = true → p.out = [] → (∀ b ∈ p.unacked, b.2 < 7) → ∃ t,
      exec (.nak port last) s = .next t ∧ t.outbox = s.outbox ++ ((p.acked last.toNat).unacked.map fun b => .flit port b.1) ∧
      (portAt t port).map Port.unacked = some ((p.acked last.toNat).unacked.map fun b => (b.1, b.2 + 1))) ∧
    (p.draining = true → (∀ a ∈ s.awaiting, a.port ≠ some port) → s.waiting = [] →
      ∃ t, exec (.portReroute port) s = .next (settle t) ∧
        portAt t port = some { p with unacked := [], out := [], draining := false } ∧ ∀ j, j ≠ port → portAt t j = portAt s j) ∧
    (p.draining = false ∨ (∃ a ∈ s.awaiting, a.port = some port) → exec (.portReroute port) s = .next s)) ∧
  (∀ (s : State) (offset : BitVec 16), exec (.timeFlit offset) s = .next { s with part := { s.part with
      syncOffset := offset, syncOk := decide (-50 ≤ offset.toInt ∧ offset.toInt ≤ 50) } }) ∧
  (∀ (s : State) (port : Nat) (d : BitVec 9) (hops : Nat), port < 18 →
    let known := tget 0 s.part.hops d.toNat
    (s.part.lock = true → ∀ b, exec (.discovery port d hops b) s = .next s) ∧
    (s.part.lock = false →
      (known ≠ conflictMark → (known = 0 ∨ hops + 1 < known) → exec (.discovery port d hops false) s = .next { s with
        part := { s.part with hops := tput 0 s.part.hops d.toNat (hops + 1), routes := tput 0 s.part.routes d.toNat (2 ^ port) } }) ∧
      (known ≠ conflictMark → hops + 1 = known → exec (.discovery port d hops false) s = .next { s with
        part := { s.part with routes := tput 0 s.part.routes d.toNat (tget 0 s.part.routes d.toNat ||| 2 ^ port) } }) ∧
      (known = conflictMark ∨ (0 < known ∧ known < hops + 1) → exec (.discovery port d hops false) s = .next s) ∧
      exec (.discovery port d hops true) s = .next { s with part := { s.part with
        hops := tput 0 s.part.hops d.toNat conflictMark, routes := tput 0 s.part.routes d.toNat 0, duplicate := true } })) ∧
  (∀ (s : State) (line : Nat),
    (servesHost s.part = false → exec (.hostSnoop line) s = .next s) ∧
    (servesHost s.part = true →
      ((∀ b ∈ s.part.bridge, b.line ≠ line) →
        exec (.hostSnoop line) s = .next { s with outbox := s.outbox ++ [.hostAnswer line [] false false] }) ∧
      ∀ b, s.part.bridge = [b] → b.line = line → b.horizon ≤ s.ns → exec (.hostSnoop line) s = .next (settle
        { s with outbox := s.outbox ++ [.hostAnswer line b.bytes b.poison true], part := { s.part with bridge := [] } }))) ∧
  ∀ (s : State), exec (.linkRetrain (some true)) s = .next { s with part := { s.part with cxl := true, linkUp := true } } ∧
    (s.part.bridge = [] → s.part.bridgeQ = [] → ∀ l, l ≠ some true → exec (.linkRetrain l) s = .next (settle { s with
      part := { s.part with cxl := false, linkUp := l.isSome, bridge := [], bridgeQ := [], fills := [] },
      homes := (s.homes.map fun e => (e.1, { e.2 with hostCopy := false })).filter (·.2 != HomeLine.rest) }))

/-! ## Events: the package -/

/-- 18 R453 to R458, 15 R420, R421, 17 R447: a power window and each millisecond's temperatures step their targets; the trip
stays; a reset puts back every register and boots, keeping the fuses and the device number; a loss of power keeps the
fuses alone; the rollback counter only rises; an error that cannot be corrected poisons what it strikes. That memory reads as
unwritten after a reset (log entry 1), that the time and the device number outlast one and a loss of power takes the device
number, what a cap of 0 means and when LIM is set (log entry 47) are the model's choices. -/
def Obligations.PackageEvents : Prop :=
  (∀ (s : State) (mean : BitVec 16),
    let p := s.part
    let cap := min p.pcap.toNat 2700
    let top := if p.ordering = 2 then 26 else 30
    (cap ≠ 0 → cap < mean.toNat → exec (.powerWindow mean) s = .next { s with part := { p with
      powerTarget := max 12 (p.powerTarget - 1), lowWindows := 0, lim := p.lim || decide (p.powerTarget ≤ 12), power := mean } }) ∧
    (cap = 0 ∨ (mean.toNat ≤ cap ∧ 100 * mean.toNat < 95 * cap) → exec (.powerWindow mean) s = .next { s with part := { p with
      powerTarget := if p.lowWindows = 9 then min top (p.powerTarget + 1) else p.powerTarget,
      lowWindows := if p.lowWindows = 9 then 0 else p.lowWindows + 1, lim := false, power := mean } }) ∧
    (cap ≠ 0 → mean.toNat ≤ cap → 95 * cap ≤ 100 * mean.toNat → exec (.powerWindow mean) s = .next { s with part := { p with
      lowWindows := 0, lim := false, power := mean } })) ∧
  (∀ (s : State) (tdie tmem : List (BitVec 16)),
    let p := s.part
    let top := if p.ordering = 2 then 26 else 30
    let hot := (∃ x ∈ tdie, 950 ≤ x.toInt) ∨ ∃ x ∈ tmem, 900 ≤ x.toInt
    let cool := (∀ x ∈ tdie, x.toInt ≤ 920) ∧ ∀ x ∈ tmem, x.toInt ≤ 870
    let beyond := (∃ x ∈ tdie, 1050 ≤ x.toInt) ∨ ∃ x ∈ tmem, 950 ≤ x.toInt
    ∃ t, exec (.thermalStep tdie tmem) s = .next { s with part := t } ∧ (t.trip = true ↔ p.trip = true ∨ beyond) ∧
      t.tdie = tdie ∧ t.tmem = tmem ∧ (hot → t.thermalTarget = max 12 (p.thermalTarget - 1) ∧ t.coolSteps = 0) ∧
      (¬hot → cool → if p.coolSteps = 9 then t.thermalTarget = min top (p.thermalTarget + 1) ∧ t.coolSteps = 0
        else t.thermalTarget = p.thermalTarget ∧ t.coolSteps = p.coolSteps + 1) ∧
      (¬hot → ¬cool → t.thermalTarget = p.thermalTarget ∧ t.coolSteps = 0)) ∧
  (∀ (s : State), exec .thermalTrip s = .next { s with part := { s.part with trip := true } }) ∧
  (∀ (s : State) (b : BootFlash), ∃ t, exec (.reset b) s = .next t ∧ t.ns = s.ns ∧ t.mem = State.reset.mem ∧
    t.homes = [] ∧ t.l1 = [] ∧ t.pend = [] ∧ t.ops = [] ∧ t.warps = [] ∧ t.gangs = [] ∧ t.launches = [] ∧ t.packets = [] ∧
    t.tenants = State.reset.tenants ∧ t.dies = State.reset.dies ∧ t.cores = State.reset.cores ∧
    t.part.ranges = [] ∧ t.part.pcap = 0 ∧ t.part.devnum = s.part.devnum ∧ t.part.keyDigest = s.part.keyDigest ∧
    t.part.rollback = s.part.rollback ∧ t.part.leaf = s.part.leaf ∧
    (∀ s0, b.stages.head? = some s0 → stageOk s.part s0 = false → t.part.boot = 1 ∧ t.part.pfEnabled = false) ∧
    ∀ s0 s1 rest, b.stages = s0 :: s1 :: rest → stageOk s.part s0 = true → stageOk s.part s1 = true → b.memoryTrains = true →
      b.linkTrains = true → t.part.boot = 0 ∧ t.part.device = s.part.devnum ∧ t.part.pfEnabled = true ∧ t.part.firmware = s1.body ∧
        t.part.m0 = sha256 (List.replicate 32 0 ++ sha256 s0.body) ∧ t.part.m1 = sha256 (List.replicate 32 0 ++ sha256 s1.body)) ∧
  (∀ (s : State), ∃ t, exec .powerLoss s = .next t ∧ t.part.lost = true ∧ t.part.keyDigest = s.part.keyDigest ∧
    t.part.rollback = s.part.rollback ∧ t.part.leaf = s.part.leaf ∧ t.part.devnum = 0 ∧ t.warps = [] ∧ t.mem = State.reset.mem) ∧
  (∀ (s : State) (n : Nat), s.part.lost = false →
    exec (.managementCommand n) s = .next { s with part := { s.part with rollback := max s.part.rollback n } }) ∧
  ∀ (s : State),
    (∀ e, e = .corrected ∨ (∃ d, e = .codeStore d) ∨ (∃ l, e = .cleanLine l) ∨ e = .control → exec (.softError e) s = .next s) ∧
    (∀ line, ∃ t, exec (.softError (.dirtyLine line)) s = .next t ∧ { t with mem := s.mem } = s ∧
      ∀ l, t.mem.poisoned l = (s.mem.poisoned l || l == line)) ∧
    (∀ w frame line, warpOf s w.uid = some w → frame < w.tiles.length → line < 256 → ∃ t m,
      exec (.softError (.tile w.uid frame line)) s = .next t ∧ warpOf t w.uid = some { w with tilePoison := m } ∧ (frame, line) ∈ m) ∧
    (∀ g team tm line, gangOf s g.uid = some g → g.teams[team]? = some tm → 64 * line < tm.a.limit → ∃ t g' tm',
      exec (.softError (.buffer g.uid team false line)) s = .next t ∧ gangOf t g.uid = some g' ∧ g'.teams[team]? = some tm' ∧
        tm'.a.poisoned (64 * line) = true ∧ tm'.w = tm.w) ∧
    ∀ w g l n, warpOf s w.uid = some w → nodeOf s w = some (g, l, n) → w.mode = .running → w.kernel = none → g.phase = .placed →
      ∃ t, exec (.softError (.register w.uid)) s = .next t ∧
        (gangOf t g.uid).map Gang.phase = some (.terminating 3 w.uid none)
end

