-- ==== Sys2Proof/Laws/State.lean ====
section
/-! SUPPORT. What each update of the state leaves alone: one lemma for each field, true by definition. -/

namespace Sys2Proof.Machine

/-! ## updWarp -/

@[simp] theorem updWarp_cycles (s : State) (w : Nat) (f : Warp → Warp) : (updWarp s w f).cycles = s.cycles := rfl
@[simp] theorem updWarp_ns (s : State) (w : Nat) (f : Warp → Warp) : (updWarp s w f).ns = s.ns := rfl
@[simp] theorem updWarp_frac (s : State) (w : Nat) (f : Warp → Warp) : (updWarp s w f).frac = s.frac := rfl
@[simp] theorem updWarp_agenda (s : State) (w : Nat) (f : Warp → Warp) : (updWarp s w f).agenda = s.agenda := rfl
@[simp] theorem updWarp_fresh (s : State) (w : Nat) (f : Warp → Warp) : (updWarp s w f).fresh = s.fresh := rfl
@[simp] theorem updWarp_nextId (s : State) (w : Nat) (f : Warp → Warp) : (updWarp s w f).nextId = s.nextId := rfl
@[simp] theorem updWarp_focus (s : State) (w : Nat) (f : Warp → Warp) : (updWarp s w f).focus = s.focus := rfl
@[simp] theorem updWarp_feTurn (s : State) (w : Nat) (f : Warp → Warp) : (updWarp s w f).feTurn = s.feTurn := rfl
@[simp] theorem updWarp_mem (s : State) (w : Nat) (f : Warp → Warp) : (updWarp s w f).mem = s.mem := rfl
@[simp] theorem updWarp_homes (s : State) (w : Nat) (f : Warp → Warp) : (updWarp s w f).homes = s.homes := rfl
@[simp] theorem updWarp_l1 (s : State) (w : Nat) (f : Warp → Warp) : (updWarp s w f).l1 = s.l1 := rfl
@[simp] theorem updWarp_far (s : State) (w : Nat) (f : Warp → Warp) : (updWarp s w f).far = s.far := rfl
@[simp] theorem updWarp_pend (s : State) (w : Nat) (f : Warp → Warp) : (updWarp s w f).pend = s.pend := rfl
@[simp] theorem updWarp_ops (s : State) (w : Nat) (f : Warp → Warp) : (updWarp s w f).ops = s.ops := rfl
@[simp] theorem updWarp_posted (s : State) (w : Nat) (f : Warp → Warp) : (updWarp s w f).posted = s.posted := rfl
@[simp] theorem updWarp_awaiting (s : State) (w : Nat) (f : Warp → Warp) : (updWarp s w f).awaiting = s.awaiting := rfl
@[simp] theorem updWarp_prefetches (s : State) (w : Nat) (f : Warp → Warp) : (updWarp s w f).prefetches = s.prefetches := rfl
@[simp] theorem updWarp_gangs (s : State) (w : Nat) (f : Warp → Warp) : (updWarp s w f).gangs = s.gangs := rfl
@[simp] theorem updWarp_launches (s : State) (w : Nat) (f : Warp → Warp) : (updWarp s w f).launches = s.launches := rfl
@[simp] theorem updWarp_tenants (s : State) (w : Nat) (f : Warp → Warp) : (updWarp s w f).tenants = s.tenants := rfl
@[simp] theorem updWarp_packets (s : State) (w : Nat) (f : Warp → Warp) : (updWarp s w f).packets = s.packets := rfl
@[simp] theorem updWarp_dies (s : State) (w : Nat) (f : Warp → Warp) : (updWarp s w f).dies = s.dies := rfl
@[simp] theorem updWarp_cores (s : State) (w : Nat) (f : Warp → Warp) : (updWarp s w f).cores = s.cores := rfl
@[simp] theorem updWarp_yards (s : State) (w : Nat) (f : Warp → Warp) : (updWarp s w f).yards = s.yards := rfl
@[simp] theorem updWarp_part (s : State) (w : Nat) (f : Warp → Warp) : (updWarp s w f).part = s.part := rfl
@[simp] theorem updWarp_retries (s : State) (w : Nat) (f : Warp → Warp) : (updWarp s w f).retries = s.retries := rfl
@[simp] theorem updWarp_waiting (s : State) (w : Nat) (f : Warp → Warp) : (updWarp s w f).waiting = s.waiting := rfl
@[simp] theorem updWarp_outbox (s : State) (w : Nat) (f : Warp → Warp) : (updWarp s w f).outbox = s.outbox := rfl

/-! ## updGang -/

@[simp] theorem updGang_cycles (s : State) (g : Nat) (f : Gang → Gang) : (updGang s g f).cycles = s.cycles := rfl
@[simp] theorem updGang_ns (s : State) (g : Nat) (f : Gang → Gang) : (updGang s g f).ns = s.ns := rfl
@[simp] theorem updGang_frac (s : State) (g : Nat) (f : Gang → Gang) : (updGang s g f).frac = s.frac := rfl
@[simp] theorem updGang_agenda (s : State) (g : Nat) (f : Gang → Gang) : (updGang s g f).agenda = s.agenda := rfl
@[simp] theorem updGang_fresh (s : State) (g : Nat) (f : Gang → Gang) : (updGang s g f).fresh = s.fresh := rfl
@[simp] theorem updGang_nextId (s : State) (g : Nat) (f : Gang → Gang) : (updGang s g f).nextId = s.nextId := rfl
@[simp] theorem updGang_focus (s : State) (g : Nat) (f : Gang → Gang) : (updGang s g f).focus = s.focus := rfl
@[simp] theorem updGang_feTurn (s : State) (g : Nat) (f : Gang → Gang) : (updGang s g f).feTurn = s.feTurn := rfl
@[simp] theorem updGang_mem (s : State) (g : Nat) (f : Gang → Gang) : (updGang s g f).mem = s.mem := rfl
@[simp] theorem updGang_homes (s : State) (g : Nat) (f : Gang → Gang) : (updGang s g f).homes = s.homes := rfl
@[simp] theorem updGang_l1 (s : State) (g : Nat) (f : Gang → Gang) : (updGang s g f).l1 = s.l1 := rfl
@[simp] theorem updGang_far (s : State) (g : Nat) (f : Gang → Gang) : (updGang s g f).far = s.far := rfl
@[simp] theorem updGang_pend (s : State) (g : Nat) (f : Gang → Gang) : (updGang s g f).pend = s.pend := rfl
@[simp] theorem updGang_ops (s : State) (g : Nat) (f : Gang → Gang) : (updGang s g f).ops = s.ops := rfl
@[simp] theorem updGang_posted (s : State) (g : Nat) (f : Gang → Gang) : (updGang s g f).posted = s.posted := rfl
@[simp] theorem updGang_awaiting (s : State) (g : Nat) (f : Gang → Gang) : (updGang s g f).awaiting = s.awaiting := rfl
@[simp] theorem updGang_prefetches (s : State) (g : Nat) (f : Gang → Gang) : (updGang s g f).prefetches = s.prefetches := rfl
@[simp] theorem updGang_warps (s : State) (g : Nat) (f : Gang → Gang) : (updGang s g f).warps = s.warps := rfl
@[simp] theorem updGang_launches (s : State) (g : Nat) (f : Gang → Gang) : (updGang s g f).launches = s.launches := rfl
@[simp] theorem updGang_tenants (s : State) (g : Nat) (f : Gang → Gang) : (updGang s g f).tenants = s.tenants := rfl
@[simp] theorem updGang_packets (s : State) (g : Nat) (f : Gang → Gang) : (updGang s g f).packets = s.packets := rfl
@[simp] theorem updGang_dies (s : State) (g : Nat) (f : Gang → Gang) : (updGang s g f).dies = s.dies := rfl
@[simp] theorem updGang_cores (s : State) (g : Nat) (f : Gang → Gang) : (updGang s g f).cores = s.cores := rfl
@[simp] theorem updGang_yards (s : State) (g : Nat) (f : Gang → Gang) : (updGang s g f).yards = s.yards := rfl
@[simp] theorem updGang_part (s : State) (g : Nat) (f : Gang → Gang) : (updGang s g f).part = s.part := rfl
@[simp] theorem updGang_retries (s : State) (g : Nat) (f : Gang → Gang) : (updGang s g f).retries = s.retries := rfl
@[simp] theorem updGang_waiting (s : State) (g : Nat) (f : Gang → Gang) : (updGang s g f).waiting = s.waiting := rfl
@[simp] theorem updGang_outbox (s : State) (g : Nat) (f : Gang → Gang) : (updGang s g f).outbox = s.outbox := rfl

/-! ## updLaunch -/

@[simp] theorem updLaunch_cycles (s : State) (l : Nat) (f : Launch → Launch) : (updLaunch s l f).cycles = s.cycles := rfl
@[simp] theorem updLaunch_ns (s : State) (l : Nat) (f : Launch → Launch) : (updLaunch s l f).ns = s.ns := rfl
@[simp] theorem updLaunch_frac (s : State) (l : Nat) (f : Launch → Launch) : (updLaunch s l f).frac = s.frac := rfl
@[simp] theorem updLaunch_agenda (s : State) (l : Nat) (f : Launch → Launch) : (updLaunch s l f).agenda = s.agenda := rfl
@[simp] theorem updLaunch_fresh (s : State) (l : Nat) (f : Launch → Launch) : (updLaunch s l f).fresh = s.fresh := rfl
@[simp] theorem updLaunch_nextId (s : State) (l : Nat) (f : Launch → Launch) : (updLaunch s l f).nextId = s.nextId := rfl
@[simp] theorem updLaunch_focus (s : State) (l : Nat) (f : Launch → Launch) : (updLaunch s l f).focus = s.focus := rfl
@[simp] theorem updLaunch_feTurn (s : State) (l : Nat) (f : Launch → Launch) : (updLaunch s l f).feTurn = s.feTurn := rfl
@[simp] theorem updLaunch_mem (s : State) (l : Nat) (f : Launch → Launch) : (updLaunch s l f).mem = s.mem := rfl
@[simp] theorem updLaunch_homes (s : State) (l : Nat) (f : Launch → Launch) : (updLaunch s l f).homes = s.homes := rfl
@[simp] theorem updLaunch_l1 (s : State) (l : Nat) (f : Launch → Launch) : (updLaunch s l f).l1 = s.l1 := rfl
@[simp] theorem updLaunch_far (s : State) (l : Nat) (f : Launch → Launch) : (updLaunch s l f).far = s.far := rfl
@[simp] theorem updLaunch_pend (s : State) (l : Nat) (f : Launch → Launch) : (updLaunch s l f).pend = s.pend := rfl
@[simp] theorem updLaunch_ops (s : State) (l : Nat) (f : Launch → Launch) : (updLaunch s l f).ops = s.ops := rfl
@[simp] theorem updLaunch_posted (s : State) (l : Nat) (f : Launch → Launch) : (updLaunch s l f).posted = s.posted := rfl
@[simp] theorem updLaunch_awaiting (s : State) (l : Nat) (f : Launch → Launch) : (updLaunch s l f).awaiting = s.awaiting := rfl
@[simp] theorem updLaunch_prefetches (s : State) (l : Nat) (f : Launch → Launch) : (updLaunch s l f).prefetches = s.prefetches := rfl
@[simp] theorem updLaunch_warps (s : State) (l : Nat) (f : Launch → Launch) : (updLaunch s l f).warps = s.warps := rfl
@[simp] theorem updLaunch_gangs (s : State) (l : Nat) (f : Launch → Launch) : (updLaunch s l f).gangs = s.gangs := rfl
@[simp] theorem updLaunch_tenants (s : State) (l : Nat) (f : Launch → Launch) : (updLaunch s l f).tenants = s.tenants := rfl
@[simp] theorem updLaunch_packets (s : State) (l : Nat) (f : Launch → Launch) : (updLaunch s l f).packets = s.packets := rfl
@[simp] theorem updLaunch_dies (s : State) (l : Nat) (f : Launch → Launch) : (updLaunch s l f).dies = s.dies := rfl
@[simp] theorem updLaunch_cores (s : State) (l : Nat) (f : Launch → Launch) : (updLaunch s l f).cores = s.cores := rfl
@[simp] theorem updLaunch_yards (s : State) (l : Nat) (f : Launch → Launch) : (updLaunch s l f).yards = s.yards := rfl
@[simp] theorem updLaunch_part (s : State) (l : Nat) (f : Launch → Launch) : (updLaunch s l f).part = s.part := rfl
@[simp] theorem updLaunch_retries (s : State) (l : Nat) (f : Launch → Launch) : (updLaunch s l f).retries = s.retries := rfl
@[simp] theorem updLaunch_waiting (s : State) (l : Nat) (f : Launch → Launch) : (updLaunch s l f).waiting = s.waiting := rfl
@[simp] theorem updLaunch_outbox (s : State) (l : Nat) (f : Launch → Launch) : (updLaunch s l f).outbox = s.outbox := rfl

/-! ## updTenant -/

@[simp] theorem updTenant_cycles (s : State) (t : Nat) (f : Tenant → Tenant) : (updTenant s t f).cycles = s.cycles := rfl
@[simp] theorem updTenant_ns (s : State) (t : Nat) (f : Tenant → Tenant) : (updTenant s t f).ns = s.ns := rfl
@[simp] theorem updTenant_frac (s : State) (t : Nat) (f : Tenant → Tenant) : (updTenant s t f).frac = s.frac := rfl
@[simp] theorem updTenant_agenda (s : State) (t : Nat) (f : Tenant → Tenant) : (updTenant s t f).agenda = s.agenda := rfl
@[simp] theorem updTenant_fresh (s : State) (t : Nat) (f : Tenant → Tenant) : (updTenant s t f).fresh = s.fresh := rfl
@[simp] theorem updTenant_nextId (s : State) (t : Nat) (f : Tenant → Tenant) : (updTenant s t f).nextId = s.nextId := rfl
@[simp] theorem updTenant_focus (s : State) (t : Nat) (f : Tenant → Tenant) : (updTenant s t f).focus = s.focus := rfl
@[simp] theorem updTenant_feTurn (s : State) (t : Nat) (f : Tenant → Tenant) : (updTenant s t f).feTurn = s.feTurn := rfl
@[simp] theorem updTenant_mem (s : State) (t : Nat) (f : Tenant → Tenant) : (updTenant s t f).mem = s.mem := rfl
@[simp] theorem updTenant_homes (s : State) (t : Nat) (f : Tenant → Tenant) : (updTenant s t f).homes = s.homes := rfl
@[simp] theorem updTenant_l1 (s : State) (t : Nat) (f : Tenant → Tenant) : (updTenant s t f).l1 = s.l1 := rfl
@[simp] theorem updTenant_far (s : State) (t : Nat) (f : Tenant → Tenant) : (updTenant s t f).far = s.far := rfl
@[simp] theorem updTenant_pend (s : State) (t : Nat) (f : Tenant → Tenant) : (updTenant s t f).pend = s.pend := rfl
@[simp] theorem updTenant_ops (s : State) (t : Nat) (f : Tenant → Tenant) : (updTenant s t f).ops = s.ops := rfl
@[simp] theorem updTenant_posted (s : State) (t : Nat) (f : Tenant → Tenant) : (updTenant s t f).posted = s.posted := rfl
@[simp] theorem updTenant_awaiting (s : State) (t : Nat) (f : Tenant → Tenant) : (updTenant s t f).awaiting = s.awaiting := rfl
@[simp] theorem updTenant_prefetches (s : State) (t : Nat) (f : Tenant → Tenant) : (updTenant s t f).prefetches = s.prefetches := rfl
@[simp] theorem updTenant_warps (s : State) (t : Nat) (f : Tenant → Tenant) : (updTenant s t f).warps = s.warps := rfl
@[simp] theorem updTenant_gangs (s : State) (t : Nat) (f : Tenant → Tenant) : (updTenant s t f).gangs = s.gangs := rfl
@[simp] theorem updTenant_launches (s : State) (t : Nat) (f : Tenant → Tenant) : (updTenant s t f).launches = s.launches := rfl
@[simp] theorem updTenant_packets (s : State) (t : Nat) (f : Tenant → Tenant) : (updTenant s t f).packets = s.packets := rfl
@[simp] theorem updTenant_dies (s : State) (t : Nat) (f : Tenant → Tenant) : (updTenant s t f).dies = s.dies := rfl
@[simp] theorem updTenant_cores (s : State) (t : Nat) (f : Tenant → Tenant) : (updTenant s t f).cores = s.cores := rfl
@[simp] theorem updTenant_yards (s : State) (t : Nat) (f : Tenant → Tenant) : (updTenant s t f).yards = s.yards := rfl
@[simp] theorem updTenant_part (s : State) (t : Nat) (f : Tenant → Tenant) : (updTenant s t f).part = s.part := rfl
@[simp] theorem updTenant_retries (s : State) (t : Nat) (f : Tenant → Tenant) : (updTenant s t f).retries = s.retries := rfl
@[simp] theorem updTenant_waiting (s : State) (t : Nat) (f : Tenant → Tenant) : (updTenant s t f).waiting = s.waiting := rfl
@[simp] theorem updTenant_outbox (s : State) (t : Nat) (f : Tenant → Tenant) : (updTenant s t f).outbox = s.outbox := rfl

/-! ## updOp -/

@[simp] theorem updOp_cycles (s : State) (o : Nat) (f : Op → Op) : (updOp s o f).cycles = s.cycles := rfl
@[simp] theorem updOp_ns (s : State) (o : Nat) (f : Op → Op) : (updOp s o f).ns = s.ns := rfl
@[simp] theorem updOp_frac (s : State) (o : Nat) (f : Op → Op) : (updOp s o f).frac = s.frac := rfl
@[simp] theorem updOp_agenda (s : State) (o : Nat) (f : Op → Op) : (updOp s o f).agenda = s.agenda := rfl
@[simp] theorem updOp_fresh (s : State) (o : Nat) (f : Op → Op) : (updOp s o f).fresh = s.fresh := rfl
@[simp] theorem updOp_nextId (s : State) (o : Nat) (f : Op → Op) : (updOp s o f).nextId = s.nextId := rfl
@[simp] theorem updOp_focus (s : State) (o : Nat) (f : Op → Op) : (updOp s o f).focus = s.focus := rfl
@[simp] theorem updOp_feTurn (s : State) (o : Nat) (f : Op → Op) : (updOp s o f).feTurn = s.feTurn := rfl
@[simp] theorem updOp_mem (s : State) (o : Nat) (f : Op → Op) : (updOp s o f).mem = s.mem := rfl
@[simp] theorem updOp_homes (s : State) (o : Nat) (f : Op → Op) : (updOp s o f).homes = s.homes := rfl
@[simp] theorem updOp_l1 (s : State) (o : Nat) (f : Op → Op) : (updOp s o f).l1 = s.l1 := rfl
@[simp] theorem updOp_far (s : State) (o : Nat) (f : Op → Op) : (updOp s o f).far = s.far := rfl
@[simp] theorem updOp_pend (s : State) (o : Nat) (f : Op → Op) : (updOp s o f).pend = s.pend := rfl
@[simp] theorem updOp_posted (s : State) (o : Nat) (f : Op → Op) : (updOp s o f).posted = s.posted := rfl
@[simp] theorem updOp_awaiting (s : State) (o : Nat) (f : Op → Op) : (updOp s o f).awaiting = s.awaiting := rfl
@[simp] theorem updOp_prefetches (s : State) (o : Nat) (f : Op → Op) : (updOp s o f).prefetches = s.prefetches := rfl
@[simp] theorem updOp_warps (s : State) (o : Nat) (f : Op → Op) : (updOp s o f).warps = s.warps := rfl
@[simp] theorem updOp_gangs (s : State) (o : Nat) (f : Op → Op) : (updOp s o f).gangs = s.gangs := rfl
@[simp] theorem updOp_launches (s : State) (o : Nat) (f : Op → Op) : (updOp s o f).launches = s.launches := rfl
@[simp] theorem updOp_tenants (s : State) (o : Nat) (f : Op → Op) : (updOp s o f).tenants = s.tenants := rfl
@[simp] theorem updOp_packets (s : State) (o : Nat) (f : Op → Op) : (updOp s o f).packets = s.packets := rfl
@[simp] theorem updOp_dies (s : State) (o : Nat) (f : Op → Op) : (updOp s o f).dies = s.dies := rfl
@[simp] theorem updOp_cores (s : State) (o : Nat) (f : Op → Op) : (updOp s o f).cores = s.cores := rfl
@[simp] theorem updOp_yards (s : State) (o : Nat) (f : Op → Op) : (updOp s o f).yards = s.yards := rfl
@[simp] theorem updOp_part (s : State) (o : Nat) (f : Op → Op) : (updOp s o f).part = s.part := rfl
@[simp] theorem updOp_retries (s : State) (o : Nat) (f : Op → Op) : (updOp s o f).retries = s.retries := rfl
@[simp] theorem updOp_waiting (s : State) (o : Nat) (f : Op → Op) : (updOp s o f).waiting = s.waiting := rfl
@[simp] theorem updOp_outbox (s : State) (o : Nat) (f : Op → Op) : (updOp s o f).outbox = s.outbox := rfl

/-! ## setCore -/

@[simp] theorem setCore_cycles (s : State) (c : Nat) (x : Core) : (setCore s c x).cycles = s.cycles := rfl
@[simp] theorem setCore_ns (s : State) (c : Nat) (x : Core) : (setCore s c x).ns = s.ns := rfl
@[simp] theorem setCore_frac (s : State) (c : Nat) (x : Core) : (setCore s c x).frac = s.frac := rfl
@[simp] theorem setCore_agenda (s : State) (c : Nat) (x : Core) : (setCore s c x).agenda = s.agenda := rfl
@[simp] theorem setCore_fresh (s : State) (c : Nat) (x : Core) : (setCore s c x).fresh = s.fresh := rfl
@[simp] theorem setCore_nextId (s : State) (c : Nat) (x : Core) : (setCore s c x).nextId = s.nextId := rfl
@[simp] theorem setCore_focus (s : State) (c : Nat) (x : Core) : (setCore s c x).focus = s.focus := rfl
@[simp] theorem setCore_feTurn (s : State) (c : Nat) (x : Core) : (setCore s c x).feTurn = s.feTurn := rfl
@[simp] theorem setCore_mem (s : State) (c : Nat) (x : Core) : (setCore s c x).mem = s.mem := rfl
@[simp] theorem setCore_homes (s : State) (c : Nat) (x : Core) : (setCore s c x).homes = s.homes := rfl
@[simp] theorem setCore_l1 (s : State) (c : Nat) (x : Core) : (setCore s c x).l1 = s.l1 := rfl
@[simp] theorem setCore_far (s : State) (c : Nat) (x : Core) : (setCore s c x).far = s.far := rfl
@[simp] theorem setCore_pend (s : State) (c : Nat) (x : Core) : (setCore s c x).pend = s.pend := rfl
@[simp] theorem setCore_ops (s : State) (c : Nat) (x : Core) : (setCore s c x).ops = s.ops := rfl
@[simp] theorem setCore_posted (s : State) (c : Nat) (x : Core) : (setCore s c x).posted = s.posted := rfl
@[simp] theorem setCore_awaiting (s : State) (c : Nat) (x : Core) : (setCore s c x).awaiting = s.awaiting := rfl
@[simp] theorem setCore_prefetches (s : State) (c : Nat) (x : Core) : (setCore s c x).prefetches = s.prefetches := rfl
@[simp] theorem setCore_warps (s : State) (c : Nat) (x : Core) : (setCore s c x).warps = s.warps := rfl
@[simp] theorem setCore_gangs (s : State) (c : Nat) (x : Core) : (setCore s c x).gangs = s.gangs := rfl
@[simp] theorem setCore_launches (s : State) (c : Nat) (x : Core) : (setCore s c x).launches = s.launches := rfl
@[simp] theorem setCore_tenants (s : State) (c : Nat) (x : Core) : (setCore s c x).tenants = s.tenants := rfl
@[simp] theorem setCore_packets (s : State) (c : Nat) (x : Core) : (setCore s c x).packets = s.packets := rfl
@[simp] theorem setCore_dies (s : State) (c : Nat) (x : Core) : (setCore s c x).dies = s.dies := rfl
@[simp] theorem setCore_yards (s : State) (c : Nat) (x : Core) : (setCore s c x).yards = s.yards := rfl
@[simp] theorem setCore_part (s : State) (c : Nat) (x : Core) : (setCore s c x).part = s.part := rfl
@[simp] theorem setCore_retries (s : State) (c : Nat) (x : Core) : (setCore s c x).retries = s.retries := rfl
@[simp] theorem setCore_waiting (s : State) (c : Nat) (x : Core) : (setCore s c x).waiting = s.waiting := rfl
@[simp] theorem setCore_outbox (s : State) (c : Nat) (x : Core) : (setCore s c x).outbox = s.outbox := rfl

/-! ## setDie -/

@[simp] theorem setDie_cycles (s : State) (d : Nat) (x : Die) : (setDie s d x).cycles = s.cycles := rfl
@[simp] theorem setDie_ns (s : State) (d : Nat) (x : Die) : (setDie s d x).ns = s.ns := rfl
@[simp] theorem setDie_frac (s : State) (d : Nat) (x : Die) : (setDie s d x).frac = s.frac := rfl
@[simp] theorem setDie_agenda (s : State) (d : Nat) (x : Die) : (setDie s d x).agenda = s.agenda := rfl
@[simp] theorem setDie_fresh (s : State) (d : Nat) (x : Die) : (setDie s d x).fresh = s.fresh := rfl
@[simp] theorem setDie_nextId (s : State) (d : Nat) (x : Die) : (setDie s d x).nextId = s.nextId := rfl
@[simp] theorem setDie_focus (s : State) (d : Nat) (x : Die) : (setDie s d x).focus = s.focus := rfl
@[simp] theorem setDie_feTurn (s : State) (d : Nat) (x : Die) : (setDie s d x).feTurn = s.feTurn := rfl
@[simp] theorem setDie_mem (s : State) (d : Nat) (x : Die) : (setDie s d x).mem = s.mem := rfl
@[simp] theorem setDie_homes (s : State) (d : Nat) (x : Die) : (setDie s d x).homes = s.homes := rfl
@[simp] theorem setDie_l1 (s : State) (d : Nat) (x : Die) : (setDie s d x).l1 = s.l1 := rfl
@[simp] theorem setDie_far (s : State) (d : Nat) (x : Die) : (setDie s d x).far = s.far := rfl
@[simp] theorem setDie_pend (s : State) (d : Nat) (x : Die) : (setDie s d x).pend = s.pend := rfl
@[simp] theorem setDie_ops (s : State) (d : Nat) (x : Die) : (setDie s d x).ops = s.ops := rfl
@[simp] theorem setDie_posted (s : State) (d : Nat) (x : Die) : (setDie s d x).posted = s.posted := rfl
@[simp] theorem setDie_awaiting (s : State) (d : Nat) (x : Die) : (setDie s d x).awaiting = s.awaiting := rfl
@[simp] theorem setDie_prefetches (s : State) (d : Nat) (x : Die) : (setDie s d x).prefetches = s.prefetches := rfl
@[simp] theorem setDie_warps (s : State) (d : Nat) (x : Die) : (setDie s d x).warps = s.warps := rfl
@[simp] theorem setDie_gangs (s : State) (d : Nat) (x : Die) : (setDie s d x).gangs = s.gangs := rfl
@[simp] theorem setDie_launches (s : State) (d : Nat) (x : Die) : (setDie s d x).launches = s.launches := rfl
@[simp] theorem setDie_tenants (s : State) (d : Nat) (x : Die) : (setDie s d x).tenants = s.tenants := rfl
@[simp] theorem setDie_packets (s : State) (d : Nat) (x : Die) : (setDie s d x).packets = s.packets := rfl
@[simp] theorem setDie_cores (s : State) (d : Nat) (x : Die) : (setDie s d x).cores = s.cores := rfl
@[simp] theorem setDie_yards (s : State) (d : Nat) (x : Die) : (setDie s d x).yards = s.yards := rfl
@[simp] theorem setDie_part (s : State) (d : Nat) (x : Die) : (setDie s d x).part = s.part := rfl
@[simp] theorem setDie_retries (s : State) (d : Nat) (x : Die) : (setDie s d x).retries = s.retries := rfl
@[simp] theorem setDie_waiting (s : State) (d : Nat) (x : Die) : (setDie s d x).waiting = s.waiting := rfl
@[simp] theorem setDie_outbox (s : State) (d : Nat) (x : Die) : (setDie s d x).outbox = s.outbox := rfl

/-! ## setHome -/

@[simp] theorem setHome_cycles (s : State) (line : Nat) (h : HomeLine) : (setHome s line h).cycles = s.cycles := rfl
@[simp] theorem setHome_ns (s : State) (line : Nat) (h : HomeLine) : (setHome s line h).ns = s.ns := rfl
@[simp] theorem setHome_frac (s : State) (line : Nat) (h : HomeLine) : (setHome s line h).frac = s.frac := rfl
@[simp] theorem setHome_agenda (s : State) (line : Nat) (h : HomeLine) : (setHome s line h).agenda = s.agenda := rfl
@[simp] theorem setHome_fresh (s : State) (line : Nat) (h : HomeLine) : (setHome s line h).fresh = s.fresh := rfl
@[simp] theorem setHome_nextId (s : State) (line : Nat) (h : HomeLine) : (setHome s line h).nextId = s.nextId := rfl
@[simp] theorem setHome_focus (s : State) (line : Nat) (h : HomeLine) : (setHome s line h).focus = s.focus := rfl
@[simp] theorem setHome_feTurn (s : State) (line : Nat) (h : HomeLine) : (setHome s line h).feTurn = s.feTurn := rfl
@[simp] theorem setHome_mem (s : State) (line : Nat) (h : HomeLine) : (setHome s line h).mem = s.mem := rfl
@[simp] theorem setHome_l1 (s : State) (line : Nat) (h : HomeLine) : (setHome s line h).l1 = s.l1 := rfl
@[simp] theorem setHome_far (s : State) (line : Nat) (h : HomeLine) : (setHome s line h).far = s.far := rfl
@[simp] theorem setHome_pend (s : State) (line : Nat) (h : HomeLine) : (setHome s line h).pend = s.pend := rfl
@[simp] theorem setHome_ops (s : State) (line : Nat) (h : HomeLine) : (setHome s line h).ops = s.ops := rfl
@[simp] theorem setHome_posted (s : State) (line : Nat) (h : HomeLine) : (setHome s line h).posted = s.posted := rfl
@[simp] theorem setHome_awaiting (s : State) (line : Nat) (h : HomeLine) : (setHome s line h).awaiting = s.awaiting := rfl
@[simp] theorem setHome_prefetches (s : State) (line : Nat) (h : HomeLine) : (setHome s line h).prefetches = s.prefetches := rfl
@[simp] theorem setHome_warps (s : State) (line : Nat) (h : HomeLine) : (setHome s line h).warps = s.warps := rfl
@[simp] theorem setHome_gangs (s : State) (line : Nat) (h : HomeLine) : (setHome s line h).gangs = s.gangs := rfl
@[simp] theorem setHome_launches (s : State) (line : Nat) (h : HomeLine) : (setHome s line h).launches = s.launches := rfl
@[simp] theorem setHome_tenants (s : State) (line : Nat) (h : HomeLine) : (setHome s line h).tenants = s.tenants := rfl
@[simp] theorem setHome_packets (s : State) (line : Nat) (h : HomeLine) : (setHome s line h).packets = s.packets := rfl
@[simp] theorem setHome_dies (s : State) (line : Nat) (h : HomeLine) : (setHome s line h).dies = s.dies := rfl
@[simp] theorem setHome_cores (s : State) (line : Nat) (h : HomeLine) : (setHome s line h).cores = s.cores := rfl
@[simp] theorem setHome_yards (s : State) (line : Nat) (h : HomeLine) : (setHome s line h).yards = s.yards := rfl
@[simp] theorem setHome_part (s : State) (line : Nat) (h : HomeLine) : (setHome s line h).part = s.part := rfl
@[simp] theorem setHome_retries (s : State) (line : Nat) (h : HomeLine) : (setHome s line h).retries = s.retries := rfl
@[simp] theorem setHome_waiting (s : State) (line : Nat) (h : HomeLine) : (setHome s line h).waiting = s.waiting := rfl
@[simp] theorem setHome_outbox (s : State) (line : Nat) (h : HomeLine) : (setHome s line h).outbox = s.outbox := rfl

/-! ## updStrand -/

@[simp] theorem updStrand_cycles (s : State) (r : StrandRef) (f : Strand → Strand) : (updStrand s r f).cycles = s.cycles := rfl
@[simp] theorem updStrand_ns (s : State) (r : StrandRef) (f : Strand → Strand) : (updStrand s r f).ns = s.ns := rfl
@[simp] theorem updStrand_frac (s : State) (r : StrandRef) (f : Strand → Strand) : (updStrand s r f).frac = s.frac := rfl
@[simp] theorem updStrand_agenda (s : State) (r : StrandRef) (f : Strand → Strand) : (updStrand s r f).agenda = s.agenda := rfl
@[simp] theorem updStrand_fresh (s : State) (r : StrandRef) (f : Strand → Strand) : (updStrand s r f).fresh = s.fresh := rfl
@[simp] theorem updStrand_nextId (s : State) (r : StrandRef) (f : Strand → Strand) : (updStrand s r f).nextId = s.nextId := rfl
@[simp] theorem updStrand_focus (s : State) (r : StrandRef) (f : Strand → Strand) : (updStrand s r f).focus = s.focus := rfl
@[simp] theorem updStrand_feTurn (s : State) (r : StrandRef) (f : Strand → Strand) : (updStrand s r f).feTurn = s.feTurn := rfl
@[simp] theorem updStrand_mem (s : State) (r : StrandRef) (f : Strand → Strand) : (updStrand s r f).mem = s.mem := rfl
@[simp] theorem updStrand_homes (s : State) (r : StrandRef) (f : Strand → Strand) : (updStrand s r f).homes = s.homes := rfl
@[simp] theorem updStrand_l1 (s : State) (r : StrandRef) (f : Strand → Strand) : (updStrand s r f).l1 = s.l1 := rfl
@[simp] theorem updStrand_far (s : State) (r : StrandRef) (f : Strand → Strand) : (updStrand s r f).far = s.far := rfl
@[simp] theorem updStrand_pend (s : State) (r : StrandRef) (f : Strand → Strand) : (updStrand s r f).pend = s.pend := rfl
@[simp] theorem updStrand_ops (s : State) (r : StrandRef) (f : Strand → Strand) : (updStrand s r f).ops = s.ops := rfl
@[simp] theorem updStrand_posted (s : State) (r : StrandRef) (f : Strand → Strand) : (updStrand s r f).posted = s.posted := rfl
@[simp] theorem updStrand_awaiting (s : State) (r : StrandRef) (f : Strand → Strand) : (updStrand s r f).awaiting = s.awaiting := rfl
@[simp] theorem updStrand_prefetches (s : State) (r : StrandRef) (f : Strand → Strand) : (updStrand s r f).prefetches = s.prefetches := rfl
@[simp] theorem updStrand_gangs (s : State) (r : StrandRef) (f : Strand → Strand) : (updStrand s r f).gangs = s.gangs := rfl
@[simp] theorem updStrand_launches (s : State) (r : StrandRef) (f : Strand → Strand) : (updStrand s r f).launches = s.launches := rfl
@[simp] theorem updStrand_tenants (s : State) (r : StrandRef) (f : Strand → Strand) : (updStrand s r f).tenants = s.tenants := rfl
@[simp] theorem updStrand_packets (s : State) (r : StrandRef) (f : Strand → Strand) : (updStrand s r f).packets = s.packets := rfl
@[simp] theorem updStrand_dies (s : State) (r : StrandRef) (f : Strand → Strand) : (updStrand s r f).dies = s.dies := rfl
@[simp] theorem updStrand_cores (s : State) (r : StrandRef) (f : Strand → Strand) : (updStrand s r f).cores = s.cores := rfl
@[simp] theorem updStrand_yards (s : State) (r : StrandRef) (f : Strand → Strand) : (updStrand s r f).yards = s.yards := rfl
@[simp] theorem updStrand_part (s : State) (r : StrandRef) (f : Strand → Strand) : (updStrand s r f).part = s.part := rfl
@[simp] theorem updStrand_retries (s : State) (r : StrandRef) (f : Strand → Strand) : (updStrand s r f).retries = s.retries := rfl
@[simp] theorem updStrand_waiting (s : State) (r : StrandRef) (f : Strand → Strand) : (updStrand s r f).waiting = s.waiting := rfl
@[simp] theorem updStrand_outbox (s : State) (r : StrandRef) (f : Strand → Strand) : (updStrand s r f).outbox = s.outbox := rfl

/-! ## updTeam -/

@[simp] theorem updTeam_cycles (s : State) (gang team : Nat) (f : Team → Team) : (updTeam s gang team f).cycles = s.cycles := rfl
@[simp] theorem updTeam_ns (s : State) (gang team : Nat) (f : Team → Team) : (updTeam s gang team f).ns = s.ns := rfl
@[simp] theorem updTeam_frac (s : State) (gang team : Nat) (f : Team → Team) : (updTeam s gang team f).frac = s.frac := rfl
@[simp] theorem updTeam_agenda (s : State) (gang team : Nat) (f : Team → Team) : (updTeam s gang team f).agenda = s.agenda := rfl
@[simp] theorem updTeam_fresh (s : State) (gang team : Nat) (f : Team → Team) : (updTeam s gang team f).fresh = s.fresh := rfl
@[simp] theorem updTeam_nextId (s : State) (gang team : Nat) (f : Team → Team) : (updTeam s gang team f).nextId = s.nextId := rfl
@[simp] theorem updTeam_focus (s : State) (gang team : Nat) (f : Team → Team) : (updTeam s gang team f).focus = s.focus := rfl
@[simp] theorem updTeam_feTurn (s : State) (gang team : Nat) (f : Team → Team) : (updTeam s gang team f).feTurn = s.feTurn := rfl
@[simp] theorem updTeam_mem (s : State) (gang team : Nat) (f : Team → Team) : (updTeam s gang team f).mem = s.mem := rfl
@[simp] theorem updTeam_homes (s : State) (gang team : Nat) (f : Team → Team) : (updTeam s gang team f).homes = s.homes := rfl
@[simp] theorem updTeam_l1 (s : State) (gang team : Nat) (f : Team → Team) : (updTeam s gang team f).l1 = s.l1 := rfl
@[simp] theorem updTeam_far (s : State) (gang team : Nat) (f : Team → Team) : (updTeam s gang team f).far = s.far := rfl
@[simp] theorem updTeam_pend (s : State) (gang team : Nat) (f : Team → Team) : (updTeam s gang team f).pend = s.pend := rfl
@[simp] theorem updTeam_ops (s : State) (gang team : Nat) (f : Team → Team) : (updTeam s gang team f).ops = s.ops := rfl
@[simp] theorem updTeam_posted (s : State) (gang team : Nat) (f : Team → Team) : (updTeam s gang team f).posted = s.posted := rfl
@[simp] theorem updTeam_awaiting (s : State) (gang team : Nat) (f : Team → Team) : (updTeam s gang team f).awaiting = s.awaiting := rfl
@[simp] theorem updTeam_prefetches (s : State) (gang team : Nat) (f : Team → Team) : (updTeam s gang team f).prefetches = s.prefetches := rfl
@[simp] theorem updTeam_warps (s : State) (gang team : Nat) (f : Team → Team) : (updTeam s gang team f).warps = s.warps := rfl
@[simp] theorem updTeam_launches (s : State) (gang team : Nat) (f : Team → Team) : (updTeam s gang team f).launches = s.launches := rfl
@[simp] theorem updTeam_tenants (s : State) (gang team : Nat) (f : Team → Team) : (updTeam s gang team f).tenants = s.tenants := rfl
@[simp] theorem updTeam_packets (s : State) (gang team : Nat) (f : Team → Team) : (updTeam s gang team f).packets = s.packets := rfl
@[simp] theorem updTeam_dies (s : State) (gang team : Nat) (f : Team → Team) : (updTeam s gang team f).dies = s.dies := rfl
@[simp] theorem updTeam_cores (s : State) (gang team : Nat) (f : Team → Team) : (updTeam s gang team f).cores = s.cores := rfl
@[simp] theorem updTeam_yards (s : State) (gang team : Nat) (f : Team → Team) : (updTeam s gang team f).yards = s.yards := rfl
@[simp] theorem updTeam_part (s : State) (gang team : Nat) (f : Team → Team) : (updTeam s gang team f).part = s.part := rfl
@[simp] theorem updTeam_retries (s : State) (gang team : Nat) (f : Team → Team) : (updTeam s gang team f).retries = s.retries := rfl
@[simp] theorem updTeam_waiting (s : State) (gang team : Nat) (f : Team → Team) : (updTeam s gang team f).waiting = s.waiting := rfl
@[simp] theorem updTeam_outbox (s : State) (gang team : Nat) (f : Team → Team) : (updTeam s gang team f).outbox = s.outbox := rfl

/-! ## setQueue -/

@[simp] theorem setQueue_cycles (s : State) (t : Nat) (x : Queue) : (setQueue s t x).cycles = s.cycles := rfl
@[simp] theorem setQueue_ns (s : State) (t : Nat) (x : Queue) : (setQueue s t x).ns = s.ns := rfl
@[simp] theorem setQueue_frac (s : State) (t : Nat) (x : Queue) : (setQueue s t x).frac = s.frac := rfl
@[simp] theorem setQueue_agenda (s : State) (t : Nat) (x : Queue) : (setQueue s t x).agenda = s.agenda := rfl
@[simp] theorem setQueue_fresh (s : State) (t : Nat) (x : Queue) : (setQueue s t x).fresh = s.fresh := rfl
@[simp] theorem setQueue_nextId (s : State) (t : Nat) (x : Queue) : (setQueue s t x).nextId = s.nextId := rfl
@[simp] theorem setQueue_focus (s : State) (t : Nat) (x : Queue) : (setQueue s t x).focus = s.focus := rfl
@[simp] theorem setQueue_feTurn (s : State) (t : Nat) (x : Queue) : (setQueue s t x).feTurn = s.feTurn := rfl
@[simp] theorem setQueue_mem (s : State) (t : Nat) (x : Queue) : (setQueue s t x).mem = s.mem := rfl
@[simp] theorem setQueue_homes (s : State) (t : Nat) (x : Queue) : (setQueue s t x).homes = s.homes := rfl
@[simp] theorem setQueue_l1 (s : State) (t : Nat) (x : Queue) : (setQueue s t x).l1 = s.l1 := rfl
@[simp] theorem setQueue_far (s : State) (t : Nat) (x : Queue) : (setQueue s t x).far = s.far := rfl
@[simp] theorem setQueue_pend (s : State) (t : Nat) (x : Queue) : (setQueue s t x).pend = s.pend := rfl
@[simp] theorem setQueue_ops (s : State) (t : Nat) (x : Queue) : (setQueue s t x).ops = s.ops := rfl
@[simp] theorem setQueue_posted (s : State) (t : Nat) (x : Queue) : (setQueue s t x).posted = s.posted := rfl
@[simp] theorem setQueue_awaiting (s : State) (t : Nat) (x : Queue) : (setQueue s t x).awaiting = s.awaiting := rfl
@[simp] theorem setQueue_prefetches (s : State) (t : Nat) (x : Queue) : (setQueue s t x).prefetches = s.prefetches := rfl
@[simp] theorem setQueue_warps (s : State) (t : Nat) (x : Queue) : (setQueue s t x).warps = s.warps := rfl
@[simp] theorem setQueue_gangs (s : State) (t : Nat) (x : Queue) : (setQueue s t x).gangs = s.gangs := rfl
@[simp] theorem setQueue_launches (s : State) (t : Nat) (x : Queue) : (setQueue s t x).launches = s.launches := rfl
@[simp] theorem setQueue_packets (s : State) (t : Nat) (x : Queue) : (setQueue s t x).packets = s.packets := rfl
@[simp] theorem setQueue_dies (s : State) (t : Nat) (x : Queue) : (setQueue s t x).dies = s.dies := rfl
@[simp] theorem setQueue_cores (s : State) (t : Nat) (x : Queue) : (setQueue s t x).cores = s.cores := rfl
@[simp] theorem setQueue_yards (s : State) (t : Nat) (x : Queue) : (setQueue s t x).yards = s.yards := rfl
@[simp] theorem setQueue_part (s : State) (t : Nat) (x : Queue) : (setQueue s t x).part = s.part := rfl
@[simp] theorem setQueue_retries (s : State) (t : Nat) (x : Queue) : (setQueue s t x).retries = s.retries := rfl
@[simp] theorem setQueue_waiting (s : State) (t : Nat) (x : Queue) : (setQueue s t x).waiting = s.waiting := rfl
@[simp] theorem setQueue_outbox (s : State) (t : Nat) (x : Queue) : (setQueue s t x).outbox = s.outbox := rfl

/-! ## setAttest -/

@[simp] theorem setAttest_cycles (s : State) (t : Nat) (a : Attest) : (setAttest s t a).cycles = s.cycles := rfl
@[simp] theorem setAttest_ns (s : State) (t : Nat) (a : Attest) : (setAttest s t a).ns = s.ns := rfl
@[simp] theorem setAttest_frac (s : State) (t : Nat) (a : Attest) : (setAttest s t a).frac = s.frac := rfl
@[simp] theorem setAttest_agenda (s : State) (t : Nat) (a : Attest) : (setAttest s t a).agenda = s.agenda := rfl
@[simp] theorem setAttest_fresh (s : State) (t : Nat) (a : Attest) : (setAttest s t a).fresh = s.fresh := rfl
@[simp] theorem setAttest_nextId (s : State) (t : Nat) (a : Attest) : (setAttest s t a).nextId = s.nextId := rfl
@[simp] theorem setAttest_focus (s : State) (t : Nat) (a : Attest) : (setAttest s t a).focus = s.focus := rfl
@[simp] theorem setAttest_feTurn (s : State) (t : Nat) (a : Attest) : (setAttest s t a).feTurn = s.feTurn := rfl
@[simp] theorem setAttest_mem (s : State) (t : Nat) (a : Attest) : (setAttest s t a).mem = s.mem := rfl
@[simp] theorem setAttest_homes (s : State) (t : Nat) (a : Attest) : (setAttest s t a).homes = s.homes := rfl
@[simp] theorem setAttest_l1 (s : State) (t : Nat) (a : Attest) : (setAttest s t a).l1 = s.l1 := rfl
@[simp] theorem setAttest_far (s : State) (t : Nat) (a : Attest) : (setAttest s t a).far = s.far := rfl
@[simp] theorem setAttest_pend (s : State) (t : Nat) (a : Attest) : (setAttest s t a).pend = s.pend := rfl
@[simp] theorem setAttest_ops (s : State) (t : Nat) (a : Attest) : (setAttest s t a).ops = s.ops := rfl
@[simp] theorem setAttest_posted (s : State) (t : Nat) (a : Attest) : (setAttest s t a).posted = s.posted := rfl
@[simp] theorem setAttest_awaiting (s : State) (t : Nat) (a : Attest) : (setAttest s t a).awaiting = s.awaiting := rfl
@[simp] theorem setAttest_prefetches (s : State) (t : Nat) (a : Attest) : (setAttest s t a).prefetches = s.prefetches := rfl
@[simp] theorem setAttest_warps (s : State) (t : Nat) (a : Attest) : (setAttest s t a).warps = s.warps := rfl
@[simp] theorem setAttest_gangs (s : State) (t : Nat) (a : Attest) : (setAttest s t a).gangs = s.gangs := rfl
@[simp] theorem setAttest_launches (s : State) (t : Nat) (a : Attest) : (setAttest s t a).launches = s.launches := rfl
@[simp] theorem setAttest_tenants (s : State) (t : Nat) (a : Attest) : (setAttest s t a).tenants = s.tenants := rfl
@[simp] theorem setAttest_packets (s : State) (t : Nat) (a : Attest) : (setAttest s t a).packets = s.packets := rfl
@[simp] theorem setAttest_dies (s : State) (t : Nat) (a : Attest) : (setAttest s t a).dies = s.dies := rfl
@[simp] theorem setAttest_cores (s : State) (t : Nat) (a : Attest) : (setAttest s t a).cores = s.cores := rfl
@[simp] theorem setAttest_yards (s : State) (t : Nat) (a : Attest) : (setAttest s t a).yards = s.yards := rfl
@[simp] theorem setAttest_retries (s : State) (t : Nat) (a : Attest) : (setAttest s t a).retries = s.retries := rfl
@[simp] theorem setAttest_waiting (s : State) (t : Nat) (a : Attest) : (setAttest s t a).waiting = s.waiting := rfl
@[simp] theorem setAttest_outbox (s : State) (t : Nat) (a : Attest) : (setAttest s t a).outbox = s.outbox := rfl

/-! ## updPacket -/

@[simp] theorem updPacket_cycles (s : State) (id : Nat) (f : Packet → Packet) : (updPacket s id f).cycles = s.cycles := rfl
@[simp] theorem updPacket_ns (s : State) (id : Nat) (f : Packet → Packet) : (updPacket s id f).ns = s.ns := rfl
@[simp] theorem updPacket_frac (s : State) (id : Nat) (f : Packet → Packet) : (updPacket s id f).frac = s.frac := rfl
@[simp] theorem updPacket_agenda (s : State) (id : Nat) (f : Packet → Packet) : (updPacket s id f).agenda = s.agenda := rfl
@[simp] theorem updPacket_fresh (s : State) (id : Nat) (f : Packet → Packet) : (updPacket s id f).fresh = s.fresh := rfl
@[simp] theorem updPacket_nextId (s : State) (id : Nat) (f : Packet → Packet) : (updPacket s id f).nextId = s.nextId := rfl
@[simp] theorem updPacket_focus (s : State) (id : Nat) (f : Packet → Packet) : (updPacket s id f).focus = s.focus := rfl
@[simp] theorem updPacket_feTurn (s : State) (id : Nat) (f : Packet → Packet) : (updPacket s id f).feTurn = s.feTurn := rfl
@[simp] theorem updPacket_mem (s : State) (id : Nat) (f : Packet → Packet) : (updPacket s id f).mem = s.mem := rfl
@[simp] theorem updPacket_homes (s : State) (id : Nat) (f : Packet → Packet) : (updPacket s id f).homes = s.homes := rfl
@[simp] theorem updPacket_l1 (s : State) (id : Nat) (f : Packet → Packet) : (updPacket s id f).l1 = s.l1 := rfl
@[simp] theorem updPacket_far (s : State) (id : Nat) (f : Packet → Packet) : (updPacket s id f).far = s.far := rfl
@[simp] theorem updPacket_pend (s : State) (id : Nat) (f : Packet → Packet) : (updPacket s id f).pend = s.pend := rfl
@[simp] theorem updPacket_ops (s : State) (id : Nat) (f : Packet → Packet) : (updPacket s id f).ops = s.ops := rfl
@[simp] theorem updPacket_posted (s : State) (id : Nat) (f : Packet → Packet) : (updPacket s id f).posted = s.posted := rfl
@[simp] theorem updPacket_awaiting (s : State) (id : Nat) (f : Packet → Packet) : (updPacket s id f).awaiting = s.awaiting := rfl
@[simp] theorem updPacket_prefetches (s : State) (id : Nat) (f : Packet → Packet) : (updPacket s id f).prefetches = s.prefetches := rfl
@[simp] theorem updPacket_warps (s : State) (id : Nat) (f : Packet → Packet) : (updPacket s id f).warps = s.warps := rfl
@[simp] theorem updPacket_gangs (s : State) (id : Nat) (f : Packet → Packet) : (updPacket s id f).gangs = s.gangs := rfl
@[simp] theorem updPacket_launches (s : State) (id : Nat) (f : Packet → Packet) : (updPacket s id f).launches = s.launches := rfl
@[simp] theorem updPacket_tenants (s : State) (id : Nat) (f : Packet → Packet) : (updPacket s id f).tenants = s.tenants := rfl
@[simp] theorem updPacket_dies (s : State) (id : Nat) (f : Packet → Packet) : (updPacket s id f).dies = s.dies := rfl
@[simp] theorem updPacket_cores (s : State) (id : Nat) (f : Packet → Packet) : (updPacket s id f).cores = s.cores := rfl
@[simp] theorem updPacket_yards (s : State) (id : Nat) (f : Packet → Packet) : (updPacket s id f).yards = s.yards := rfl
@[simp] theorem updPacket_part (s : State) (id : Nat) (f : Packet → Packet) : (updPacket s id f).part = s.part := rfl
@[simp] theorem updPacket_retries (s : State) (id : Nat) (f : Packet → Packet) : (updPacket s id f).retries = s.retries := rfl
@[simp] theorem updPacket_waiting (s : State) (id : Nat) (f : Packet → Packet) : (updPacket s id f).waiting = s.waiting := rfl
@[simp] theorem updPacket_outbox (s : State) (id : Nat) (f : Packet → Packet) : (updPacket s id f).outbox = s.outbox := rfl

/-! ## setPart -/

@[simp] theorem setPart_cycles (s : State) (f : Part → Part) : (setPart s f).cycles = s.cycles := rfl
@[simp] theorem setPart_ns (s : State) (f : Part → Part) : (setPart s f).ns = s.ns := rfl
@[simp] theorem setPart_frac (s : State) (f : Part → Part) : (setPart s f).frac = s.frac := rfl
@[simp] theorem setPart_agenda (s : State) (f : Part → Part) : (setPart s f).agenda = s.agenda := rfl
@[simp] theorem setPart_fresh (s : State) (f : Part → Part) : (setPart s f).fresh = s.fresh := rfl
@[simp] theorem setPart_nextId (s : State) (f : Part → Part) : (setPart s f).nextId = s.nextId := rfl
@[simp] theorem setPart_focus (s : State) (f : Part → Part) : (setPart s f).focus = s.focus := rfl
@[simp] theorem setPart_feTurn (s : State) (f : Part → Part) : (setPart s f).feTurn = s.feTurn := rfl
@[simp] theorem setPart_mem (s : State) (f : Part → Part) : (setPart s f).mem = s.mem := rfl
@[simp] theorem setPart_homes (s : State) (f : Part → Part) : (setPart s f).homes = s.homes := rfl
@[simp] theorem setPart_l1 (s : State) (f : Part → Part) : (setPart s f).l1 = s.l1 := rfl
@[simp] theorem setPart_far (s : State) (f : Part → Part) : (setPart s f).far = s.far := rfl
@[simp] theorem setPart_pend (s : State) (f : Part → Part) : (setPart s f).pend = s.pend := rfl
@[simp] theorem setPart_ops (s : State) (f : Part → Part) : (setPart s f).ops = s.ops := rfl
@[simp] theorem setPart_posted (s : State) (f : Part → Part) : (setPart s f).posted = s.posted := rfl
@[simp] theorem setPart_awaiting (s : State) (f : Part → Part) : (setPart s f).awaiting = s.awaiting := rfl
@[simp] theorem setPart_prefetches (s : State) (f : Part → Part) : (setPart s f).prefetches = s.prefetches := rfl
@[simp] theorem setPart_warps (s : State) (f : Part → Part) : (setPart s f).warps = s.warps := rfl
@[simp] theorem setPart_gangs (s : State) (f : Part → Part) : (setPart s f).gangs = s.gangs := rfl
@[simp] theorem setPart_launches (s : State) (f : Part → Part) : (setPart s f).launches = s.launches := rfl
@[simp] theorem setPart_tenants (s : State) (f : Part → Part) : (setPart s f).tenants = s.tenants := rfl
@[simp] theorem setPart_packets (s : State) (f : Part → Part) : (setPart s f).packets = s.packets := rfl
@[simp] theorem setPart_dies (s : State) (f : Part → Part) : (setPart s f).dies = s.dies := rfl
@[simp] theorem setPart_cores (s : State) (f : Part → Part) : (setPart s f).cores = s.cores := rfl
@[simp] theorem setPart_yards (s : State) (f : Part → Part) : (setPart s f).yards = s.yards := rfl
@[simp] theorem setPart_retries (s : State) (f : Part → Part) : (setPart s f).retries = s.retries := rfl
@[simp] theorem setPart_waiting (s : State) (f : Part → Part) : (setPart s f).waiting = s.waiting := rfl
@[simp] theorem setPart_outbox (s : State) (f : Part → Part) : (setPart s f).outbox = s.outbox := rfl

/-! ## updPort -/

@[simp] theorem updPort_cycles (s : State) (i : Nat) (f : Port → Port) : (updPort s i f).cycles = s.cycles := rfl
@[simp] theorem updPort_ns (s : State) (i : Nat) (f : Port → Port) : (updPort s i f).ns = s.ns := rfl
@[simp] theorem updPort_frac (s : State) (i : Nat) (f : Port → Port) : (updPort s i f).frac = s.frac := rfl
@[simp] theorem updPort_agenda (s : State) (i : Nat) (f : Port → Port) : (updPort s i f).agenda = s.agenda := rfl
@[simp] theorem updPort_fresh (s : State) (i : Nat) (f : Port → Port) : (updPort s i f).fresh = s.fresh := rfl
@[simp] theorem updPort_nextId (s : State) (i : Nat) (f : Port → Port) : (updPort s i f).nextId = s.nextId := rfl
@[simp] theorem updPort_focus (s : State) (i : Nat) (f : Port → Port) : (updPort s i f).focus = s.focus := rfl
@[simp] theorem updPort_feTurn (s : State) (i : Nat) (f : Port → Port) : (updPort s i f).feTurn = s.feTurn := rfl
@[simp] theorem updPort_mem (s : State) (i : Nat) (f : Port → Port) : (updPort s i f).mem = s.mem := rfl
@[simp] theorem updPort_homes (s : State) (i : Nat) (f : Port → Port) : (updPort s i f).homes = s.homes := rfl
@[simp] theorem updPort_l1 (s : State) (i : Nat) (f : Port → Port) : (updPort s i f).l1 = s.l1 := rfl
@[simp] theorem updPort_far (s : State) (i : Nat) (f : Port → Port) : (updPort s i f).far = s.far := rfl
@[simp] theorem updPort_pend (s : State) (i : Nat) (f : Port → Port) : (updPort s i f).pend = s.pend := rfl
@[simp] theorem updPort_ops (s : State) (i : Nat) (f : Port → Port) : (updPort s i f).ops = s.ops := rfl
@[simp] theorem updPort_posted (s : State) (i : Nat) (f : Port → Port) : (updPort s i f).posted = s.posted := rfl
@[simp] theorem updPort_awaiting (s : State) (i : Nat) (f : Port → Port) : (updPort s i f).awaiting = s.awaiting := rfl
@[simp] theorem updPort_prefetches (s : State) (i : Nat) (f : Port → Port) : (updPort s i f).prefetches = s.prefetches := rfl
@[simp] theorem updPort_warps (s : State) (i : Nat) (f : Port → Port) : (updPort s i f).warps = s.warps := rfl
@[simp] theorem updPort_gangs (s : State) (i : Nat) (f : Port → Port) : (updPort s i f).gangs = s.gangs := rfl
@[simp] theorem updPort_launches (s : State) (i : Nat) (f : Port → Port) : (updPort s i f).launches = s.launches := rfl
@[simp] theorem updPort_tenants (s : State) (i : Nat) (f : Port → Port) : (updPort s i f).tenants = s.tenants := rfl
@[simp] theorem updPort_packets (s : State) (i : Nat) (f : Port → Port) : (updPort s i f).packets = s.packets := rfl
@[simp] theorem updPort_dies (s : State) (i : Nat) (f : Port → Port) : (updPort s i f).dies = s.dies := rfl
@[simp] theorem updPort_cores (s : State) (i : Nat) (f : Port → Port) : (updPort s i f).cores = s.cores := rfl
@[simp] theorem updPort_yards (s : State) (i : Nat) (f : Port → Port) : (updPort s i f).yards = s.yards := rfl
@[simp] theorem updPort_retries (s : State) (i : Nat) (f : Port → Port) : (updPort s i f).retries = s.retries := rfl
@[simp] theorem updPort_waiting (s : State) (i : Nat) (f : Port → Port) : (updPort s i f).waiting = s.waiting := rfl
@[simp] theorem updPort_outbox (s : State) (i : Nat) (f : Port → Port) : (updPort s i f).outbox = s.outbox := rfl

end Sys2Proof.Machine
end

