-- ==== Sys2Proof/Laws/Strands.lean ====
section
/-! SUPPORT. What the operations that every strand instruction shares do: the context it runs in, its reads, and the ways
it ends. -/

namespace Sys2Proof.Machine

/-! ## Lists -/

theorem updFirst_find?_self {α : Type} (p : α → Bool) (f : α → α) (xs : List α) (hp : ∀ x, p x = true → p (f x) = true) :
    (updFirst p f xs).find? p = (xs.find? p).map f := by
  induction xs with
  | nil => rfl
  | cons x xs ih =>
    unfold updFirst
    by_cases h : p x = true
    · simp [h, hp x h]
    · simp [h, ih]

theorem updFirst_find?_other {α : Type} (p q : α → Bool) (f : α → α) (xs : List α)
    (h : ∀ x, p x = true → q x = false ∧ q (f x) = false) : (updFirst p f xs).find? q = xs.find? q := by
  induction xs with
  | nil => rfl
  | cons x xs ih =>
    unfold updFirst
    by_cases hx : p x = true
    · simp [hx, h x hx]
    · simp only [hx, if_false, List.find?_cons, ih, Bool.false_eq_true]

theorem leastBy_eq_none {α : Type} (key : α → Nat) (xs : List α) : leastBy key xs = none ↔ xs = [] := by
  cases xs with
  | nil => simp [leastBy]
  | cons x xs =>
    simp only [leastBy, reduceCtorEq, iff_false]
    split
    · simp
    · split <;> simp

/-! ## Lanes -/

/-- A lane after a write of a set's lanes. -/
theorem lane_setLanes {α : Type} (d : α) (m : Mask) (f : Nat → α) (v : Lanes α) (l : Nat) (h : l < v.length) :
    lane d (setLanes m f v) l = if m.getLsbD l then f l else lane d v l := by
  simp [lane, setLanes, h]
@[simp] theorem setLanes_length {α : Type} (m : Mask) (f : Nat → α) (v : Lanes α) :
    (setLanes m f v).length = v.length := by simp [setLanes]

/-! ## Warps and strands -/

theorem warpOf_updWarp_self (s : State) (u : Nat) (f : Warp → Warp) (hf : ∀ w, w.uid = u → (f w).uid = u) :
    warpOf (updWarp s u f) u = (warpOf s u).map f :=
  updFirst_find?_self _ _ _ fun w h => by simp only [beq_iff_eq] at h ⊢; exact hf w h

theorem warpOf_updWarp_other (s : State) (u v : Nat) (f : Warp → Warp) (hf : ∀ w, w.uid = u → (f w).uid = u)
    (h : v ≠ u) : warpOf (updWarp s u f) v = warpOf s v :=
  updFirst_find?_other _ _ _ _ fun w hw => by
    simp only [beq_iff_eq, beq_eq_false_iff_ne] at hw ⊢
    exact ⟨by omega, by rw [hf w hw]; omega⟩

theorem warpOf_uid {s : State} {u : Nat} {w : Warp} (h : warpOf s u = some w) : w.uid = u := by
  have := List.find?_some h
  simpa using this

theorem Warp.strandAt_updStrand_self (w : Warp) (no : Nat) (k k' : Strand) (h : w.strandAt no = some k)
    (hk : no = kernelNo ∨ k'.no = no) : (w.updStrand no fun _ => k').strandAt no = some k' := by
  unfold Warp.strandAt at h ⊢
  unfold Warp.updStrand
  by_cases hn : no = kernelNo
  · simp only [hn, if_true] at h ⊢
    simp [h]
  · simp only [hn, if_false] at h ⊢
    have e : k'.no = no := hk.resolve_left hn
    rw [updFirst_find?_self _ _ _ (by simp [e]), h]
    rfl

theorem Warp.strandAt_updStrand_other (w : Warp) (no n : Nat) (k' : Strand) (hk : no = kernelNo ∨ k'.no = no)
    (h : n ≠ no) : (w.updStrand no fun _ => k').strandAt n = w.strandAt n := by
  unfold Warp.strandAt Warp.updStrand
  by_cases hn : no = kernelNo
  · have : n ≠ kernelNo := hn ▸ h
    simp [hn, this]
  · have e : k'.no = no := hk.resolve_left hn
    simp only [hn, if_false]
    by_cases h2 : n = kernelNo
    · simp [h2]
    · simp only [h2, if_false]
      apply updFirst_find?_other
      intro x hx
      simp only [beq_iff_eq, beq_eq_false_iff_ne] at hx ⊢
      exact ⟨by omega, by omega⟩

@[simp] theorem Warp.updStrand_uid (w : Warp) (no : Nat) (f : Strand → Strand) : (w.updStrand no f).uid = w.uid := by
  unfold Warp.updStrand; split <;> rfl

theorem Warp.updStrand_frame (w : Warp) (no : Nat) (f : Strand → Strand) :
    { w.updStrand no f with strands := w.strands, kernel := w.kernel } = w := by
  unfold Warp.updStrand; split <;> rfl

/-! ## The context -/

/-- Everything that the context of an instruction says of the state. -/
theorem focusCtx_some {s : State} {g : Option Guard} {n : Nat} {v : DWord} {c : Ctx} (h : focusCtx s g n v = some c) :
    c.s = s ∧ s.focus = some c.ref ∧ warpOf s c.ref.warp = some c.w0 ∧ c.w0.strandAt c.ref.no = some c.k0 ∧
    c.w = c.w0 ∧ c.k = c.k0 ∧ c.len = n ∧ c.value = v ∧ gangOf s c.w0.gang = some c.g ∧
    launchOf s c.g.launch = some c.l ∧ c.addr = c.k0.issueAddress c.w0.launched ∧
    c.here = c.k0.lanesAt c.w0.launched c.addr ∧ c.exec = c.here &&& maskOf (c.k0.admits g) := by
  unfold focusCtx at h
  simp only [Option.bind_eq_bind, Option.bind_eq_some_iff] at h
  obtain ⟨r, h1, w, h2, k, h3, gg, h4, l, h5, nn, h6, h7⟩ := h
  cases h7
  dsimp only
  exact ⟨rfl, h1, h2, h3, rfl, rfl, rfl, rfl, h4, h5, rfl, rfl, rfl⟩

theorem withStrand_of_runs {s : State} {i : Instr} {g : Option Guard} {c : Ctx} (h : Runs s i g c) (f : Ctx → Out) :
    withStrand i g s f = f c := by
  unfold Runs at h
  simp [withStrand, h]

theorem strandAt_no {w : Warp} {no : Nat} {k : Strand} (h : w.strandAt no = some k) : no = kernelNo ∨ k.no = no := by
  unfold Warp.strandAt at h
  by_cases hn : no = kernelNo
  · exact .inl hn
  · simp only [hn, if_false] at h
    exact .inr (by simpa using List.find?_some h)

/-- Reads that the strand may make go through, and mark the registers. -/
theorem access_of_readable {c : Ctx} {gs : List (Nat × Bool)} {ss : List Nat} (h : c.Readable (gs.map (·.1)) ss)
    (hw : c.w = c.w0) (f : Ctx → Out) : c.access gs ss f = f { c with w := c.afterReads gs ss } := by
  have h1 : gs.filterMap (fun g => c.gFault false g.1) = [] := by
    rw [List.filterMap_eq_nil_iff]
    intro g hg
    exact (h.1 g.1 (List.mem_map_of_mem hg)).1
  have h2 : ss.filterMap (c.sFault false) = [] := by
    rw [List.filterMap_eq_nil_iff]
    exact fun r hr => h.2 r hr
  have h3 : gs.find? (fun g => !c.w0.isFull g.1 c.no) = none := by
    rw [List.find?_eq_none]
    intro g hg
    simp [(h.1 g.1 (List.mem_map_of_mem hg)).2]
  unfold Ctx.access
  rw [h1, h2]
  simp only [List.append_nil, leastBy, h3, Ctx.afterReads, hw]

/-! ## Ending -/

/-- A commit changes the strand's warp alone: the warp becomes c.w with the strand c.k. -/
theorem commit_leaves {c : Ctx} (h0 : warpOf c.s c.ref.warp = some c.w0) (hk : c.w0.strandAt c.ref.no = some c.k0)
    (hu : c.w.uid = c.w0.uid) (hs : ∀ n, c.w.strandAt n = c.w0.strandAt n) (hn : c.k.no = c.k0.no) :
    c.Leaves c.commit c.w c.k := by
  have e0 : c.w0.uid = c.ref.warp := warpOf_uid h0
  have e1 : c.ref.no = kernelNo ∨ c.k.no = c.ref.no := by
    rcases strandAt_no hk with h | h
    · exact .inl h
    · exact .inr (hn.trans h)
  refine ⟨fun _ => rfl, rfl, ?_, ?_⟩
  · intro u hu'
    apply warpOf_updWarp_other
    · intro w _
      simp
    · rw [hu, e0]; exact hu'
  · refine ⟨c.w.updStrand c.ref.no fun _ => c.k, ?_, Warp.updStrand_frame _ _ _, ?_, ?_⟩
    · unfold Ctx.commit
      rw [hu, e0, warpOf_updWarp_self, h0]
      · rfl
      · intro w _
        simp [hu, e0]
    · exact Warp.strandAt_updStrand_self _ _ c.k0 _ ((hs _).trans hk) e1
    · intro n hne
      rw [Warp.strandAt_updStrand_other _ _ _ _ e1 hne, hs]

/-- Reads keep the warp's number and strands. -/
theorem afterReads_frame (c : Ctx) (gs : List (Nat × Bool)) (ss : List Nat) :
    (c.afterReads gs ss).uid = c.w0.uid ∧ ∀ n, (c.afterReads gs ss).strandAt n = c.w0.strandAt n := by
  have hc : ∀ (w : Warp) (r a b : Nat), (w.consume r a b).uid = w.uid ∧ ∀ n, (w.consume r a b).strandAt n = w.strandAt n := by
    intro w r a b
    unfold Warp.consume
    split <;> exact ⟨rfl, fun _ => rfl⟩
  have hg : ∀ (gs : List (Nat × Bool)) (w : Warp),
      (gs.foldl (fun w g => if g.2 then w.consume g.1 c.no (c.n.reg g.1).1 else w) w).uid = w.uid ∧
      ∀ n, (gs.foldl (fun w g => if g.2 then w.consume g.1 c.no (c.n.reg g.1).1 else w) w).strandAt n = w.strandAt n := by
    intro gs
    induction gs with
    | nil => exact fun w => ⟨rfl, fun _ => rfl⟩
    | cons g gs ih =>
      intro w
      simp only [List.foldl_cons]
      split
      · exact ⟨(ih _).1.trans (hc _ _ _ _).1, fun n => ((ih _).2 n).trans ((hc _ _ _ _).2 n)⟩
      · exact ih w
  have hs : ∀ (ss : List Nat) (w : Warp), (ss.foldl (fun w r => w.see r c.no) w).uid = w.uid ∧
      ∀ n, (ss.foldl (fun w r => w.see r c.no) w).strandAt n = w.strandAt n := by
    intro ss
    induction ss with
    | nil => exact fun w => ⟨rfl, fun _ => rfl⟩
    | cons r ss ih => exact fun w => ⟨(ih _).1, fun n => (ih _).2 n⟩
  exact ⟨(hs _ _).1.trans (hg _ _).1, fun n => ((hs _ _).2 n).trans ((hg _ _).2 n)⟩

/-- An instruction that retires with a new warp and strand leaves exactly them. -/
theorem retire_leaves {s : State} {i : Instr} {g : Option Guard} {c c' : Ctx} (h : Runs s i g c)
    (hf : { c' with w := c.w, k := c.k } = c) (hu : c'.w.uid = c.w0.uid)
    (hs : ∀ n, c'.w.strandAt n = c.w0.strandAt n) (hn : c'.k.no = c.k0.no) :
    ∃ t, c'.retire = .next t ∧ c.Leaves t c'.w c'.passed := by
  obtain ⟨e1, -, e3, e4, -⟩ := focusCtx_some h
  have a1 : c'.s = c.s := by rw [← hf]
  have a2 : c'.ref = c.ref := by rw [← hf]
  have a3 : c'.w0 = c.w0 := by rw [← hf]
  have a4 : c'.k0 = c.k0 := by rw [← hf]
  refine ⟨_, rfl, ?_⟩
  have l := commit_leaves (c := { c' with k := c'.passed }) (by simp only [a1, a2, a3, e1, e3]) (by simp only [a2, a3, a4, e4])
    (by simp only [a3, hu]) (by simpa only [a3] using hs) (hn.trans (congrArg Strand.no a4.symm))
  exact ⟨by simpa only [a1] using l.memory, by simpa only [a1] using l.rest, by simpa only [a1, a2] using l.others,
    by simpa only [a2, a3] using l.warp⟩

/-- A slot written after reads: what such an instruction leaves. -/
theorem setSlot_retire {s : State} {i : Instr} {g : Option Guard} {c : Ctx} (h : Runs s i g c) (gs : List (Nat × Bool))
    (ss : List Nat) (d : Nat) (v : Nat → Word) :
    ∃ t, (({ c with w := c.afterReads gs ss } : Ctx).setSlot d v).retire = .next t ∧
      c.Leaves t (c.afterReads gs ss) (c.wrote d v) := by
  obtain ⟨-, -, -, -, -, e6, -⟩ := focusCtx_some h
  obtain ⟨t, ht, hl⟩ := retire_leaves (c' := ({ c with w := c.afterReads gs ss } : Ctx).setSlot d v) h rfl
    (afterReads_frame c gs ss).1 (afterReads_frame c gs ss).2 (show c.k.no = c.k0.no from congrArg Strand.no e6)
  refine ⟨t, ht, ?_⟩
  have e : (({ c with w := c.afterReads gs ss } : Ctx).setSlot d v).passed = c.wrote d v := by
    simp only [Ctx.passed, Ctx.setSlot, Strand.setSlotIn, e6]
    rfl
  exact e ▸ hl

/-- The same with no reads. -/
theorem setSlot_retire' {s : State} {i : Instr} {g : Option Guard} {c : Ctx} (h : Runs s i g c) (d : Nat) (v : Nat → Word) :
    ∃ t, (c.setSlot d v).retire = .next t ∧ c.Leaves t c.w0 (c.wrote d v) := by
  obtain ⟨-, -, -, -, e5, -⟩ := focusCtx_some h
  have e : ({ c with w := c.afterReads [] [] } : Ctx) = c := by
    have e : c.afterReads [] [] = c.w := e5.symm
    rw [e]
  have := setSlot_retire h [] [] d v
  rw [e] at this
  exact this

end Sys2Proof.Machine
end

