-- ==== Sys2Proof/Laws/Accesses.lean ====
section
/-! SUPPORT. What a strand's instruction leaves of the state it found: with its warp alone changed, with an operation begun,
waiting, or trapped; and what the checks of an access change. -/

namespace Sys2Proof.Machine

theorem leaves_of {s : State} {i : Instr} {g : Option Guard} {c : Ctx} (h : Runs s i g c) (w : Warp) (k : Strand)
    (hu : w.uid = c.w0.uid) (hs : ∀ n, w.strandAt n = c.w0.strandAt n) (hn : k.no = c.k0.no) :
    c.Leaves ({ c with w, k } : Ctx).commit w k := by
  obtain ⟨e1, -, e3, e4, -⟩ := focusCtx_some h
  have l := commit_leaves (c := { c with w, k }) (by simp only [e1, e3]) e4 hu hs hn
  exact ⟨l.memory, l.rest, l.others, l.warp⟩
theorem leaves_same {s : State} {i : Instr} {g : Option Guard} {c : Ctx} (h : Runs s i g c) (k : Strand)
    (hn : k.no = c.k0.no) : c.Leaves ({ c with w := c.w0, k } : Ctx).commit c.w0 k :=
  leaves_of h _ _ rfl (fun _ => rfl) hn
theorem leaves_reads {s : State} {i : Instr} {g : Option Guard} {c : Ctx} (h : Runs s i g c) (gs ss) (k : Strand)
    (hn : k.no = c.k0.no) : c.Leaves ({ c with w := c.afterReads gs ss, k } : Ctx).commit (c.afterReads gs ss) k :=
  leaves_of h _ _ (afterReads_frame c gs ss).1 (afterReads_frame c gs ss).2 hn
theorem icmp_eq (cond : Nat) (a b : Word) : icmpHolds cond a b = compares cond a b := by
  unfold icmpHolds compares
  split <;> simp [BitVec.slt, BitVec.sle, BitVec.ult, BitVec.ule, BEq.beq, bne]
theorem firstTrap_none {a b : Flags} (h : a &&& b = 0) : firstTrap a b = none := by
  unfold firstTrap
  rw [h]
  simp

theorem leavesFrom_of {s : State} {i : Instr} {g : Option Guard} {c : Ctx} (h : Runs s i g c) (b : State) (w : Warp) (k : Strand)
    (hb : b.warps = c.s.warps)
    (hu : w.uid = c.w0.uid) (hs : ∀ n, w.strandAt n = c.w0.strandAt n) (hn : k.no = c.k0.no) :
    c.LeavesFrom b ({ c with s := b, w, k } : Ctx).commit w k := by
  obtain ⟨e1, -, e3, e4, -⟩ := focusCtx_some h
  have e3' : warpOf b c.ref.warp = some c.w0 := by
    unfold warpOf; rw [hb, e1]; exact e3
  have l := commit_leaves (c := { c with s := b, w, k }) e3' e4 hu hs hn
  exact ⟨l.memory, l.rest, l.others, l.warp⟩
theorem sendLanes_local (s : State) (t id : Nat) (p : Bool) (mk : LaneAccess → Sent) (ls : List LaneAccess)
    (h : (ls.all fun a => !isRemote a.target) = true) : sendLanes s t id p mk ls = s := by
  have h0 : remoteLanes ls = [] := by
    unfold remoteLanes
    rw [List.filter_eq_nil_iff]
    intro a ha
    have := List.all_eq_true.mp h a ha
    simpa using this
  unfold sendLanes
  simp only [h0]
  split <;> simp
theorem translate_frame (s : State) (core t va : Nat) :
    { (translate s core t va).1 with cores := s.cores, yards := s.yards } = s := by
  unfold translate
  dsimp only
  split
  · rfl
  · split
    · rfl
    · split <;> rfl
theorem checkLane_frame (s : State) (core t : Nat) (r : AccessReq) (va : DWord) :
    { (checkLane s core t r va).1 with cores := s.cores, yards := s.yards } = s := by
  have h := translate_frame s core t va.toNat
  unfold checkLane
  split
  · rfl
  · split
    · rfl
    · split
      · rename_i e; rw [e] at h; exact h
      · rename_i e; rw [e] at h
        dsimp only
        split
        · dsimp only
          split
          · rename_i s' _ _ t _ _
            have k : { (keepEntry s' core t) with cores := s.cores, yards := s.yards } = { s' with cores := s.cores, yards := s.yards } := by
              unfold keepEntry
              split
              · dsimp only; split
                · rfl
                · split <;> rfl
              · rfl
            rw [k]; exact h
          · exact h
        · exact h
theorem checkLanes_frame (s : State) (core t : Nat) (r : AccessReq) (ls : List (Nat × DWord)) :
    { (checkLanes s core t r ls).1 with cores := s.cores, yards := s.yards } = s := by
  induction ls generalizing s with
  | nil => rfl
  | cons x xs ih =>
    have h := checkLane_frame s core t r x.2
    have h2 := ih (checkLane s core t r x.2).1
    unfold checkLanes
    dsimp only
    cases s
    generalize (checkLanes _ core t r xs).1 = u at h2 ⊢
    generalize (checkLane _ core t r x.2).1 = v at h h2 ⊢
    cases u; cases v
    simp only [State.mk.injEq] at h h2 ⊢
    simp_all
theorem waits_of {s : State} {i : Instr} {g : Option Guard} {c : Ctx} (h : Runs s i g c) (w : Warp) (x : Wait) :
    ∃ t, ({ c with w } : Ctx).stall x = .next t ∧ c.Waits t x := by
  refine ⟨_, rfl, ?_⟩
  exact leaves_same h _ rfl
theorem begins_of {s : State} {i : Instr} {g : Option Guard} {c : Ctx} (h : Runs s i g c) (gs ss) (s1 : State)
    (hs1 : { s1 with cores := c.s.cores, yards := c.s.yards } = c.s) (cl : CounterClass) (q body posted) (mk) (ls) :
    ∃ t, (({ c with w := c.afterReads gs ss, s := s1 } : Ctx).start (some cl) q body).retireSending s1.nextId posted mk ls = .next t ∧
      c.Begins t s1 (c.afterReads gs ss) cl q body posted mk ls := by
  obtain ⟨e1, -, e3, e4, e5, e6, -⟩ := focusCtx_some h
  have hc : s1.cycles = c.s.cycles := by rw [← hs1]
  refine ⟨_, rfl, _, leavesFrom_of h (c.begun s1 q body) (c.afterReads gs ss) (c.counted s1.nextId cl) (by rw [← hs1]; rfl)
    (afterReads_frame c gs ss).1 (afterReads_frame c gs ss).2 ?_, ?_⟩
  · cases cl <;> rfl
  · split
    · rename_i hl
      rw [sendLanes_local _ _ _ _ _ _ hl]
      cases c; dsimp only at e6 hc; subst e6; cases cl <;> (simp only [Ctx.start, Ctx.passed, Ctx.counted, Ctx.past, Ctx.begun, Strand.setCounter, Strand.counter, hc])
    · cases c; dsimp only at e6 hc; subst e6; cases cl <;> (simp only [Ctx.start, Ctx.passed, Ctx.counted, Ctx.past, Ctx.begun, Strand.setCounter, Strand.counter, hc]; rfl)
theorem watched_of {c c' : Ctx} {s1 sub size va f} (hc : c'.s = s1) (h0 : c'.w0 = c.w0) (hk : c'.k0 = c.k0) (hl : c'.l = c.l) (h : c.Unwatched s1 sub size va) (ls) (hls : ls = c.lanes.map fun l => (l, va l)):
    c'.watched sub size ls f = f := by
  subst hls
  unfold Ctx.Unwatched at h
  have hw : c'.watches sub = ({ c with s := s1 } : Ctx).watches sub := by
    unfold Ctx.watches Ctx.tenant; simp only [hc, h0, hk, hl]
  unfold Ctx.watched
  rw [hw]
  rcases h with h | h
  · simp [h]
  · split
    · have : ((c.lanes.map fun l => (l, va l)).filter fun (x : Nat × DWord) =>
        watchHit (coreOf c'.s c'.w0.core) (x.2.toNat % 2 ^ 56 / 64) || watchHit (coreOf c'.s c'.w0.core) ((x.2.toNat + size - 1) % 2 ^ 56 / 64)) = [] := by
        rw [List.filter_eq_nil_iff]
        intro x hx
        obtain ⟨l, hm, rfl⟩ := List.mem_map.mp hx
        rw [hc, h0, (h l hm).1, (h l hm).2]
        decide
      simp only [this]
    · rfl
theorem memory_begins {s : State} {i : Instr} {g : Option Guard} {c : Ctx} (h : Runs s i g c) (gs ss) (m : AccessShape) (posted) (va data body) (s1 ps)
    (hq : c.grantWait (some m.cl) m.queue = none) (hr : c.LanesReach m.size (m.kind = 1) m.tagOk va s1 ps)
    (hw : m.watch = true → c.Unwatched s1 m.kind m.size va) :
    ∃ t, ({ c with w := c.afterReads gs ss } : Ctx).memory m posted (c.lanes.map fun l => (l, va l)) data body = .next t ∧
      c.Begins t s1 (c.afterReads gs ss) m.cl m.queue (body (lanesWith ps data)) posted
        (fun x => c.asks s1.nextId (m.asks) (if m.kind = 1 then x.data.length else m.size) x.data x) (lanesWith ps data) := by
  obtain ⟨h1, h2, h3⟩ := hr
  have hs1 : { s1 with cores := c.s.cores, yards := c.s.yards } = c.s := by rw [← h1]; exact checkLanes_frame ..
  have hq' : ({ c with w := c.afterReads gs ss } : Ctx).grantWait (some m.cl) m.queue = none := hq
  unfold Ctx.memory
  rw [hq']
  dsimp only
  unfold Ctx.checked Ctx.checkedBy
  have ec : checkLanes ({ c with w := c.afterReads gs ss } : Ctx).s ({ c with w := c.afterReads gs ss } : Ctx).w0.core ({ c with w := c.afterReads gs ss } : Ctx).tenant
     { size := m.size, write := decide (m.kind = 1), tagOk := m.tagOk, priv := ({ c with w := c.afterReads gs ss } : Ctx).l.privileged } (c.lanes.map fun l => (l, va l)) = (s1, (checkLanes c.s c.w0.core c.tenant { size := m.size, write := decide (m.kind = 1), tagOk := m.tagOk, priv := c.l.privileged } (c.lanes.map fun l => (l, va l))).2) := by
    rw [← h1]; rfl
  extract_lets r
  subst r
  rw [ec]
  dsimp only
  rw [h2, h3]
  dsimp only
  have b := begins_of h gs ss s1 hs1 m.cl m.queue (body (lanesWith ps data)) posted (fun x => c.asks s1.nextId (m.asks) (if m.kind = 1 then x.data.length else m.size) x.data x) (lanesWith ps data)
  split
  · rename_i hm
    rw [watched_of (c := c) (c' := { c with s := s1, w := c.afterReads gs ss }) (s1 := s1) (va := va) rfl rfl rfl rfl (hw hm) _ rfl]
    exact b
  · exact b

theorem start_leaves {s : State} {i : Instr} {g : Option Guard} {c : Ctx} (h : Runs s i g c) (w : Warp) (hu : w.uid = c.w0.uid) (hs : ∀ n, w.strandAt n = c.w0.strandAt n)  (s1 : State) (hw : s1.warps = c.s.warps) (hcy : s1.cycles = c.s.cycles)
    (cl : CounterClass) (q body) :
    ∃ t, (({ c with w, s := s1 } : Ctx).start (some cl) q body).retire = .next t ∧
      c.LeavesFrom (c.begun s1 q body) t w (c.counted s1.nextId cl) := by
  obtain ⟨e1, -, e3, e4, e5, e6, -⟩ := focusCtx_some h
  refine ⟨_, rfl, ?_⟩
  have := leavesFrom_of h (c.begun s1 q body) w (c.counted s1.nextId cl) hw hu hs (by cases cl <;> rfl)
  cases c; dsimp only at e6 hcy; subst e6; cases cl <;> simpa only [Ctx.start, Ctx.passed, Ctx.counted, Ctx.past, Ctx.begun, Strand.setCounter, Strand.counter, hcy] using this

/-! ## Traps -/

/-- A change of what leaves the part, of its fabric, and of pending writes alone. -/
def SameWork (s s' : State) : Prop :=
  s'.warps = s.warps ∧ s'.gangs = s.gangs ∧ s'.launches = s.launches ∧ s'.ops = s.ops ∧ s'.cycles = s.cycles ∧ s'.dies = s.dies
theorem SameWork.refl (s : State) : SameWork s s := ⟨rfl, rfl, rfl, rfl, rfl, rfl⟩
theorem SameWork.trans {a b c : State} (h : SameWork a b) (k : SameWork b c) : SameWork a c :=
  ⟨k.1.trans h.1, k.2.1.trans h.2.1, k.2.2.1.trans h.2.2.1, k.2.2.2.1.trans h.2.2.2.1, k.2.2.2.2.1.trans h.2.2.2.2.1,
   k.2.2.2.2.2.trans h.2.2.2.2.2⟩
theorem sendFlit_same (s i ty p) : SameWork s (sendFlit s i ty p) := by
  unfold sendFlit
  split
  · split <;> exact SameWork.refl s
  · exact .refl s
theorem flushPort_same (i n s) : SameWork s (flushPort i n s) := by
  induction n generalizing s with
  | zero => exact .refl s
  | succ n ih =>
    unfold flushPort
    split
    · split
      · exact .refl s
      · exact (sendFlit_same ..).trans (ih _)
    · exact .refl s
theorem noteSent_same (s x p) : SameWork s (noteSent s x p) := by
  unfold noteSent
  split
  · split <;> exact SameWork.refl s
  · exact .refl s
theorem sendOn_same (s p x) : SameWork s (sendOn s p x) := by
  have h : SameWork s (noteSent { s with outbox := s.outbox ++ [x] } x p) := noteSent_same { s with outbox := s.outbox ++ [x] } x p
  unfold sendOn
  dsimp only
  split
  · exact h.trans (flushPort_same ..)
  · exact h
theorem sendRouted_same (s x) : SameWork s (sendRouted s x) := by
  unfold sendRouted
  split
  · exact .refl s
  · exact sendOn_same ..
theorem sendOut_same (s x) : SameWork s (sendOut s x) := by
  unfold sendOut
  split
  · dsimp only
    split
    all_goals
      split
      · exact .refl s
      · exact sendRouted_same ..
  · exact sendRouted_same ..
theorem putUnit_same (job tenant core w rel ts va bs s) : SameWork s (putUnit job tenant core w rel ts va bs s) := by
  induction ts generalizing va bs s with
  | nil => exact .refl s
  | cons x ts ih =>
    obtain ⟨t, n⟩ := x
    unfold putUnit
    dsimp only
    refine SameWork.trans ?_ (ih (va + BitVec.ofNat 64 n) (bs.drop n) _)
    cases t
    · exact .refl s
    · exact .refl s
    all_goals exact sendOut_same { s with posted := _ } _
theorem unitWrite_frame {s tenant priv core w rel va bs s'} (h : unitWrite s tenant priv core w rel va bs = some s') :
    s'.warps = s.warps ∧ s'.gangs = s.gangs ∧ s'.launches = s.launches ∧ s'.ops = s.ops ∧ s'.cycles = s.cycles ∧ s'.dies = s.dies := by
  unfold unitWrite writeAs at h
  split at h
  · simp at h
  · simp only [Option.some.injEq] at h
    rw [← h]
    exact putUnit_same _ _ _ _ _ _ _ _ { s with nextId := s.nextId + 1 }
theorem crumb_frame (s l g a b k d x y z m p) : (crumb s l g a b k d x y z m p).warps = s.warps ∧ (crumb s l g a b k d x y z m p).gangs = s.gangs ∧
   (crumb s l g a b k d x y z m p).launches = s.launches ∧ (crumb s l g a b k d x y z m p).ops = s.ops ∧ (crumb s l g a b k d x y z m p).cycles = s.cycles ∧
   (crumb s l g a b k d x y z m p).dies = s.dies := by
  unfold crumb
  dsimp only
  split
  · exact ⟨rfl, rfl, rfl, rfl, rfl, rfl⟩
  · split
    · rename_i h
      have := unitWrite_frame h
      exact this
    · exact ⟨rfl, rfl, rfl, rfl, rfl, rfl⟩
theorem stopFor_congr {s s' : State} (h : s'.ops = s.ops) (hc : s'.cycles = s.cycles) (w : Warp) (t : TrapRec) : w.stopFor s' t = w.stopFor s t := by
  unfold Warp.stopFor Strand.stopped inCall opOf; rw [h, hc]
theorem fetchesWord_congr {s s' : State} (h : s'.warps = s.warps) (u : Nat) (o : Op) :
    fetchesWord s' u o = fetchesWord s u o := by
  unfold fetchesWord strandOf warpOf; rw [h]
theorem dropAsked_frame (s u) : (dropAsked s u).warps = s.warps ∧ (dropAsked s u).gangs = s.gangs ∧
    (dropAsked s u).launches = s.launches ∧ (dropAsked s u).cycles = s.cycles ∧
    (dropAsked s u).ops = s.ops.filter fun o => !fetchesWord s u o := by
  have h : s.ops.any (fetchesWord s u) = false → s.ops = s.ops.filter fun o => !fetchesWord s u o := by
    intro h
    rw [eq_comm, List.filter_eq_self]
    intro o ho
    simp [List.any_eq_false.mp h o ho]
  unfold dropAsked
  by_cases hf : s.ops.any (fetchesWord s u) = true
  · simp only [hf, if_true]; split <;> exact ⟨rfl, rfl, rfl, rfl, rfl⟩
  · simp only [hf, Bool.false_eq_true, if_false]; split <;> exact ⟨rfl, rfl, rfl, rfl, h (by simpa using hf)⟩
theorem dropAsked_gangs (us : List Nat) (s : State) : (us.foldl dropAsked s).gangs = s.gangs := by
  induction us generalizing s with
  | nil => rfl
  | cons u us ih => rw [List.foldl_cons, ih, (dropAsked_frame s u).2.1]
theorem trap_trapped {s : State} {i : Instr} {g : Option Guard} {c : Ctx} (h : Runs s i g c) (cause sub addr lanes)
    (hk : c.w0.kernel = none) (hc : cause ≠ causePOISON) : ∃ t, c.trap cause sub addr lanes = .next t ∧ c.Trapped t cause sub addr lanes := by
  obtain ⟨e1, -, e3, -⟩ := focusCtx_some h
  refine ⟨_, rfl, ?_⟩
  unfold takeTrap
  dsimp only
  have hi : c.w0.kernel.isSome = false := by simp [hk]
  simp only [hi, Bool.false_eq_true, if_false, Ctx.record, hc]
  generalize hs : crumb c.s c.l c.g c.w0.team c.w0.num false (dieOfCore c.w0.core) ((lowestLane lanes).getD 0) c.no 1 cause sub = s1
  have f1 := crumb_frame c.s c.l c.g c.w0.team c.w0.num false (dieOfCore c.w0.core) ((lowestLane lanes).getD 0) c.no 1 cause sub
  rw [hs] at f1
  obtain ⟨a1, a2, a3, a4, a5, -⟩ := f1
  obtain ⟨b1, b2, b3, b4, b5⟩ := dropAsked_frame s1 c.w0.uid
  have eu : c.w0.uid = c.ref.warp := warpOf_uid e3
  have hw : warpOf (dropAsked s1 c.w0.uid) c.ref.warp = some c.w0 := by unfold warpOf; rw [b1, a1, e1]; exact e3
  constructor
  · rw [← eu, warpOf_updWarp_self]
    rw [← eu] at hw
    rw [hw]
    · simp only [Option.map_some]
      rw [stopFor_congr a4 a5]
      rfl
    · intro w _; simpa [Warp.stopFor]
  · intro u hu
    rw [eu, warpOf_updWarp_other _ _ _ _ _ hu]
    · unfold warpOf; rw [← eu, b1, a1]
    · intro w _; simpa [Warp.stopFor]
  · refine ⟨by simp [updWarp, b2, a2], by simp [updWarp, b3, a3], by simp [updWarp, b4, a5], ?_⟩
    have e : (fun o => !fetchesWord s1 c.w0.uid o) = fun o => !fetchesWord c.s c.w0.uid o := by
      funext o; rw [fetchesWord_congr a1]
    simp [updWarp, b5, a4, e]
theorem dropAsked_warps (us : List Nat) (s : State) : (us.foldl dropAsked s).warps = s.warps := by
  induction us generalizing s with
  | nil => rfl
  | cons u us ih => rw [List.foldl_cons, ih, (dropAsked_frame s u).1]
/-- The end of a gang leaves every warp's trap kernel where it stands. -/
theorem terminate_kernel (s : State) (gang kind warp : Nat) (nested : Option TrapRec) (u : Nat) :
    (warpOf (terminate s gang kind warp nested) u).map Warp.kernel = (warpOf s u).map Warp.kernel := by
  have kept : ∀ (ws : List Warp) (f : Warp → Warp), (∀ w, (f w).uid = w.uid ∧ (f w).kernel = w.kernel) →
      ((ws.map f).find? fun w => w.uid == u).map Warp.kernel = (ws.find? fun w => w.uid == u).map Warp.kernel := by
    intro ws f hf
    induction ws with
    | nil => rfl
    | cons w ws ih =>
      simp only [List.map_cons, List.find?_cons, (hf w).1]
      cases w.uid == u
      · exact ih
      · simp only [Option.map_some, (hf w).2]
  unfold terminate
  split
  · rfl
  · split
    · rfl
    · rfl
    · rfl
    · unfold warpOf
      dsimp only
      rw [kept _ _ fun w => by (repeat' split) <;> exact ⟨rfl, rfl⟩, dropAsked_warps]
      rfl
theorem trap_endsGang {s : State} {i : Instr} {g : Option Guard} {c : Ctx} (h : Runs s i g c) (cause sub addr lanes)
    (hk : c.w0.kernel ≠ none) : ∃ t, c.trap cause sub addr lanes = .next t ∧ c.EndsGang t cause sub addr lanes := by
  obtain ⟨e1, -, e3, -, -, -, -, -, e4, -⟩ := focusCtx_some h
  refine ⟨_, rfl, ?_, ?_⟩
  rotate_left
  · unfold takeTrap
    have hi : c.w0.kernel.isSome = true := by cases hh : c.w0.kernel <;> simp_all
    simp only [hi, if_true]
    rw [terminate_kernel]
    unfold warpOf
    rw [(crumb_frame ..).1, e1]
    exact congrArg (Option.map Warp.kernel) e3
  intro hp
  unfold takeTrap
  dsimp only
  have hi : c.w0.kernel.isSome = true := by cases hh : c.w0.kernel <;> simp_all
  simp only [hi, if_true]
  have f1 := crumb_frame c.s c.l c.g c.w0.team c.w0.num true (dieOfCore c.w0.core) ((lowestLane lanes).getD 0) c.no 1 cause sub
  generalize hs : crumb c.s c.l c.g c.w0.team c.w0.num true (dieOfCore c.w0.core) ((lowestLane lanes).getD 0) c.no 1 cause sub = s1 at f1
  have hs' : crumb c.s c.l c.g c.w0.team c.w0.num true (dieOfCore c.w0.core) ((lowestLane (c.record cause sub addr lanes).lanes).getD 0) (c.record cause sub addr lanes).strand 1 (c.record cause sub addr lanes).cause (c.record cause sub addr lanes).sub = s1 := hs
  rw [hs']
  have eg : c.g.uid = c.w0.gang := by
    have := List.find?_some e4; simpa using this
  have hg : gangOf s1 c.g.uid = some c.g := by unfold gangOf; rw [f1.2.1, eg, e1]; exact e4
  unfold terminate
  rw [hg]
  dsimp only
  rw [hp]
  dsimp only
  have : gangOf (updGang s1 c.g.uid fun g => { g with phase := .terminating 1 c.w0.uid (some (c.record cause sub addr lanes)) }) c.g.uid = some { c.g with phase := .terminating 1 c.w0.uid (some (c.record cause sub addr lanes)) } := by
    have := updFirst_find?_self (fun g : Gang => g.uid == c.g.uid) (fun g => { g with phase := .terminating 1 c.w0.uid (some (c.record cause sub addr lanes)) }) s1.gangs (by simp)
    unfold gangOf at hg ⊢
    unfold updGang
    rw [this, hg]; rfl
  unfold gangOf at this ⊢
  dsimp only at this ⊢
  rw [dropAsked_gangs, this]
  rfl

end Sys2Proof.Machine
end

