-- ==== Sys2Proof/Laws/Homes.lean ====
section
/-! SUPPORT. What the events of a line under LEASE do (spec/12_protocols.md R331 to R333, R336, R338). -/

namespace Sys2Proof.Machine

/-- A line under LEASE meets the built-in word. -/
theorem meetsWord_lease (s : State) (line : Nat) (e : HomeEvent) (st : Nat) (w : Word) (hp : protoOf s line = 1) (hs : sealedState s line (homeOf s line).state e.ev = st)
    (hw : builtinWord 1 st e.ev = w) (hu : wordHas w bitUP = false) : meetsWord s line e = (w, false) := by
  unfold meetsWord
  dsimp only
  rw [hs, hp]
  unfold protocolWord
  simp only [show (1 : Nat) < 8 from by decide, if_true, hw]
  simp [hu]
/-- An event whose word neither holds nor refuses its requester runs the word's actions. -/
theorem dispatchEvent_lease (s : State) (line : Nat) (e : HomeEvent) (st : Nat) (w : Word) (hp : protoOf s line = 1) (hst : (homeOf s line).state = st) (hs : sealedState s line st e.ev = st)
    (hw : builtinWord 1 st e.ev = w) (hu : wordHas w bitUP = false) (ht : wordHas w bitWT = false) (he : wordHas w bitER = false) :
    dispatchEvent s line e = (runActions s line e w false, if wordHas w bitRY then .retry else .done) := by
  unfold dispatchEvent
  rw [meetsWord_lease s line e st w hp (by rw [hst]; exact hs) hw hu]
  dsimp only
  rw [hst, hs]
  simp [ht, he]
/-- Nothing is published for an event that is no PN, or for a core with room for a pin. -/
theorem roomForPin_lease (s line e st w) (hp : protoOf s line = 1) (hst : (homeOf s line).state = st) (hs : sealedState s line st e.ev = st)
    (hw : builtinWord 1 st e.ev = w) (hu : wordHas w bitUP = false) (hn : e.ev ≠ evPN ∨ ∀ c, e.core = some c → (pinsOf s c).length < 32) : roomForPin s line e = s := by
  unfold roomForPin
  rw [meetsWord_lease s line e st w hp (by rw [hst]; exact hs) hw hu]
  dsimp only
  cases hc : e.core with
  | none => rfl
  | some c =>
    rcases hn with hn | hn
    · simp [hn]
    · have := hn c hc
      split
      · rename_i h _; injection h with h; subst h; rw [if_neg (by unfold pinLimit; omega)]
      · rfl
/-- No store follows an event that is no RL, or whose word writes. -/
theorem dispatch_once (s line) (e : HomeEvent) (h : e.ev ≠ evRL ∨ wordHas (meetsWord s line e).1 bitWD = true) :
    dispatch s line e = dispatchOnce s line e := by
  have : storeAfter s line e = none := by
    unfold storeAfter
    rcases h with h | h
    · rw [if_neg fun x => h x.1]
    · rw [if_neg fun x => by simp [h] at x]
  unfold dispatch
  rw [this]
  split
  · rename_i e; injection e
  · rfl
/-- An access to a line at rest runs the actions of its word. -/
theorem homeAccess_atRest (s line e) (w : Word) (h : LineAtRest s line) 
    (hw : builtinWord 1 0 e.ev = w) (hu : wordHas w bitUP = false) (ht : wordHas w bitWT = false) (he : wordHas w bitER = false) (hr : wordHas w bitRY = false)
   (hn : e.ev ≠ evPN ∨ ∀ c, e.core = some c → (pinsOf s c).length < 32) (hl : e.ev ≠ evRL ∨ wordHas w bitWD = true) :
   homeAccess s line e = (runActions s line e w false, .done) := by
  have h0 : (homeOf s line).state = 0 := by rw [h.atRest]; rfl
  have hs : sealedState s line 0 e.ev = 0 := by simp [sealedState, h.unsealed]
  unfold homeAccess
  rw [dispatch_once s line e (by rw [meetsWord_lease s line e 0 w h.lease (by rw [h0]; exact hs) hw hu]; exact hl)]
  unfold dispatchOnce
  rw [h.still, roomForPin_lease s line e 0 w h.lease h0 hs hw hu hn, dispatchEvent_lease s line e 0 w h.lease h0 hs hw hu ht he]
  simp [hr]

/-- RD at rest: a lease. -/
theorem read_atRest (s line core) (h : LineAtRest s line) : homeAccess s line { ev := evRD, core := some core, op := 0, since := s.ns, req := none } =
  (takeNext (putCopy (raiseHorizon s line (.at (s.ns + leaseOf s line))) core line (.lease (.at (s.ns + leaseOf s line)))) line 1, .done) := by
  rw [homeAccess_atRest s line _ (act 1 [bitGL]) h rfl (by decide) (by decide) (by decide) (by decide) (Or.inl (show evRD ≠ evPN by decide)) (Or.inl (show evRD ≠ evRL by decide))]
  simp [runActions, grantLease, h.unsealed, act, wordHas, wordNext, field, bitGL, bitFO, bitRC, bitBI, bitRY, bitPH, bitWD, bitGP, bitPG, bitOW, bitNC, evRD, evUN]
/-- AQ at rest: no copy. -/
theorem acquire_atRest (s line core) (h : LineAtRest s line) : homeAccess s line { ev := evAQ, core := some core, op := 0, since := s.ns, req := none } =
  (takeNext s line 0, .done) := by
  rw [homeAccess_atRest s line _ (act 0 [bitNC]) h rfl (by decide) (by decide) (by decide) (by decide) (Or.inl (show evAQ ≠ evPN by decide)) (Or.inl (show evAQ ≠ evRL by decide))]
  simp [runActions, h.unsealed, act, wordHas, wordNext, field, bitGL, bitFO, bitRC, bitBI, bitRY, bitPH, bitWD, bitGP, bitPG, bitOW, bitNC, evAQ, evUN, evHS, answerHere, answerOnly]
/-- PN at rest: a pin. -/
theorem pin_atRest (s line core op) (h : LineAtRest s line) (hp : (pinsOf s core).length < 32) : homeAccess s line { ev := evPN, core := some core, op, since := s.ns, req := none } =
  (takeNext (putCopy s core line (.pin { warp := op / 32, no := op % 32 } s.cycles [] [])) line 3, .done) := by
  rw [homeAccess_atRest s line _ (act 3 [bitPG]) h rfl (by decide) (by decide) (by decide) (by decide) (Or.inr (by intro c hc; simp at hc; subst hc; exact hp)) (Or.inl (show evPN ≠ evRL by decide))]
  simp [runActions, grantLease, h.unsealed, act, wordHas, wordNext, field, bitGL, bitFO, bitRC, bitBI, bitRY, bitPH, bitWD, bitGP, bitPG, bitOW, bitNC, evPN, evUN, evHS, answerHere, answerOnly, pinOwner]
/-- A store, an atomic or a peer's write at rest is performed. -/
theorem write_atRest (s line) (e : HomeEvent) (h : LineAtRest s line) (he : e.ev = evWR ∨ e.ev = evAT ∨ e.ev = evRE ∨ e.ev = evRL ∨ e.ev = evRW) (hl : protoOf (perform s line e) line = 1) : homeAccess s line e =
  (takeNext (perform s line e) line 0, .done) := by
  have hw : builtinWord 1 0 e.ev = act 0 [bitWD] := by rcases he with h | h | h | h | h <;> rw [h] <;> decide
  have hn : e.ev ≠ evPN := by rcases he with h | h | h | h | h <;> rw [h] <;> decide
  have hu : e.ev ≠ evUN := by rcases he with h | h | h | h | h <;> rw [h] <;> decide
  rw [homeAccess_atRest s line e (act 0 [bitWD]) h hw (by decide) (by decide) (by decide) (by decide) (Or.inl hn) (Or.inr (by decide))]
  have hd : writeData s line e = perform s line e := by
    unfold writeData; dsimp only
    split
    · rw [hl]; simp
    · rfl
  cases hc : e.core <;> cases hq : e.req <;> 
  simp [runActions, hc, hq, hd, act, wordHas, wordNext, field, bitGL, bitFO, bitRC, bitBI, bitRY, bitPH, bitWD, bitGP, bitPG, bitOW, bitNC, hu]
/-- RR at rest: a lease where one may be granted. -/
theorem peerRead_atRest (s line) (r : PeerRequest) (h : LineAtRest s line) (hr : r.kind = .read) : homeAccess s line { ev := evRR, core := none, op := 0, since := s.ns, req := some r } =
  (takeNext (grantLease s line { ev := evRR, core := none, op := 0, since := s.ns, req := some r }) line 1, .done) := by
  rw [homeAccess_atRest s line _ (act 1 [bitGL]) h rfl (by decide) (by decide) (by decide) (by decide) (Or.inl (show evRR ≠ evPN by decide)) (Or.inl (show evRR ≠ evRL by decide))]
  simp [runActions, hr, readsOnly, act, wordHas, wordNext, field, bitGL, bitFO, bitRC, bitBI, bitRY, bitPH, bitWD, bitGP, bitPG, bitOW, bitNC, evRR, evUN]
/-- HS at rest: an answer. -/
theorem hostRead_atRest (s line) (r : PeerRequest) (h : LineAtRest s line) (hr : r.kind = .read) : homeAccess s line { ev := evHS, core := none, op := 0, since := s.ns, req := some r } =
  (takeNext (answerData s r 0) line 0, .done) := by
  rw [homeAccess_atRest s line _ (act 0 [bitNC]) h rfl (by decide) (by decide) (by decide) (by decide) (Or.inl (show evHS ≠ evPN by decide)) (Or.inl (show evHS ≠ evRL by decide))]
  simp [runActions, hr, readsOnly, act, wordHas, wordNext, field, bitGL, bitFO, bitRC, bitBI, bitRY, bitPH, bitWD, bitGP, bitPG, bitOW, bitNC, evHS, evUN, answerHere, answerOnly]

/-- EV: back to I, whatever the state. -/
theorem evict_lease (s line) (h : protoOf s line = 1) : dispatch s line (partEvent s evEV) = (takeNext s line 0, .done) := by
  have hs : sealedState s line (homeOf s line).state evEV = (homeOf s line).state := by simp [sealedState]
  have hw : builtinWord 1 (homeOf s line).state evEV = act 0 [bitWB] := by
    simp [builtinWord, leaseWord, pinWord, evRD, evRR, evAQ, evWR, evAT, evRW, evRL, evPN, evRE, evUN, evHS, evEV, evFL, evLX, evTO]
  rw [dispatch_once s line _ (Or.inl (show evEV ≠ evRL by decide))]
  unfold dispatchOnce
  rw [roomForPin_lease s line _ _ _ h rfl hs hw (by decide) (Or.inl (show evEV ≠ evPN by decide)), dispatchEvent_lease s line _ _ _ h rfl hs hw (by decide) (by decide) (by decide)]
  simp [partEvent, runActions, act, wordHas, wordNext, field, bitGL, bitFO, bitRC, bitBI, bitRY, bitPH, bitWD, bitGP, bitPG, bitOW, bitNC, bitWB, evEV, evUN]
/-- UN: a pin published. -/
theorem unpin_lease (s line) (h : protoOf s line = 1) (h3 : (homeOf s line).state = 3) : dispatchEvent s line (partEvent s evUN) = (takeNext (dropCopies s line isPin) line 0, .done) := by
  have hs : sealedState s line 3 evUN = 3 := by simp [sealedState]
  rw [dispatchEvent_lease s line _ 3 (act 0 [bitWD]) h h3 hs rfl (by decide) (by decide) (by decide)]
  simp [partEvent, runActions, act, wordHas, wordNext, field, bitGL, bitFO, bitRC, bitBI, bitRY, bitPH, bitWD, bitGP, bitPG, bitOW, bitNC, bitWB, evUN, writeData, perform, evRL, evWR, evAT, evRE]
/-- LX of a leased line: back to I. -/
theorem expire_lease (s line) (h : protoOf s line = 1) (h3 : (homeOf s line).state = 1) : dispatch s line (partEvent s evLX) = (takeNext s line 0, .done) := by
  have hs : sealedState s line 1 evLX = 1 := by simp [sealedState]
  rw [dispatch_once s line _ (Or.inl (show evLX ≠ evRL by decide))]
  unfold dispatchOnce
  rw [roomForPin_lease s line _ 1 (act 0 []) h h3 hs rfl (by decide) (Or.inl (show evLX ≠ evPN by decide)), dispatchEvent_lease s line _ 1 (act 0 []) h h3 hs rfl (by decide) (by decide) (by decide)]
  simp [partEvent, runActions, act, wordHas, wordNext, field, bitGL, bitFO, bitRC, bitBI, bitRY, bitPH, bitWD, bitGP, bitPG, bitOW, bitNC, bitWB, evLX, evUN]

end Sys2Proof.Machine
end

