-- ==== Sys2Proof/Laws/Tables.lean ====
section
/-! SUPPORT. Tables and memory in canonical form: what a read gives after a write, and that every operation keeps the
form. -/

namespace Sys2Proof.Machine

variable {α : Type} [DecidableEq α]

/-- A read after a write: the new value at its key, every other key as before. -/
theorem tget_tput (d : α) (t : Table α) (i j : Nat) (v : α) (h : ∃ lo, twf d lo t = true) :
    tget d (tput d t i v) j = if j = i then v else tget d t j := by
  obtain ⟨lo, h⟩ := h
  induction t generalizing lo with
  | nil =>
    unfold tput
    by_cases hv : v = d
    · simp [hv, tget]
    · by_cases hj : j = i <;> simp [hv, tget, hj]
  | cons e t ih =>
    obtain ⟨k, w⟩ := e
    simp only [twf, Bool.and_eq_true, decide_eq_true_eq] at h
    obtain ⟨⟨hlo, hw⟩, ht⟩ := h
    have low : ∀ (t : Table α) (m : Nat), twf d m t = true → ∀ x, x < m → tget d t x = d := by
      intro t
      induction t with
      | nil => intro m _ x _; rfl
      | cons e t ih =>
        intro m h x hx
        obtain ⟨k, w⟩ := e
        simp only [twf, Bool.and_eq_true, decide_eq_true_eq] at h
        have : x ≠ k := by omega
        simp only [tget, this, if_false]
        exact ih (k + 1) h.2 x (by omega)
    unfold tput
    by_cases h1 : i < k
    · by_cases hv : v = d
      · by_cases hj : j = i
        · have : i ≠ k := by omega
          simp only [h1, hv, hj, if_true, tget, this, if_false]
          exact low t (k + 1) ht i (by omega)
        · simp [h1, hv, hj]
      · by_cases hj : j = i
        · simp [h1, hv, hj, tget]
        · simp [h1, hv, hj, tget]
    · by_cases h2 : i = k
      · subst h2
        by_cases hv : v = d
        · by_cases hj : j = i
          · simp only [hv, hj, if_true, Nat.lt_irrefl, if_false]
            exact low t (i + 1) ht i (by omega)
          · simp [hv, hj, tget]
        · by_cases hj : j = i <;> simp [hv, hj, tget]
      · simp only [h1, if_false, h2, tget]
        rw [ih (k + 1) ht]
        by_cases hj : j = k
        · have : ¬ k = i := fun e => h2 e.symm
          simp [hj, this]
        · simp [hj]

/-- A write keeps the canonical form. -/
theorem twf_tput (d : α) (t : Table α) (lo i : Nat) (v : α) (h : twf d lo t = true) (hi : lo ≤ i) :
    twf d lo (tput d t i v) = true := by
  induction t generalizing lo with
  | nil =>
    unfold tput
    by_cases hv : v = d <;> simp [hv, twf, hi]
  | cons e t ih =>
    obtain ⟨k, w⟩ := e
    have h0 := h
    simp only [twf, Bool.and_eq_true, decide_eq_true_eq] at h
    obtain ⟨⟨hlo, hw⟩, ht⟩ := h
    have mono : ∀ (t : Table α) (m n : Nat), m ≤ n → twf d n t = true → twf d m t = true := by
      intro t m n hmn h
      cases t with
      | nil => rfl
      | cons e t =>
        simp only [twf, Bool.and_eq_true, decide_eq_true_eq] at h ⊢
        exact ⟨⟨by omega, h.1.2⟩, h.2⟩
    unfold tput
    by_cases h1 : i < k
    · by_cases hv : v = d
      · simpa [h1, hv] using h0
      · simp only [h1, hv, if_true, if_false, twf, Bool.and_eq_true, decide_eq_true_eq]
        exact ⟨⟨hi, hv⟩, ⟨⟨by omega, hw⟩, ht⟩⟩
    · by_cases h2 : i = k
      · subst h2
        by_cases hv : v = d
        · simp only [hv, if_true, Nat.lt_irrefl, if_false]
          exact mono t lo (i + 1) (by omega) ht
        · simp only [hv, if_true, Nat.lt_irrefl, if_false, twf, Bool.and_eq_true, decide_eq_true_eq]
          exact ⟨⟨hi, hv⟩, ht⟩
      · simp only [h1, h2, if_false, twf, Bool.and_eq_true, decide_eq_true_eq]
        exact ⟨⟨hlo, hw⟩, ih (k + 1) ht (by omega)⟩

/-! ## Poisoned lines -/

theorem risingFrom_mono (xs : List Nat) (m n : Nat) (h : m ≤ n) (hx : risingFrom n xs = true) : risingFrom m xs = true := by
  cases xs with
  | nil => rfl
  | cons x xs =>
    simp only [risingFrom, Bool.and_eq_true, decide_eq_true_eq] at hx ⊢
    exact ⟨by omega, hx.2⟩

theorem risingFrom_insertNat (xs : List Nat) (lo n : Nat) (h : risingFrom lo xs = true) (hn : lo ≤ n) :
    risingFrom lo (insertNat n xs) = true := by
  induction xs generalizing lo with
  | nil => simp [insertNat, risingFrom, hn]
  | cons x xs ih =>
    simp only [risingFrom, Bool.and_eq_true, decide_eq_true_eq] at h
    unfold insertNat
    by_cases h1 : n < x
    · simp only [h1, if_true, risingFrom, Bool.and_eq_true, decide_eq_true_eq]
      exact ⟨hn, by omega, h.2⟩
    · by_cases h2 : n = x
      · simp only [h2, Nat.lt_irrefl, if_true, if_false, risingFrom, Bool.and_eq_true, decide_eq_true_eq]
        exact ⟨h.1, h.2⟩
      · simp only [h1, h2, if_false, risingFrom, Bool.and_eq_true, decide_eq_true_eq]
        exact ⟨h.1, ih (x + 1) h.2 (by omega)⟩

theorem risingFrom_filter (p : Nat → Bool) (xs : List Nat) (lo : Nat) (h : risingFrom lo xs = true) :
    risingFrom lo (xs.filter p) = true := by
  induction xs generalizing lo with
  | nil => rfl
  | cons x xs ih =>
    simp only [risingFrom, Bool.and_eq_true, decide_eq_true_eq] at h
    simp only [List.filter]
    split
    · simp only [risingFrom, Bool.and_eq_true, decide_eq_true_eq]
      exact ⟨h.1, ih (x + 1) h.2⟩
    · exact ih lo (risingFrom_mono xs lo (x + 1) (by omega) h.2)

/-! ## Memory operations keep the form -/

theorem Memory.wf_iff (m : Memory) :
    m.wf = true ↔ twf unwritten 0 m.cells = true ∧ twf 0 0 m.tags = true ∧ risingFrom 0 m.poison = true := by
  simp [Memory.wf, and_assoc]

theorem Memory.setByte_wf (m : Memory) (a : Nat) (b : Byte) (h : m.wf = true) : (m.setByte a b).wf = true := by
  rw [Memory.wf_iff] at h ⊢
  exact ⟨twf_tput _ _ _ _ _ h.1 (Nat.zero_le _), h.2⟩

theorem Memory.write_wf (bs : List Byte) (m : Memory) (a : Nat) (h : m.wf = true) : (m.write a bs).wf = true := by
  induction bs generalizing m a with
  | nil => exact h
  | cons b bs ih => exact ih _ _ (Memory.setByte_wf m a b h)

theorem Memory.setTag_wf (m : Memory) (l : Nat) (t : Tag) (h : m.wf = true) : (m.setTag l t).wf = true := by
  rw [Memory.wf_iff] at h ⊢
  exact ⟨h.1, twf_tput _ _ _ _ _ h.2.1 (Nat.zero_le _), h.2.2⟩

theorem Memory.mark_wf (m : Memory) (l : Nat) (h : m.wf = true) : (m.mark l).wf = true := by
  rw [Memory.wf_iff] at h ⊢
  exact ⟨h.1, h.2.1, risingFrom_insertNat _ _ _ h.2.2 (Nat.zero_le _)⟩

theorem Memory.unmark_wf (m : Memory) (l : Nat) (h : m.wf = true) : (m.unmark l).wf = true := by
  rw [Memory.wf_iff] at h ⊢
  exact ⟨h.1, h.2.1, risingFrom_filter _ _ _ h.2.2⟩

theorem Memory.store_wf (m : Memory) (a : Nat) (bs : List Byte) (h : m.wf = true) : (m.store a bs).wf = true := by
  unfold Memory.store
  split
  · exact Memory.unmark_wf _ _ (Memory.write_wf bs m a h)
  · exact Memory.write_wf bs m a h

theorem Memory.setTagByte_wf (m : Memory) (o : Nat) (b : Byte) (h : m.wf = true) : (m.setTagByte o b).wf = true :=
  Memory.setTag_wf _ _ _ h

theorem Memory.tagWrite_wf (bs : List Byte) (m : Memory) (o : Nat) (h : m.wf = true) : (m.tagWrite o bs).wf = true := by
  induction bs generalizing m o with
  | nil => exact h
  | cons b bs ih => exact ih _ _ (Memory.setTagByte_wf m o b h)

/-! ## Bytes read after a write -/

theorem Memory.byte_setByte (m : Memory) (a x : Nat) (b : Byte) (h : m.wf = true) :
    (m.setByte a b).byte x = if x = a then b else m.byte x :=
  tget_tput _ _ _ _ _ ⟨0, ((Memory.wf_iff m).1 h).1⟩

/-- Each byte of memory after a write: the byte written there, or the old one. -/
theorem Memory.byte_write (bs : List Byte) (m : Memory) (a x : Nat) (h : m.wf = true) :
    (m.write a bs).byte x = if a ≤ x ∧ x < a + bs.length then (bs[x - a]?).getD 0 else m.byte x := by
  induction bs generalizing m a with
  | nil =>
    have h1 : ¬ (a ≤ x ∧ x < a + ([] : List Byte).length) := by simp only [List.length_nil]; omega
    rw [if_neg h1]; rfl
  | cons b bs ih =>
    simp only [Memory.write, List.length_cons]
    rw [ih _ _ (Memory.setByte_wf m a b h), Memory.byte_setByte m a x b h]
    by_cases h1 : a + 1 ≤ x ∧ x < a + 1 + bs.length
    · have h2 : a ≤ x ∧ x < a + (bs.length + 1) := by omega
      have h3 : x - a = (x - (a + 1)) + 1 := by omega
      rw [if_pos h1, if_pos h2, h3, List.getElem?_cons_succ]
    · rw [if_neg h1]
      by_cases h4 : x = a
      · have h2 : a ≤ x ∧ x < a + (bs.length + 1) := by omega
        rw [if_pos h4, if_pos h2, h4, Nat.sub_self, List.getElem?_cons_zero, Option.getD_some]
      · have h2 : ¬ (a ≤ x ∧ x < a + (bs.length + 1)) := by omega
        rw [if_neg h4, if_neg h2]

end Sys2Proof.Machine
end

