-- ==== Sys2Proof/Laws/Units.lean ====
section
/-! SUPPORT. Reads of the part's units: of local memory they make no request, and wait for their lines alone (14 R386, R393;
15 R399). -/

namespace Sys2Proof.Laws
open Sys2Proof.Machine

theorem ask_local (u : UnitReader) (scope : Nat) (s : State) (x : Nat × Target × Nat) (h : isRemote x.2.1 = false) :
    u.ask scope s x = s := by simp [UnitReader.ask, h]

theorem asks_local (u : UnitReader) (scope : Nat) (s : State) :
    ∀ xs : List (Nat × Target × Nat), (∀ x ∈ xs, isRemote x.2.1 = false) → xs.foldl (u.ask scope) s = s
  | [], _ => rfl
  | x :: xs, h => by
    rw [List.foldl_cons, ask_local u scope s x (h x (List.mem_cons_self ..))]
    exact asks_local u scope s xs fun y hy => h y (List.mem_cons_of_mem _ hy)

theorem piece_local (u : UnitReader) (s : State) (t : Target × Nat) (h : isRemote t.1 = false) :
    u.piece s t = readPlace s t.1 t.2 := by simp [UnitReader.piece, h]

/-- A frame in local memory is there, and reads as its core sees it. -/
theorem frame_local {s : State} {l : Launch} {w : Warp} {ts : List (Target × Nat)} (h : framePieces s l w = .ok ts)
    (hl : ∀ t ∈ ts, isRemote t.1 = false) : frameIn s l w = true ∧
      readFrame s l w = some (ts.flatMap fun t => (frameReader l w).piece { s with mem := seenMem s w.core } t) := by
  have hn : (ts.any fun t => isRemote t.1 && ((frameReader l w).came s t).any (·.1 != 0)) = false :=
    List.any_eq_false.mpr fun t ht => by simp [hl t ht]
  constructor
  · simp only [frameIn, h]
    exact List.all_eq_true.mpr fun t ht => by simp [hl t ht]
  · unfold readFrame
    rw [h]
    exact if_neg (by rw [hn]; exact Bool.false_ne_true)

end Sys2Proof.Laws
end

