-- ==== Sys2Proof/Tests/Slice0.lean ====
section
/-! SUPPORT. The model's own tests: words written out from the spec's encodings, ill-formed instructions that the check
refuses, results that the spec's rules give, and for each statement a state and operands that meet its hypotheses. -/

namespace Sys2Proof.Tests

open Sys2Proof.Machine

set_option Elab.async false

/-! ## Words of the spec's encodings (02 R47 to R67) -/

/-- The parcels of a value, the highest first. -/
def parcels (n w : Nat) : List Parcel := (List.range n).reverse.map fun i => BitVec.ofNat 16 (w / 65536 ^ i)
/-- A value's decoding. -/
def reads (n w : Nat) : Option Instr := (decode (parcels n w)).toOption
/-- A 32-bit form from its fields (R49): op8, d, a, g and the ten low bits. -/
def form32 (op8 : BitVec 8) (d a : BitVec 2) (g : BitVec 6) (rest : BitVec 10) : Nat :=
  (0b11#2 ++ 0#1 ++ 0#1 ++ op8 ++ d ++ a ++ g ++ rest).toNat
/-- An X form from op8x and bits [51:0] (R51). -/
def formX (op8x : BitVec 8) (rest : BitVec 52) : Nat := (0xE#4 ++ op8x ++ rest).toNat

def noGuard : Guard := { p := 0, n := false, e := false }

/-- IADD k.y, k.x, g3 is op6 0x05 (R47, R59). -/
theorem test_decode_short : reads 1 (0x05#6 ++ 1#2 ++ 0#2 ++ 3#6).toNat = some (.iaddShort { d := 1, a := 0, g := 3 }) := by decide
/-- BPS with the offset -2 (R59). -/
theorem test_decode_bps : reads 1 (0x2A#6 ++ 0x3FE#10).toNat = some (.bps 0x3FE) := by decide
/-- `sel k0.y, k0.x, g3, p1` is 0xC054_0C40 (05 R169). -/
theorem test_decode_sel : reads 2 0xC0540C40 =
    some (.sel { sp := none, d := 1, a := 0, g := 3, x := false, l := false, gd := { noGuard with p := 1 }, m := 0 }) := by decide
/-- IMIN, unsigned, with the last use of g5, guarded by not p2: op8 0x18 (R60). -/
theorem test_decode_long : reads 2 (form32 0x18 2 1 5 (0#1 ++ 1#1 ++ 2#2 ++ 1#1 ++ 1#1 ++ 1#4)) =
    some (.imin { sp := none, d := 2, a := 1, g := 5, x := false, l := true, gd := { p := 2, n := true, e := true }, m := 1 }) := by
  decide
/-- A safe point: S is 1 and the live-mask word follows (R53). -/
theorem test_decode_safe : reads 4 0xDC800000FFFFFF00 = some (.safe 0xFFFFFF00#32) := by decide
/-- FMAS with s7: op8 0x60 (R62). -/
theorem test_decode_uniform : reads 2 (form32 0x60 0 1 9 (7#5 ++ 1#1 ++ 0#1 ++ 2#3)) =
    some (.fmas { sp := none, d := 0, a := 1, g := 9, u := 7, e := true, n := false, m := 2 }) := by decide
/-- ICMPI with condition 2 and immediate -1: op8 0x8A (R63). -/
theorem test_decode_immediate : reads 2 (form32 0x8A 0 3 0b001011 0b1111111111) =
    some (.icmpi { sp := none, d := 0, a := 3, imm := 0x2FFF }) := by decide
/-- LD.b64 from s6:s7 and g4 with imm6 5: op8 0xA5 (R64). -/
theorem test_decode_load : reads 2 (form32 0xA5 2 0 4 (3#4 ++ 5#6)) =
    some (.ldB64 { sp := none, d := 2, a := 0, g := 4, sb := 3, imm := 5 }) := by decide
/-- BRA back by 3, guarded by p1: op8 0xC0 (R65). -/
theorem test_decode_branch : reads 2 (form32 0xC0 1 0b01 0b111111 0b1111111101) =
    some (.bra { sp := none, gd := { p := 1, n := false, e := true }, off := 0xFFFD }) := by decide
/-- `trywait.rackfill 3, 10` is 0xCC60_0C0A (04 R151). -/
theorem test_decode_trywait : reads 2 0xCC600C0A = some (.trywaitRackfill none 3 10) := by decide
/-- VOTE.any p5: op8 0xE9 with m 1 (R66). -/
theorem test_decode_vote : reads 2 (form32 0xE9 0 0 5 1) =
    some (.voteAny { sp := none, d := 0, a := 0, g := 5, x := false, l := false, gd := noGuard, m := 1 }) := by decide
/-- MMA of E4M3 by E4M3, op8x 0x00, bits [51:0] as 08 R242 gives them. -/
theorem test_decode_mma : reads 4 (formX 0x00 (4#4 ++ 5#4 ++ 8#8 ++ 2#5 ++ 100#13 ++ 3#13 ++ 0#2 ++ 0#3)) =
    some (.mma { sp := none, fa := 4, fb := 5, kn := 8, s := 2, woff := 100, wpitch := 3, a := 0 }) := by decide
/-- TACT of function 2 on columns 8 to 23: op8x 0x0D (08 R246). -/
theorem test_decode_tile : reads 4 (formX 0x0D (8#6 ++ 15#6 ++ 0#2 ++ 0#2 ++ 2#4 ++ 0#5 ++ 0#13 ++ 0#3 ++ 0#11)) =
    some (.tact { sp := none, c0 := 8, ncm1 := 15, d := 0, a := 0, code := 2, s := 0, woff := 0, rm := 0 }) := by decide
/-- CPYT to rack 1's slot with a completion word: op8x 0x21 (09 R254). -/
theorem test_decode_copy : reads 4 (formX 0x21
      (0#2 ++ 1#1 ++ 1#1 ++ 1#5 ++ 4#4 ++ 5#4 ++ 1#1 ++ 0#1 ++ 0#4 ++ 0#3 ++ 0#13 ++ 0#6 ++ 6#6 ++ 0#1)) =
    some (.cpyt { sp := none, dir := 0, buf := true, rk := true, rack := 1, sb := 4, cb := 5, cw := true, chk := false, fmt := 0,
                  rm := 0, boff := 0, g := 0, rg := 6 }) := by decide
/-- ATOM.add.n64 at scope 3, releasing: op8x 0x40 (11 R313). -/
theorem test_decode_atom : reads 4 (formX 0x40
      (0#4 ++ 3#3 ++ 3#3 ++ 2#2 ++ 2#2 ++ 0#2 ++ 0#2 ++ 7#6 ++ 1#4 ++ 16#16 ++ 0#2 ++ 0#6)) =
    some (.atom { sp := none, op := 0, ty := 3, scope := 3, sem := 2, d := 2, a := 0, c := 0, g := 7, sb := 1, off := 16, hm := 0 }) := by
  decide
/-- REL of a word at scope 2: op8x 0x45 with w 1 (11 R300). -/
theorem test_decode_rel : reads 4 (formX 0x45 (2#3 ++ 1#1 ++ 0#1 ++ 3#2 ++ 9#6 ++ 2#4 ++ 8#16 ++ 0#19)) =
    some (.relWord { sp := none, scope := 2, size := false, slot := 3, g := 9, sb := 2, off := 8 }) := by decide
/-- RVARR at point 7 that writes slot w: op8x 0x51 (11 R320). -/
theorem test_decode_rendezvous : reads 4 (formX 0x51 (7#5 ++ 0#9 ++ 3#2 ++ 1#1 ++ 0#35)) =
    some (.rvarr { sp := none, pt := 7, cnt := 0, d := 3, wd := true }) := by decide
/-- RKREL.skip of rack 31: op8x 0x5C (07 R225). -/
theorem test_decode_rack : reads 4 (formX 0x5C (31#5 ++ 0#2 ++ 0#2 ++ 1#1 ++ 0#42)) =
    some (.rkrelSkip { sp := none, rack := 31, d := 0, a := 0 }) := by decide
/-- `spill k2.z, [s6+32]` is 0xE708_C000_8000_0000 (05 R173). -/
theorem test_decode_spill : reads 4 0xE708C00080000000 = some (.spill { sp := none, slot := 2, sb := 3, off := 2 }) := by decide
/-- `trace 5, k0.y .all` is 0xE780_5700_0000_0000 (16 R431). -/
theorem test_decode_trace : reads 4 0xE780570000000000 =
    some (.trace { sp := none, mark := 5, a := 1, v := true, all := true }) := by decide
/-- `csrw k1.y, 0x041` is 0xE7F0_4150_0000_0000 (15 R418). -/
theorem test_decode_csrw : reads 4 0xE7F0415000000000 =
    some (.csrw { sp := none, csr := 0x041, w := false, r := true, d := 1, a := 0 }) := by decide
/-- `qfetch a0, a1, a2` is 0x00C5_850B (14 R392). -/
theorem test_decode_qfetch : decodeXbrod 0x00C5850B#32 = some (.qfetch { rd := 10, rs1 := 11, rs2 := 12 }) := by decide
/-- An op8 that R60 leaves unassigned, and a reserved bit of RKACQ (07 R225), are refused. -/
theorem test_decode_refused : reads 2 (form32 0x06 0 0 0 0) = none ∧ reads 4 (formX 0x59 (0#5 ++ 0#2 ++ 0#2 ++ 1#1 ++ 0#42)) = none := by
  decide

/-! ## Ill-formed instructions (02 R46, R50 to R66), which the check refuses -/

def s16 : S16 := { d := 1, a := 0, g := 3 }
def lr : LR := { sp := none, d := 0, a := 0, g := 3, x := false, l := true, gd := noGuard, m := 0 }
def bare : LR := { lr with g := 0, l := false }
def ls : LS := { sp := none, d := 0, a := 0, g := 0, u := 7, e := false, n := false, m := 0 }
def li : LI := { sp := none, d := 1, a := 0, imm := 7 }
def lm : LM := { sp := none, d := 0, a := 0, g := 3, sb := 1, imm := 0 }
def lb : LB := { sp := none, gd := noGuard, off := 0 }
def mmaf : MmaF := { sp := none, fa := 4, fb := 5, kn := 8, s := 2, woff := 0, wpitch := 4, a := 0 }
def tile : TileF := { sp := none, c0 := 0, ncm1 := 0, d := 0, a := 0, code := 0, s := 0, woff := 0, rm := 0 }
def copy : CopyF := { sp := none, dir := 0, buf := true, rk := false, rack := 0, sb := 1, cb := 0, cw := false, chk := false,
                      fmt := 0, rm := 0, boff := 0, g := 0, rg := 0 }
def atomf : AtomF := { sp := none, op := 0, ty := 0, scope := 1, sem := 0, d := 0, a := 0, c := 0, g := 3, sb := 1, off := 0, hm := 0 }
def sync : SyncF := { sp := none, scope := 1, size := true, slot := 0, g := 3, sb := 1, off := 8 }
def sca : ScopedF := { sp := none, scope := 1, size := 2, slot := 0, g := 3, sb := 1, off := 8, pol := 0 }
def rv : RvF := { sp := none, pt := 2, cnt := 0, d := 0, wd := false }
def rack : RackF := { sp := none, rack := 1, d := 0, a := 0 }
def csr : CsrwF := { sp := none, csr := 0x041, w := true, r := false, d := 0, a := 0 }
def xbrod : XbrodF := { rd := 1, rs1 := 2, rs2 := 0 }

/-- Fields of the S16 forms that must be 0, and immediates past 31 (R59). -/
theorem test_wf_short : ∀ i ∈ ([.movShort s16, .getShort { s16 with a := 1 }, .putShort s16, .shli { s16 with g := 32 },
    .fmulsShort { s16 with g := 32 }, .stw s16, .flt s16, .selp s16] : List Instr), i.wellFormed = false := by decide
/-- A live mask whose low byte is not 0 (R53). -/
theorem test_wf_live : Instr.wellFormed (.iadd { lr with sp := some 1 }) = false := by decide
/-- LR and LC forms: registers not read, moves, modifiers, pairs, roundings, conditions, types and codes (R50, R55 to R58,
R60, R66). -/
theorem test_wf_long : ∀ i ∈ ([.mov lr, .put lr, .puts { bare with g := 32 }, .sel { lr with gd := { noGuard with e := true } },
    .iadd { lr with m := 2 }, .imul64w { lr with d := 1 }, .iadd64 { lr with g := 3 }, .isub64 { lr with g := 2, x := true },
    .popc lr, .fadd { lr with m := 12 }, .fmin { lr with m := 2 }, .fexp2 { bare with m := 4 }, .frnd { bare with m := 10 },
    .cvti { bare with g := 24 }, .cvtf { bare with g := 2, a := 1 }, .pack2 { bare with g := 2 }, .unpk2 { bare with g := 4 },
    .cvtn { bare with g := 5 }, .ballot { bare with d := 1 }, .fold { bare with m := 11 }] : List Instr), i.wellFormed = false := by
  decide
theorem test_wf_compare : ∀ i ∈ ([.icmp { lr with m := 10 }, .fcmp { lr with m := 14 }, .pnot { bare with g := 8 },
    .pand { bare with d := 1 }, .leader { bare with g := 1 }, .voteAny bare, .pmov { bare with a := 1 }, .pstore { bare with d := 1 }] :
    List Instr), i.wellFormed = false := by decide
/-- Special registers: reserved numbers, pairs, and those that are read only (05 R172). -/
theorem test_wf_special : ∀ i ∈ ([.srd { bare with g := 0x20 }, .srd { bare with g := 0x04, d := 1 }, .srdSet { bare with g := 0x08, m := 1 },
    .srdSet { bare with g := 0x19 }] : List Instr), i.wellFormed = false := by decide
/-- LS, LI, LM and LB forms (R62 to R65). -/
theorem test_wf_others : ∀ i ∈ ([.fmas { ls with m := 6 }, .fadds { ls with g := 1 }, .sels { ls with e := true }, .icmps { ls with g := 10 },
    .fcmps { ls with g := 14 }, .ldi { li with a := 1 }, .icmpi { li with d := 0, imm := 0xA000 }, .ixset { li with d := 0, imm := 64 },
    .ixadd { li with d := 0, imm := 0xFFC0 }, .ldB64 { lm with d := 1 }, .ldB128 { lm with d := 2 }, .stB128 { lm with a := 2 },
    .stlB32 lm, .ldbB32 { lm with sb := 2 }, .stbB64 { lm with sb := 0 }, .ldbyB32 { lm with sb := 8 }] ++ [.brx { lb with off := 1 }, .ret { lb with off := 1 },
    .exit { lb with off := 1 }, .trywaitRackfill none 32 0, .trywaitPhase none 24 0, .trywaitCtr none 16 2 0,
    .trywaitCtr none 8 3 0] : List Instr), i.wellFormed = false := by decide
/-- The matrix engine (08 R232 to R234, R246) and copies (09 R255). -/
theorem test_wf_engines : ∀ i ∈ ([.mma { mmaf with fa := 0 }, .mma { mmaf with kn := 0 }, .mma { mmaf with kn := 1 }, .mma { mmaf with a := 1 },
    .mmag { mmaf with fa := 14, fb := 14 }, .tbind { tile with code := 4 }, .tzero { tile with c0 := 63, ncm1 := 1 },
    .tst { tile with code := 3 }, .tld { tile with a := 1 }, .tqnt { tile with rm := 6 }, .trowred { tile with code := 6 },
    .cpyl { copy with dir := 3 }, .cpyl { copy with rack := 1 }, .cpyl { copy with cb := 1 }, .cpyl { copy with dir := 2 },
    .cpyt { copy with dir := 2, buf := false }, .cpys { copy with dir := 1, rk := true }, .cpyx { copy with chk := true },
    .cpyq copy, .cpyq { copy with fmt := 8, rm := 7 }] : List Instr), i.wellFormed = false := by decide
/-- Atomics, ordering, scoped accesses, rendezvous points, racks, records, crumbs, control registers, Xbrod. -/
theorem test_wf_system : ∀ i ∈ ([.atom { atomf with op := 12 }, .atom { atomf with op := 7 }, .atom { atomf with ty := 3, d := 1 },
    .atom { atomf with hm := 1 }, .atom { atomf with off := 2 }, .atomc atomf, .red { atomf with op := 6 }, .red { atomf with sem := 1 },
    .acqWord { sync with slot := 1 }, .relWord { sync with off := 4 }, .flush { sp := none, scope := 0, sb := 1, s := 2 },
    .lds { sca with scope := 0 }, .lds { sca with size := 5 }, .sts { sca with size := 3, slot := 1 },
    .sts { sca with off := 2 }, .sts { sca with pol := 2 }] ++ [.rvinit { rv with cnt := 256 }, .rvarr { rv with d := 1 },
    .rvwait { rv with wd := true }, .rkacq { rack with d := 1 }, .rkpub { rack with d := 2 }, .rkrelSkip { rack with a := 1 },
    .emita { sp := none, node := 0, d := 1, one := false }, .emitc { sp := none, a := 1, one := false },
    .evset { sp := none, bit := 1, ind := true, a := 0, scope := 2 }, .trace { sp := none, mark := 5, a := 1, v := false, all := false },
    .csrw { csr with csr := 0x044 }, .csrw { csr with w := false }, .csrw { csr with d := 1 }, .sigwait { xbrod with rs2 := 1 },
    .evpost xbrod] : List Instr), i.wellFormed = false := by decide

/-! ## A small machine -/

/-- Memory with the tables of tenant 0's page table: one page of 16 GiB of local memory from address 0 on, writable
(10 R278). -/
def tables : Memory := { cells := [(0x1000000, 0x01), (0x1000002, 0x01), (0x1000003, 0x01), (0x1010000, 0x07)], tags := [], poison := [] }
/-- Tenant 0, enabled over that table, with a window on all local memory and pools for private memory and save areas. -/
def tenant0 : Tenant :=
  { Tenant.reset 0 with enabled := true, ptroot := 0x1000000, privBase := 0x4000001, privSize := 0x1000000, csaveBase := 0x6000001,
                        csaveSize := 0x1000000, windows := (0x8000000000000000, 0x7FFFFF0001) :: List.replicate 15 (0, 0) }
/-- The part with that tenant. -/
def base : State := { State.reset with mem := tables, tenants := State.reset.tenants.set 0 tenant0 }
/-- One strand, in focus, of a privileged launch whose code is one instruction. -/
def at_ (i : Instr) : State := { placeCode base (encode i ++ List.replicate 16 0) with focus := some ⟨3, 0⟩ }
def withStrand0 (f : Strand → Strand) (s : State) : State := updStrand s ⟨3, 0⟩ f
def withWarp0 (f : Warp → Warp) (s : State) : State := updWarp s 3 f
def withTeam0 (f : Team → Team) (s : State) : State := updTeam s 2 0 f
/-- n operations of the strand under way, counted in a counter. -/
def counts (n : Nat) : List Counted := List.replicate n { op := 0, done := false }
/-- The strand as its warp's trap kernel's. -/
def inKernel (s : State) : State :=
  { withWarp0 (fun w => { w with mode := .handler, kernel := some (Strand.atLaunch 16 0 16 0 0), traps := 1 }) s with
    focus := some ⟨3, 16⟩, launches := s.launches.map fun l => { l with trap := some placedNode } }

theorem some_of_map {α : Type} {o : Option α} {P : α → Bool} (h : (o.map P).getD false = true) : ∃ x, o = some x ∧ P x = true := by
  cases o <;> simp_all
theorem ok_of_toOption {ε α : Type} {x : Except ε α} {a : α} (h : x.toOption = some a) : x = .ok a := by
  cases x <;> simp_all [Except.toOption]

/-- Some state runs the instruction in a context that meets P. -/
def Meets (i : Instr) (g : Option Guard) (P : Ctx → Bool) : Prop := ∃ s c, Runs s i g c ∧ P c = true
theorem meets {i : Instr} {g : Option Guard} {P : Ctx → Bool} (f : State → State)
    (h : ((focusCtx (f (at_ i)) g (encode i).length (instrValue (encode i))).map P).getD false = true) : Meets i g P :=
  ⟨f (at_ i), some_of_map h⟩

/-- The accesses of a context and the state after their checks, where these find nothing. -/
def reached (c : Ctx) (byAddr : Bool) (size : Nat) (write tagOk : Bool) (ls : List (Nat × DWord)) :
    Option (State × List (Nat × DWord × Target)) :=
  let r := checkLanes c.s c.w0.core c.tenant { size, write, tagOk, priv := c.l.privileged } ls
  if firstFailure byAddr r.2 = none then some (r.1, accessesOf r.2) else none
/-- Some state runs the instruction in a context whose accesses pass their checks and which, with them, meets P. -/
def MeetsReach (i : Instr) (g : Option Guard) (byAddr : Bool) (size : Nat) (write tagOk : Bool) (ls : Ctx → List (Nat × DWord))
    (P : Ctx → State → List (Nat × DWord × Target) → Bool) : Prop :=
  ∃ s c s1 ps, Runs s i g c ∧ c.Reaches byAddr size write tagOk (ls c) s1 ps ∧ P c s1 ps = true
theorem meetsReach {i : Instr} {g : Option Guard} {byAddr : Bool} {size : Nat} {write tagOk : Bool}
    {ls : Ctx → List (Nat × DWord)} {P : Ctx → State → List (Nat × DWord × Target) → Bool} (f : State → State)
    (h : ((focusCtx (f (at_ i)) g (encode i).length (instrValue (encode i))).map fun c =>
      ((reached c byAddr size write tagOk (ls c)).map fun r => P c r.1 r.2).getD false).getD false = true) :
    MeetsReach i g byAddr size write tagOk ls P := by
  obtain ⟨c, hc, h⟩ := some_of_map h
  obtain ⟨r, hr, h⟩ := some_of_map h
  unfold reached at hr
  dsimp only at hr
  split at hr
  · cases hr; exact ⟨_, c, _, _, hc, ⟨rfl, ‹_›, rfl⟩, h⟩
  · cases hr
/-- The lanes of Exec with their addresses. -/
def lanesAt (va : Ctx → Nat → DWord) (c : Ctx) : List (Nat × DWord) := c.lanes.map fun l => (l, va c l)

theorem isNext {σ φ ρ : Type} {o : Host.Outcome σ φ ρ} (h : (match o with | .next _ => true | _ => false) = true) :
    ∃ t, o = .next t := by
  cases o <;> simp_all

/-! ## Operands and states that meet the hypotheses of the statements -/

theorem test_decodeOfEncode_met : ∃ i : Instr, i.wellFormed = true ∧ encode i ≠ [] := ⟨.iadd lr, by decide⟩
theorem test_xbrodDecodeOfEncode_met : ∃ (i : Instr) (w : Word), i.wellFormed = true ∧ i.xbrodWord = some w :=
  ⟨.sigwait xbrod, _, by decide, rfl⟩
theorem test_stepRuns_met : ∃ (s : State) (r : StrandRef) (c : Ctx) (i : Instr), turn s = .strand r ∧
    focusCtx { s with focus := some r } none 1 0 = some c ∧ dueFault { s with focus := some r } r c.k0 = none ∧
    c.k0.cancelled = none ∧ decode (fetchParcels { s with focus := some r } c.l c.k0 c.addr.toNat) = .ok i := by
  let s := placeCode State.reset (encode (.iadd lr) ++ List.replicate 16 0)
  obtain ⟨c, hc, h⟩ := some_of_map (o := focusCtx { s with focus := some ⟨3, 0⟩ } none 1 0) (P := fun c =>
    decide (dueFault { s with focus := some ⟨3, 0⟩ } ⟨3, 0⟩ c.k0 = none ∧ c.k0.cancelled = none ∧
      (decode (fetchParcels { s with focus := some ⟨3, 0⟩ } c.l c.k0 c.addr.toNat)).toOption = some (.iadd lr))) (by decide +kernel)
  obtain ⟨h1, h2, h3⟩ := of_decide_eq_true h
  exact ⟨s, ⟨3, 0⟩, c, .iadd lr, by decide +kernel, hc, h1, h2, ok_of_toOption h3⟩
theorem test_stepKeepsMemory_met : ∃ s t : State, s.mem.wf = true ∧ step s = .next t := by
  obtain ⟨t, h⟩ := isNext (o := step (placeCode State.reset [0#16])) (by decide +kernel)
  exact ⟨_, t, by decide +kernel, h⟩

theorem test_longInteger_met : Meets (.iadd lr) (some lr.gd) fun c => decide (c.Readable [c.lrReg lr] []) :=
  meets id (by decide +kernel)
theorem test_shortInteger_met : Meets (.iaddShort s16) none fun c => decide (c.Readable [s16.g.toNat] []) :=
  meets id (by decide +kernel)
theorem test_shortImmediate_met : Meets (.shli s16) none fun _ => true := meets id (by decide +kernel)
theorem test_longImmediate_met : Meets (.iaddi li) none fun _ => true := meets id (by decide +kernel)
theorem test_unary_met : Meets (.popc bare) (some bare.gd) fun _ => true := meets id (by decide +kernel)
theorem test_wideProduct_met : Meets (.imul64w lr) (some lr.gd) fun c => decide (c.Readable [c.lrReg lr] []) :=
  meets id (by decide +kernel)
def lrPair : LR := { lr with g := 62 }
theorem test_wideSum_met : Meets (.iadd64 lrPair) (some lr.gd) fun c => decide (c.Readable [62, 63] []) :=
  meets id (by decide +kernel)
theorem test_division_met : Meets (.idiv lr) (some lr.gd) fun c => decide (c.w0.kernel = none) := meets id (by decide +kernel)
theorem test_divisionNested_met : Meets (.irem lr) (some lr.gd) fun c => decide (c.w0.kernel ≠ none ∧ c.g.phase = .placed) :=
  meets inKernel (by decide +kernel)
theorem test_uniformShort_met : Meets (.iaddsShort s16) none fun c => decide (c.Readable [] [s16.g.toNat % 32]) :=
  meets id (by decide +kernel)
theorem test_uniformLong_met : Meets (.iadds ls) (some (lsGuard ls)) fun c => decide (c.Readable [] [ls.u.toNat]) :=
  meets id (by decide +kernel)
theorem test_uniformMultiply_met :
    Meets (.imas ls) (some (lsGuard ls)) fun c => decide (c.Readable [ls.g.toNat] [ls.u.toNat]) := meets id (by decide +kernel)

/-! Frames lie in memory that the part can reach: every unit access below 16 GiB passes its checks. -/

theorem walk_tables {va : Nat} (h : va < 2 ^ 34) : walk tables 0x1000000 va = .leaf 7 34 := by
  have h0 : va / 2 ^ 43 = 0 := Nat.div_eq_of_lt (by omega)
  have h1 : va / 2 ^ 34 = 0 := Nat.div_eq_of_lt h
  have e0 : BitVec.ofNat 64 (leNat (tables.read (0x1000000 + 8 * (0 % 2 ^ 13)) 8)) = 0x1010001#64 := by decide +kernel
  have e1 : BitVec.ofNat 64 (leNat (tables.read (pteAddr 0x1010001#64 + 8 * (0 % 2 ^ 9)) 8)) = 7#64 := by decide +kernel
  rw [walk, levels, walkFrom, walkFrom, h0, h1, e0, e1]
  rw [if_neg (by decide), if_neg (by decide), if_neg (by decide), if_neg (by decide), if_neg (by decide), if_neg (by decide),
    if_pos (by decide), if_neg (by decide)]
  rfl
theorem window_tables {va : Nat} (h : va < 2 ^ 34) : windowCheck tenant0.windows 0 0 va = 0 := by
  have hit : windowHit 0x8000000000000000 0x7FFFFF0001 0 0 (va / 65536) = true := by
    have l : field (0x7FFFFF0001 : DWord) 51 16 = 0x7FFFFF := by decide
    have z : field (0x8000000000000000 : DWord) 51 16 = 0 := by decide
    have t : field (0x8000000000000000 : DWord) 62 61 = 0 := by decide
    have d : field (0x8000000000000000 : DWord) 60 52 = 0 := by decide
    have p : va / 65536 ≤ 0x7FFFFF := by omega
    simp only [windowHit, l, z, t, d, Nat.zero_le, p, decide_true]
    decide
  have none_ : windowHit 0 0 0 0 (va / 65536) = false := by simp [windowHit]
  have out : inTagWindow 0 va = false := by
    have : ¬ tagBase ≤ va := by unfold tagBase; omega
    simp [inTagWindow, this]
  have ws : tenant0.windows = (0x8000000000000000, 0x7FFFFF0001) :: List.replicate 15 (0, 0) := rfl
  have f : (tenant0.windows.filter fun w => windowHit w.1 w.2 0 0 (va / 65536)) = [(0x8000000000000000, 0x7FFFFF0001)] := by
    rw [ws, List.filter_cons_of_pos (by exact hit)]
    rw [List.filter_eq_nil_iff.mpr (by intro x hx; simp only [List.mem_replicate] at hx; rw [hx.2]; exact ne_true_of_eq_false none_)]
  simp [windowCheck, f, out]
theorem unit_passes {s : State} (hm : s.mem = tables) (ht : tenantOf s 0 = tenant0) (hr : s.part.ranges = []) (w p : Bool)
    {va : Nat} (h : va < 2 ^ 34) : checkUnit s 0 (unitReq w p) va = .ok (.mem va) := by
  have e : pteAddr 7 = 0 := by decide
  have hv : va % 2 ^ 56 = va := Nat.mod_eq_of_lt (by omega)
  have big : ¬ 2 ^ 56 ≤ va := by omega
  have m34 : va % 2 ^ 34 = va := Nat.mod_eq_of_lt h
  have root : tenant0.ptroot.toNat = 0x1000000 := by decide
  have sealed (pa : Nat) : s.part.sealedAt pa = false := by simp [Part.sealedAt, Part.rangeOf, hr]
  have notP : pteP 7 = false := by decide
  have wr : pteW 7 = true := by decide
  have tg : pteTarget 7 = 0 := by decide
  have dv : pteDevice 7 = 0 := by decide
  have va64 : (BitVec.ofNat 64 va).toNat = va := by simp; omega
  simp only [checkUnit, if_neg big, translateFresh, hm, ht, root, walk_tables h, notP, tg, dv, e, m34, Nat.zero_add, window_tables h,
    checkPlace, placeOf, va64, if_pos (show va < memSize by unfold memSize; omega), sealed, wr, unitReq]
  simp
theorem spans_pass {s : State} (hm : s.mem = tables) (ht : tenantOf s 0 = tenant0) (hr : s.part.ranges = []) (w p : Bool) :
    ∀ xs : List (Nat × Nat), (∀ x ∈ xs, x.1 < 2 ^ 34) →
      ∃ ts, checkSpans s 0 (unitReq w p) xs = .ok ts ∧ ∀ t ∈ ts, isRemote t.1 = false
  | [], _ => ⟨[], rfl, by simp⟩
  | (va, n) :: xs, h => by
    obtain ⟨ts, hts, hl⟩ := spans_pass hm ht hr w p xs fun x hx => h x (List.mem_cons_of_mem _ hx)
    have hva := unit_passes hm ht hr w p (h (va, n) (List.mem_cons_self ..))
    exact ⟨(.mem va, n) :: ts, by simp [checkSpans, hva, linkDown, hts],
      by simpa only [List.forall_mem_cons] using ⟨rfl, hl⟩⟩
theorem frame_spans : ∀ x ∈ spansOf 0 frameSize, x.1 < 2 ^ 34 := by decide +kernel
theorem frame_reads {s : State} {l : Launch} {w : Warp} (hm : s.mem = tables) (ht : tenantOf s 0 = tenant0) (hr : s.part.ranges = [])
    (hl : l.tenant = 0) (hw : w.tframe = 0) : frameIn s l w = true ∧ ∃ b, readFrame s l w = some b := by
  obtain ⟨ts, h, hts⟩ := spans_pass hm ht hr false l.privileged (spansOf 0 frameSize) frame_spans
  have hp : framePieces s l w = .ok ts := by simp only [framePieces, hl, hw]; exact h
  exact ⟨(Laws.frame_local hp hts).1, _, (Laws.frame_local hp hts).2⟩
theorem frame_writes {s : State} {l : Launch} {w : Warp} {bs : List Byte} (hm : s.mem = tables) (ht : tenantOf s 0 = tenant0)
    (hr : s.part.ranges = []) (hl : l.tenant = 0) (hw : w.tframe = 0) (hb : bs.length = frameSize) :
    ∃ t, writeFrame s l w bs = some t := by
  obtain ⟨ts, h, -⟩ := spans_pass (s := { dropReads s 0 w.uid with nextId := (dropReads s 0 w.uid).nextId + 1 }) hm ht hr true l.privileged
    (spansOf 0 frameSize) frame_spans
  exact ⟨_, by simp only [writeFrame, unitWrite, writeAs, hl, hw, hb]; rw [show (0 : DWord).toNat = 0 from rfl, h]⟩
theorem padTo_length (n : Nat) (bs : List Byte) : (padTo n bs).length = n := by
  simp only [padTo, zeros, List.length_take, List.length_append, List.length_replicate]; omega
theorem frameBytes_length (s : State) (n : NodeEntry) (team : Option Team) (w : Warp) (h : FrameHead) :
    (frameBytes s n team w h).length = frameSize := padTo_length _ _

/-! Floating point: with every exception disabled, none that is raised is enabled. -/

theorem test_shortFp_met : Meets (.faddShort s16) none fun c => decide (c.Readable [3] [] ∧ c.k0.excmask = 0) :=
  meets id (by decide +kernel)
theorem test_longFp_met : Meets (.fadd lr) (some lr.gd) fun c => decide (c.Readable [c.lrReg lr] [] ∧ c.k0.excmask = 0) :=
  meets id (by decide +kernel)
theorem test_unaryFp_met : Meets (.frcp bare) (some bare.gd) fun c => decide (c.k0.excmask = 0) := meets id (by decide +kernel)
theorem test_uniformFp_met : Meets (.fmuls ls) (some (lsGuard ls)) fun c => decide (c.Readable [] [7] ∧ c.k0.excmask = 0) :=
  meets id (by decide +kernel)
theorem test_uniformFma_met : Meets (.fmas ls) (some (lsGuard ls)) fun c => decide (c.Readable [0] [7] ∧ c.k0.excmask = 0) :=
  meets id (by decide +kernel)
theorem test_conversion_met : Meets (.cvti bare) (some bare.gd) fun c => decide (c.k0.excmask = 0) := meets id (by decide +kernel)
/-- Every exception is enabled, and every slot holds a signalling NaN in FP32, in FP16 and in BF16: invalid, the first of the
five exceptions, in every form that rounds or compares a float. -/
def nans (s : State) : State :=
  withStrand0 (fun k => { k with excmask := 31, slots := List.replicate 4 (List.replicate 64 0x7F817D01) }) s
/-- An enabled exception is raised. -/
def raisesOne (c : Ctx) (raises : Nat → Flags) : Bool := decide (flagUnion (lanes64.map raises) &&& c.k0.excmask ≠ 0)
theorem test_enabledFp_met : Meets (.fdiv lr) (some lr.gd) fun c => decide (c.Readable [c.lrReg lr] [] ∧ c.w0.kernel = none) &&
    raisesOne c (c.fpRaises .rn 1 fun l => onFloats (fun _ _ a b => a.div b) .rn (c.lrFtz lr) (c.slot 0 l) (c.slot 0 l)
      (c.gLane (c.lrReg lr) l)) := meets nans (by decide +kernel)
theorem test_enabledFpShort_met : Meets (.faddShort s16) none fun c => decide (c.Readable [3] [] ∧ c.w0.kernel = none) &&
    raisesOne c (c.fpRaises .rn 1 fun l => onFloats (fun rm _ a b => a.add rm b) .rn c.k0.ftz (c.slot 1 l) (c.slot 0 l) (c.gLane 3 l)) :=
  meets nans (by decide +kernel)
theorem test_enabledFpUnary_met : Meets (.fsqrt bare) (some bare.gd) fun c => decide (c.w0.kernel = none) &&
    raisesOne c (c.fpRaises .rn 1 fun l => onFloats (fun _ _ a _ => a.sqrt) .rn (c.lrFtz bare) 0 (c.slot 0 l) 0) :=
  meets nans (by decide +kernel)
theorem test_enabledFpReciprocal_met : Meets (.frcpShort { s16 with g := 0 }) none fun c => decide (c.w0.kernel = none) &&
    raisesOne c (c.fpRaises .rn 1 fun l => onFloats (fun _ _ a _ => a.rcp) .rn c.k0.ftz 0 (c.slot 0 l) 0) := meets nans (by decide +kernel)
theorem test_enabledFpUniform_met : Meets (.fmulsShort s16) none fun c => decide (c.Readable [] [3] ∧ c.w0.kernel = none) &&
    raisesOne c (c.fpRaises .rn 1 fun l => onFloats (fun _ _ a u => a.mul u) .rn c.k0.ftz (c.slot 1 l) (c.slot 0 l) (c.sReg 3)) :=
  meets nans (by decide +kernel)
theorem test_enabledFpUniformLong_met : Meets (.fadds ls) (some (lsGuard ls)) fun c => decide (c.Readable [] [7] ∧ c.w0.kernel = none) &&
    raisesOne c (c.fpRaises .rn 1 fun l => onFloats (fun rm _ a u => a.add rm u) .rn c.k0.ftz (c.slot 0 l) (c.slot 0 l) (c.sReg 7)) :=
  meets nans (by decide +kernel)
theorem test_enabledFpUniformFma_met : Meets (.fmas ls) (some (lsGuard ls)) fun c => decide (c.Readable [0] [7] ∧ c.w0.kernel = none) &&
    raisesOne c (c.fpRaises .rn 1 fun l => onFloats (fun rm u a g => u.fma rm a g) .rn c.k0.ftz (c.sReg 7) (c.slot 0 l) (c.gLane 0 l)) :=
  meets nans (by decide +kernel)
theorem test_enabledFpImmediate_met : Meets (.faddi li) none fun c => decide (c.w0.kernel = none) &&
    raisesOne c (c.fpRaises .rn 1 fun l => onFloats (fun rm _ a i => a.add rm i) .rn c.k0.ftz (c.slot 1 l) (c.slot 0 l) (7#16 ++ 0#16)) :=
  meets nans (by decide +kernel)
theorem test_enabledFpConversion_met : ∀ p ∈ [Instr.cvti, .cvtf, .pack2, .unpk2, .cvtn].zip conversions,
    Meets (p.1 bare) (some bare.gd) fun c => decide (c.w0.kernel = none) &&
      raisesOne c (c.fpRaises (p.2.2.1 c bare) p.2.2.2.1 (p.2.2.2.2 c bare)) := by
  intro p h
  simp only [conversions, List.zip_cons_cons, List.zip_nil_left, List.mem_cons, List.not_mem_nil, or_false] at h
  rcases h with rfl | rfl | rfl | rfl | rfl <;> exact meets nans (by decide +kernel)
theorem test_enabledFpInteger_met : Meets (.cvtfF32I32 { s16 with g := 0 }) none fun c => decide (c.w0.kernel = none) &&
    raisesOne c (c.fpRaises .rn 1 (c.cvtfShortOp { s16 with g := 0 })) := meets nans (by decide +kernel)
theorem test_enabledFpFold_met : Meets (.fold { bare with m := 8 }) (some bare.gd) fun c => decide (c.w0.kernel = none) &&
    raisesOne c (c.foldRaises { bare with m := 8 }) := meets nans (by decide +kernel)
theorem test_enabledFpCompare_met : Meets (.fcmp lr) (some lr.gd) fun c => decide (c.Readable [c.lrReg lr] [] ∧ c.w0.kernel = none) &&
    raisesOne c (c.compareRaises c.k0.ftz (c.slot 0) (c.gLane (c.lrReg lr))) := meets nans (by decide +kernel)
theorem test_enabledFpLess_met : Meets (.flt { s16 with d := 0 }) none fun c => decide (c.Readable [3] [] ∧ c.w0.kernel = none) &&
    raisesOne c (c.compareRaises c.k0.ftz (c.slot 0) (c.gLane 3)) := meets nans (by decide +kernel)
theorem test_enabledFpCompareUniform_met : Meets (.fcmps ls) (some (lsGuard ls)) fun c => decide (c.Readable [] [7] ∧ c.w0.kernel = none) &&
    raisesOne c (c.compareRaises c.k0.ftz (c.slot 0) fun _ => c.sReg 7) := meets nans (by decide +kernel)

/-! Across lanes, comparisons, predicates, moves. -/

theorem test_exchange_met : Meets (.lxch lr) (some lr.gd) fun c => decide (c.Readable [c.lrReg lr] []) := meets id (by decide +kernel)
theorem test_fold_met : Meets (.fold bare) (some bare.gd) fun c => decide (c.k0.excmask = 0) := meets id (by decide +kernel)
theorem test_compare_met : Meets (.icmp lr) (some lr.gd) fun c => decide (c.Readable [c.lrReg lr] []) := meets id (by decide +kernel)
theorem test_compareFp_met : Meets (.fcmp lr) (some lr.gd) fun c => decide (c.Readable [c.lrReg lr] [] ∧ c.k0.excmask = 0) :=
  meets id (by decide +kernel)
theorem test_compareUniform_met : Meets (.icmps ls) (some (lsGuard ls)) fun c => decide (c.Readable [] [7]) := meets id (by decide +kernel)
theorem test_predicate_met : Meets (.pand bare) (some bare.gd) fun _ => true := meets id (by decide +kernel)
theorem test_move_met : Meets (.getl { s16 with g := 63 }) none fun c => decide (c.Readable [63] []) := meets id (by decide +kernel)
theorem test_select_met : Meets (.sel lr) none fun c => decide (c.Readable [c.lrReg lr] []) := meets id (by decide +kernel)

/-- A PUT whose readers' copies are empty publishes; with a full copy of another strand it waits. -/
theorem test_publish_met : Meets (.putShort { s16 with d := 0 }) none fun c => decide (c.gFault true 3 = none) && c.canPublish 3 :=
  meets id (by decide +kernel)
/-- Register 3 read by strand 1 as well, which has a full copy of it and has not exited. -/
def sharedReg (s : State) : State :=
  let n : NodeEntry := { placedNode with strands := [(0, 0, 16), (1, 0, 16)], regs := List.replicate 96 (0, 0x0003) }
  { withWarp0 (fun w => { w with strands := w.strands ++ [Strand.atLaunch 1 0 16 0 0], full := List.replicate 64 3,
                                 seen := List.replicate 32 1 }) s with
    launches := s.launches.map fun l => { l with nodes := [n] } }
theorem test_publishWaits_met :
    Meets (.putShort { s16 with d := 0 }) none fun c => decide (c.gFault true 3 = none) && !c.canPublish 3 :=
  meets sharedReg (by decide +kernel)
theorem test_publishUniform_met : Meets (.puts bare) (some bare.gd) fun c => decide (c.sFault true 0 = none) && c.canPublishUniform 0 :=
  meets id (by decide +kernel)
theorem test_publishUniformWaits_met :
    Meets (.puts bare) (some bare.gd) fun c => decide (c.sFault true 0 = none) && !c.canPublishUniform 0 :=
  meets sharedReg (by decide +kernel)
theorem test_special_met : ∀ g ∈ ([0x19, 0x1A, 0x1B, 0x1C, 0x1D] : List (BitVec 6)),
    Meets (.srdSet { bare with g, m := 1 }) (some noGuard) fun c => decide (c.leader = some 0) := by
  intro g h
  simp only [List.mem_cons, List.not_mem_nil, or_false] at h
  rcases h with rfl | rfl | rfl | rfl | rfl <;> exact meets id (by decide +kernel)
/-- With no lane in Exec. -/
theorem test_specialEmpty_met : Meets (.srdSet { bare with g := 0x19, m := 1, gd := { noGuard with e := true } })
    (some { noGuard with e := true }) fun c => decide (c.leader = none) := meets id (by decide +kernel)

/-! Control flow. -/

theorem test_branch_met : Meets (.brx { lb with off := 0xFC00 }) (some lb.gd) fun c => decide (c.Readable [63] []) :=
  meets id (by decide +kernel)
/-- EXIT with lanes left, with none left, and with a remote failure recorded. -/
theorem test_exitSome_met : Meets (.exit { lb with gd := { noGuard with e := true } }) (some { noGuard with e := true }) fun c =>
    decide (c.ref.no ≠ kernelNo ∧ c.w0.launched &&& ~~~(c.k0.exited ||| c.exec) ≠ 0) := meets id (by decide +kernel)
theorem test_exitAll_met : Meets .exitShort none fun c => decide (c.ref.no ≠ kernelNo ∧
    c.w0.launched &&& ~~~(c.k0.exited ||| c.exec) = 0 ∧ c.k0.rerr.getLsbD 31 = false ∧ c.k0.faults = []) :=
  meets id (by decide +kernel)
theorem test_exitFailed_met : Meets .exitShort none fun c => decide (c.ref.no ≠ kernelNo ∧
    c.w0.launched &&& ~~~(c.k0.exited ||| c.exec) = 0 ∧ c.k0.rerr.getLsbD 31 = true) :=
  meets (withStrand0 fun k => { k with rerr := 0x80000000 }) (by decide +kernel)
/-- EXIT of a trap kernel that has to wait, and of one that ends; its warp's frame reads in every state that has this memory. -/
theorem test_exitKernelWaits_met : Meets .exitShort none fun c => decide (c.ref.no = kernelNo ∧
    c.w0.launched &&& ~~~(c.k0.exited ||| c.exec) = 0 ∧ c.k0.rerr.getLsbD 31 = false ∧ c.k0.faults = [] ∧
    ¬(c.k0.ld = [] ∧ c.k0.st = [] ∧ c.k0.cp = []) ∧ c.k0.mx.length ≤ 7) :=
  meets (fun s => withWarp0 (fun w => { w with kernel := w.kernel.map fun k => { k with cp := counts 1 } }) (inKernel s))
    (by decide +kernel)
theorem test_exitKernel_met : ∃ s c, Runs s .exitShort none c ∧ (c.ref.no = kernelNo ∧
    c.w0.launched &&& ~~~(c.k0.exited ||| c.exec) = 0 ∧ c.k0.rerr.getLsbD 31 = false ∧ c.k0.faults = [] ∧ c.k0.ld = [] ∧
    c.k0.st = [] ∧ c.k0.cp = [] ∧ c.k0.mx.length ≤ 7) ∧ (∃ n, c.l.nodes[c.g.node]? = some n) ∧
    frameIn c.s c.l c.w0 = true ∧ ∀ b v, { b with warps := c.s.warps } = c.s → v.tframe = 0 → ∃ bs, readFrame b c.l v = some bs := by
  obtain ⟨s, c, hr, h⟩ := meets (i := .exitShort) (g := none) (P := fun c => decide ((c.ref.no = kernelNo ∧
    c.w0.launched &&& ~~~(c.k0.exited ||| c.exec) = 0 ∧ c.k0.rerr.getLsbD 31 = false ∧ c.k0.faults = [] ∧ c.k0.ld = [] ∧
    c.k0.st = [] ∧ c.k0.cp = [] ∧ c.k0.mx.length ≤ 7) ∧ (c.l.nodes[c.g.node]?).isSome ∧ c.s.mem = tables ∧
    tenantOf c.s 0 = tenant0 ∧ c.s.part.ranges = [] ∧ c.l.tenant = 0 ∧ c.w0.tframe = 0)) inKernel (by decide +kernel)
  obtain ⟨h1, hn, hm, ht, hg, hl, hw⟩ := of_decide_eq_true h
  exact ⟨s, c, hr, h1, Option.isSome_iff_exists.mp hn, (frame_reads hm ht hg hl hw).1, fun b v hb hv =>
    (frame_reads (by rw [← hm, ← hb]) (by rw [← ht, ← hb]; rfl) (by rw [← hg, ← hb]) hl hv).2⟩
/-- WAITC at its bound and above it. -/
theorem test_waitc_met : Meets (.waitcLd 1) none fun c => decide (c.k0.ld.length ≤ 1) :=
  meets (withStrand0 fun k => { k with ld := counts 1 }) (by decide +kernel)
theorem test_waitcWaits_met : Meets (.waitcLd 0) none fun c => decide (¬c.k0.ld.length ≤ 0) :=
  meets (withStrand0 fun k => { k with ld := counts 1 }) (by decide +kernel)
/-- A bounded wait whose condition holds; one that first issues; one whose deadline has come. -/
theorem test_trywait_met : Meets (.trywaitFull none 63 0) none fun c => decide (c.gFault false 63 = none) && c.w0.isFull 63 c.no :=
  meets id (by decide +kernel)
theorem test_trywaitFirst_met : Meets (.trywaitCtr none 0 0 1) none fun c => decide (¬c.k0.count (classOf 0) ≤ 0 ∧ c.k0.wait = none) :=
  meets (withStrand0 fun k => { k with ld := counts 1 }) (by decide +kernel)
theorem test_trywaitLast_met : Meets (.trywaitCtr none 0 0 1) none fun c => decide (c.k0.wait = some (.tryUntil c.s.cycles)) :=
  meets (withStrand0 fun k => { k with ld := counts 1, wait := some (.tryUntil 0) }) (by decide +kernel)

/-! Memory. -/

/-- A load with room in LD and one without. -/
theorem test_load_met : MeetsReach (.ldB32 lm) none false 4 false true
    (lanesAt fun c l => c.at_ ⟨1, 3, 0, 4, 0, false, true, 0⟩ l) fun c s1 _ =>
    decide (loadForm (.ldB32 lm) = some ⟨1, 3, 0, 4, 0, false, true, 0⟩ ∧ c.Readable [3] [2, 3] ∧ c.k0.ld.length < 63) &&
    !({ c with s := s1 } : Ctx).watches 0 :=
  meetsReach (withStrand0 fun k => { k with ld := counts 62 }) (by decide +kernel)
theorem test_loadWaits_met : Meets (.ldB32 lm) none fun c => decide (c.Readable [3] [2, 3] ∧ 63 ≤ c.k0.ld.length) :=
  meets (withStrand0 fun k => { k with ld := counts 63 }) (by decide +kernel)
theorem test_store_met : MeetsReach (.stB128 lm) none false 16 true true
    (lanesAt fun c l => c.at_ ⟨1, 3, 0, 16, 0, false, true, 0⟩ l) fun c s1 _ =>
    decide (storeForm (.stB128 lm) = some ⟨1, 3, 0, 16, 0, false, true, 0⟩ ∧ c.Readable [3] [2, 3] ∧ c.k0.st.length < 63) &&
    queueGrants c.s c.w0.core .st && !({ c with s := s1 } : Ctx).watches 1 := meetsReach id (by decide +kernel)
def own : LM := { lm with sb := 0, imm := 63 }
theorem test_private_met : MeetsReach (.ldlB64 own) none false 8 false false
    (lanesAt fun c l => c.w0.stack + BitVec.ofNat 64 (l * c.l.privBytes) + BitVec.ofNat 64 ((c.gLane 3 l).toNat + 504)) fun c _ _ =>
    decide (c.Readable [3] [] ∧ c.k0.ld.length < 63 ∧ ∀ l ∈ c.lanes, (c.gLane 3 l).toNat + 504 + 8 ≤ c.l.privBytes) :=
  meetsReach id (by decide +kernel)
/-- The private memory ends with the last byte of an access, and one byte before it. -/
theorem test_privateEnd_met : MeetsReach (.stlB64 own) none false 8 true false
    (lanesAt fun c l => c.w0.stack + BitVec.ofNat 64 (l * c.l.privBytes) + BitVec.ofNat 64 ((c.gLane 3 l).toNat + 504)) fun c _ _ =>
    decide (c.Readable [3] [] ∧ c.k0.st.length < 63 ∧ ∀ l ∈ c.lanes, (c.gLane 3 l).toNat + 504 + 8 = c.l.privBytes) &&
    queueGrants c.s c.w0.core .st :=
  meetsReach (withWarp0 fun w => { w with gregs := List.replicate 64 (List.replicate 64 3584) }) (by decide +kernel)
theorem test_privatePast_met : Meets (.ldlB64 own) none fun c =>
    decide (c.Readable [3] [] ∧ c.k0.ld.length < 63 ∧ c.w0.kernel = none ∧
      (c.lanes.filter fun l => decide (c.l.privBytes < (c.gLane 3 l).toNat + 504 + 8)) ≠ []) :=
  meets (withWarp0 fun w => { w with gregs := List.replicate 64 (List.replicate 64 3585) }) (by decide +kernel)

def spillf : SpillF := { sp := none, slot := 2, sb := 1, off := 2 }
/-- The warp with one lane. -/
def oneLane (s : State) : State := withWarp0 (fun w => { w with launched := 1 }) s
theorem test_spill_met : MeetsReach (.spill spillf) none false 16 true false (fun c => c.recordAccesses (c.sPair 1 + 32)
      (spillBytes (lanes64.map fun l => if c.w0.launched.getLsbD l then c.slot 2 l else 0)).length) fun c _ _ =>
    decide (c.Readable [] [2, 3] ∧ c.k0.st.length < 63) && queueGrants c.s c.w0.core .st := meetsReach id (by decide +kernel)
/-- A record whose format is fmt, read as FILL reads it. -/
def fills (fmt : Nat) (c : Ctx) (s0 : State) (ps : List (Nat × DWord × Target)) : Bool :=
  decide (c.Readable [] [2, 3] ∧ c.k0.ld.length < 63 ∧ c.k0.wait = none ∧ c.w0.kernel = none) && (match ps with
  | (_, _, .mem pa) :: _ =>
    let r := fetchLine s0 c.w0.core (readCode c.ref) (lineOf pa) evRD false
    let d := ({ c with w := c.afterReads [] [2, 3] } : Ctx).onTo r.1
    !olderTouches s0 c.ref s0.nextId (.mem pa) 8 false && decide (r.2 = .done) && !r.1.mem.poisoned (lineOf pa) &&
    decide (sliceNat (coreRead r.1 c.w0.core c.ref r.1.nextId pa 1 true) 0 1 = fmt) && decide (d.k0.ld.length < 63) &&
    (reached d false 16 false false (c.recordAccesses (c.sPair 1 + 32) (fillSize (min fmt 3)))).isSome
  | _ => false)
theorem test_fill_met : MeetsReach (.fill spillf) none false 16 false false (fun c => c.lanes.map fun l => (l, c.sPair 1 + 32)) (fills 3) :=
  meetsReach (fun s => { s with mem := s.mem.write 32 [3] }) (by decide +kernel)
theorem test_fillFormat_met :
    MeetsReach (.fill spillf) none false 16 false false (fun c => c.lanes.map fun l => (l, c.sPair 1 + 32)) (fills 4) :=
  meetsReach (fun s => { s with mem := s.mem.write 32 [4] }) (by decide +kernel)
theorem test_prefetch_met : Meets (.pref lm) none fun c => decide (c.Readable [3] [2, 3]) := meets id (by decide +kernel)

/-! Buffers, CALL and RET, traps. -/

theorem test_bufferLoad_met : Meets (.ldbB64 { lm with imm := 63 }) none fun c =>
    decide (bufferLoadForm (.ldbB64 { lm with imm := 63 }) = some ⟨8, 0, 3, 504, false, none⟩ ∧ c.Readable [3] [] ∧ c.k0.ld.length < 63 ∧
      ∀ l ∈ c.lanes, c.bufferAt ⟨8, 0, 3, 504, false, none⟩ l % 8 = 0 ∧
        c.bufferAt ⟨8, 0, 3, 504, false, none⟩ l + 8 ≤ c.bufferLength ⟨8, 0, 3, 504, false, none⟩) := meets id (by decide +kernel)
theorem test_peerLoad_met : Meets (.ldbyB32 { lm with sb := 4 }) none fun c =>
    decide (bufferLoadForm (.ldbyB32 { lm with sb := 4 }) = some ⟨4, 0, 3, 0, false, some 0⟩ ∧ c.Readable [3] [] ∧ c.k0.ld.length < 63 ∧
      0 < c.g.cores.length ∧ ∀ l ∈ c.lanes, c.bufferAt ⟨4, 0, 3, 0, false, some 0⟩ l % 4 = 0 ∧
        c.bufferAt ⟨4, 0, 3, 0, false, some 0⟩ l + 4 ≤ c.bufferLength ⟨4, 0, 3, 0, false, some 0⟩) := meets id (by decide +kernel)
theorem test_bufferStore_met : Meets (.stbB32 lm) none fun c =>
    decide (bufferStoreForm (.stbB32 lm) = some ⟨4, 0, 3, 0, false, none⟩ ∧ c.Readable [3] [] ∧ c.k0.st.length < 63 ∧
      ∀ l ∈ c.lanes, c.bufferAt ⟨4, 0, 3, 0, false, none⟩ l % 4 = 0 ∧
        c.bufferAt ⟨4, 0, 3, 0, false, none⟩ l + 4 ≤ c.bufferLength ⟨4, 0, 3, 0, false, none⟩) && queueGrants c.s c.w0.core .st :=
  meets id (by decide +kernel)

theorem test_call_met : MeetsReach (.call lb) (some lb.gd) false 4 true false (lanesAt fun c l => c.callWord id l) fun c s1 ps =>
    decide (c.callsOver = []) && ps.all fun x => !isRemote x.2.2 && !olderTouches s1 c.ref s1.nextId x.2.2 4 true :=
  meetsReach (withStrand0 fun k => { k with calls := List.replicate 64 15 }) (by decide +kernel)
theorem test_ret_met : MeetsReach (.ret lb) (some lb.gd) false 4 false false (lanesAt fun c l => c.callWord (· - 1) l) fun c s1 ps =>
    decide (c.callsUnder = []) && (ps.all fun x => !isRemote x.2.2 && !olderTouches s1 c.ref s1.nextId x.2.2 4 false) &&
    decide ((fetchLines s1 c.w0.core (readCode c.ref) (linesOfLanes (lanesWith ps fun _ => []))).2 = none) && s1.mem.poison.isEmpty :=
  meetsReach (fun s => oneLane (withStrand0 (fun k => { k with calls := List.replicate 64 1 }) s)) (by decide +kernel)
theorem test_callTooDeep_met : Meets (.call lb) (some lb.gd) fun c => decide (c.callsOver ≠ [] ∧ c.w0.kernel = none) :=
  meets (withStrand0 fun k => { k with calls := List.replicate 64 16 }) (by decide +kernel)
theorem test_retEmpty_met : Meets (.ret lb) (some lb.gd) fun c => decide (c.callsUnder ≠ [] ∧ c.w0.kernel = none) :=
  meets id (by decide +kernel)

theorem test_trap_met : Meets (.trap none 200) none fun c => decide (c.w0.kernel = none) := meets id (by decide +kernel)
theorem test_trapNested_met : Meets (.bkpt none) none fun c => decide (c.w0.kernel ≠ none) := meets inKernel (by decide +kernel)
theorem test_forbidden_met : ∀ i ∈ ([.tzero tile, .rvarr rv, .rkpub rack, .emita { sp := none, node := 0, d := 0, one := true },
    .cpyt { copy with rk := true, rg := 1 }] : List Instr), kernelForbids i = true ∧ Meets i none fun c =>
      decide (c.ref.no = kernelNo ∧ c.g.phase = .placed) := by
  intro i h
  simp only [List.mem_cons, List.not_mem_nil, or_false] at h
  rcases h with rfl | rfl | rfl | rfl | rfl <;> exact ⟨by decide, meets inKernel (by decide +kernel)⟩
theorem test_xretOutside_met : Meets (.xret none) none fun c => decide (c.ref.no ≠ kernelNo ∧ c.w0.kernel = none) :=
  meets id (by decide +kernel)
theorem test_haltack_met : Meets (.haltack none) none fun c => decide (c.ref.no = kernelNo ∧ c.w0.haltPending = false) :=
  meets inKernel (by decide +kernel)
theorem test_xretWaits_met : Meets (.xret none) none fun c => decide (c.ref.no = kernelNo ∧
    ¬(c.k0.ld = [] ∧ c.k0.st = [] ∧ c.k0.cp = []) ∧ c.k0.mx.length ≤ 7) :=
  meets (fun s => withWarp0 (fun w => { w with kernel := w.kernel.map fun k => { k with st := counts 1 } }) (inKernel s))
    (by decide +kernel)
theorem test_xret_met : Meets (.xret none) none fun c => decide (c.ref.no = kernelNo ∧ c.k0.ld = [] ∧ c.k0.st = [] ∧ c.k0.cp = [] ∧
    c.k0.mx.length ≤ 7) && (c.l.nodes[c.g.node]?).isSome && frameIn c.s c.l c.w0 && (readFrame c.s c.l c.w0).isSome := by
  obtain ⟨s, c, hr, h⟩ := meets (i := .xret none) (g := none) (P := fun c => decide (c.ref.no = kernelNo ∧ c.k0.ld = [] ∧
    c.k0.st = [] ∧ c.k0.cp = [] ∧ c.k0.mx.length ≤ 7) && (c.l.nodes[c.g.node]?).isSome && decide (c.s.mem = tables ∧
    tenantOf c.s 0 = tenant0 ∧ c.s.part.ranges = [] ∧ c.l.tenant = 0 ∧ c.w0.tframe = 0)) inKernel (by decide +kernel)
  obtain ⟨h1, h2⟩ := Bool.and_eq_true_iff.mp h
  obtain ⟨hm, ht, hg, hl, hw⟩ := of_decide_eq_true h2
  obtain ⟨hi, b, hb⟩ := frame_reads hm ht hg hl hw
  exact ⟨s, c, hr, by dsimp only; rw [h1, hi, hb]; rfl⟩

/-! The matrix engine and copies. -/

/-- The strand has bound frame 0 of its cluster. -/
def bound (int : Bool) (s : State) : State := withStrand0 (fun k => { k with bind := some { frame := 0, int } }) s
theorem test_tileUnbound_met : Meets (.tzero tile) none fun c =>
    decide (c.ref.no ≠ kernelNo ∧ c.w0.kernel = none ∧ c.k0.bind = none) := meets id (by decide +kernel)
theorem test_tbind_met : Meets (.tbind tile) none fun c =>
    decide (c.ref.no ≠ kernelNo ∧ c.k0.bind = none ∧ c.freeFrames = [0]) := meets id (by decide +kernel)
theorem test_tbindBound_met : Meets (.tbind tile) none fun c => decide (c.k0.bind ≠ none ∧ c.w0.kernel = none) :=
  meets (bound false) (by decide +kernel)
theorem test_tbindNone_met : Meets (.tbind tile) none fun c => decide (c.k0.bind = none ∧ c.freeFrames = [] ∧ c.w0.kernel = none) :=
  meets (withWarp0 fun w => { w with tiles := [] }) (by decide +kernel)
theorem test_tfree_met : Meets (.tfree tile) none fun c => decide (c.k0.bind.isSome ∧ c.k0.mx = []) := meets (bound true) (by decide +kernel)
theorem test_tfreeWaits_met : Meets (.tfree tile) none fun c => decide (c.k0.bind.isSome ∧ c.k0.mx ≠ []) :=
  meets (fun s => bound true (withStrand0 (fun k => { k with mx := counts 1 }) s)) (by decide +kernel)
theorem test_tmap_met : Meets (.tact { tile with code := 1 }) none fun c => decide (c.k0.bind = some ⟨0, false⟩) :=
  meets (bound false) (by decide +kernel)
/-- TADDC whose last column is the last word of W. -/
theorem test_taddc_met : Meets (.taddc { tile with c0 := 63, woff := 60 }) none fun c =>
    decide (c.k0.bind = some ⟨0, true⟩ ∧ 64 * 60 + 4 * (63 + 0 + 1) = c.bufLimit true) := meets (bound true) (by decide +kernel)
theorem test_tscl_met : Meets (.tscl { tile with s := 31 }) none fun c => decide (c.k0.bind = some ⟨0, false⟩ ∧ c.Readable [] [31]) :=
  meets (bound false) (by decide +kernel)
theorem test_trowred_met : Meets (.trowred { tile with code := 3 }) none fun c => decide (c.k0.bind = some ⟨0, true⟩) :=
  meets (bound true) (by decide +kernel)
theorem test_tqnt_met : Meets (.tqnt { tile with code := 2 }) none fun c => decide (c.k0.bind = some ⟨0, false⟩ ∧
    ((gangOf (performBuffers c.s c.ref) c.g.uid).bind fun g => teamOf g c.w0).isSome ∧
    ∀ r ∈ c.lanes, (c.slot 0 r).toNat % 64 = 0 ∧ (c.slot 0 r).toNat + 64 ≤ c.bufLimit false) :=
  meets (bound false) (by decide +kernel)

/-- An MMA of 16-bit operands, K 32, all rows and columns on the first line of A and W. -/
def mma16 : MmaF := { mmaf with fa := 1, fb := 1, kn := 1, wpitch := 0 }
/-- Every line of the team's buffers tagged as FP16. -/
def tagged (t : Team) : Team :=
  let tags := (List.range 64).map fun i => (i, fmtTagCode 1)
  { t with a := { t.a with tags }, w := { t.w with tags } }
theorem test_mma_met : Meets (.mma mma16) none fun c => decide (c.ref.no ≠ kernelNo ∧ c.k0.mx.length < 7 ∧ c.Readable [] [2] ∧
      c.k0.bind = some ⟨0, false⟩) && queueGrants c.s c.w0.core .mx && (match c.team with
    | some tm => decide ((∀ r ∈ c.lanes, 64 * (descOff (c.sReg 2) + descPitch (c.sReg 2) * r) + spanOf 1 (kOf mma16) ≤ c.bufLimit false) ∧
        64 * (0 + 0 * 63) + spanOf 1 (kOf mma16) ≤ c.bufLimit true ∧
        (∀ r ∈ c.lanes, ∀ x ∈ c.rowLines mma16 id tm r, tagFault 1 x.tag = none ∧ x.tag.rotated = false) ∧
        ∀ x ∈ columnLines mma16 tm, tagFault 1 x.tag = none ∧ x.tag.rotated = false)
    | none => false) :=
  meets (fun s => bound false (withTeam0 tagged s)) (by decide +kernel)
theorem test_tld_met : MeetsReach (.tld { tile with ncm1 := 3 }) none true 4 false false (fun c => c.lanes.flatMap fun r =>
      (List.range 4).map fun n => (r, c.pair 0 r + BitVec.ofNat 64 (4 * n))) fun c _ _ =>
    decide (c.ref.no ≠ kernelNo ∧ c.k0.mx.length < 7 ∧ c.k0.bind.isSome) && queueGrants c.s c.w0.core .mx :=
  meetsReach (fun s => oneLane (bound false s)) (by decide +kernel)
theorem test_tst_met : MeetsReach (.tst { tile with code := 1 }) none true 2 true false (fun c => c.lanes.flatMap fun r =>
      (List.range 1).map fun n => (r, c.pair 0 r + BitVec.ofNat 64 (2 * n))) fun c _ _ =>
    decide (c.ref.no ≠ kernelNo ∧ c.k0.mx.length < 7 ∧ c.k0.bind = some ⟨0, false⟩) && queueGrants c.s c.w0.core .mx :=
  meetsReach (fun s => oneLane (bound false s)) (by decide +kernel)

/-- A CPYL of A's 4,096 bytes. -/
theorem test_copy_met : Meets (.cpyl copy) none fun c => decide (c.leader = some 0 ∧ c.k0.cp.length < 15 ∧
    c.Readable (copyReads copy 0) (copyUniforms copy 0) ∧
    (c.slot 2 0).toNat + 0 + (c.sReg 2).toNat = c.bufLimit (!copy.buf)) && queueGrants c.s c.w0.core .cp :=
  meets (withWarp0 fun w => { w with sregs := w.sregs.set 2 4096 }) (by decide +kernel)
/-- A copy to a rack slot that the strand holds. -/
def copyToRack : CopyF := { copy with rk := true, rack := 15, rg := 6, cw := true, cb := 2 }
theorem test_copyRack_met : Meets (.cpyt copyToRack) none fun c => decide (c.leader = some 0 ∧ c.ref.no ≠ kernelNo ∧
    c.k0.cp.length < 15 ∧ c.Readable (copyReads copyToRack 1) (copyUniforms copyToRack 1) ∧ (c.sPair 2).toNat % 8 = 0) &&
    queueGrants c.s c.w0.core .cp && (match c.team.bind (·.racks[15]?) with
    | some r => r.init && decide (field (c.gLane 6 0) 15 12 < r.n ∧ r.slot (field (c.gLane 6 0) 15 12) = (.held, c.owner))
    | none => false) :=
  meets (withTeam0 fun t => { t with racks := t.racks.set 15 { Rack.reset with init := true, slots := List.replicate 16 (.held, 0) } })
    (by decide +kernel)

/-! Ordering. -/

theorem test_release_met : Meets (.rel none 7) none fun c =>
    releaseHolds c.s c.w0.core c.ref c.k0 7 && !rerrV c.k0.rerr := meets id (by decide +kernel)
theorem test_releaseWaits_met : Meets (.fence none 7) none fun c => !releaseHolds c.s c.w0.core c.ref c.k0 7 :=
  meets (withStrand0 fun k => { k with st := counts 1 }) (by decide +kernel)
theorem test_releaseFailed_met : Meets (.rel none 5) none fun c => releaseHolds c.s c.w0.core c.ref c.k0 5 && rerrV c.k0.rerr &&
    decide (scopeNEAR ≤ 5 ∧ c.w0.kernel = none) := meets (withStrand0 fun k => { k with rerr := 0x80000000 }) (by decide +kernel)
theorem test_acquire_met : Meets (.acq none 7) none fun c => acquireHolds c.s c.w0.core c.ref c.k0 7 := meets id (by decide +kernel)
theorem test_acquireWaits_met : Meets (.acq none 7) none fun c => !acquireHolds c.s c.w0.core c.ref c.k0 7 :=
  meets (withStrand0 fun k => { k with ld := counts 1 }) (by decide +kernel)
def syncVa (c : Ctx) (l : Nat) : DWord := c.sPair 1 + (c.gLane 3 l).setWidth 64 + 8
theorem test_relWord_met : MeetsReach (.relWord sync) none false 8 true false (lanesAt syncVa) fun c s1 _ =>
    decide (c.Readable [3] [2, 3] ∧ c.k0.st.length < 63) && queueGrants c.s c.w0.core .st &&
    !({ c with s := s1 } : Ctx).watches 1 && releaseHolds s1 c.w0.core c.ref c.k0 1 && !rerrV c.k0.rerr :=
  meetsReach id (by decide +kernel)
theorem test_acqWord_met : MeetsReach (.acqWord sync) none false 8 false false (lanesAt syncVa) fun c s1 _ =>
    decide (c.Readable [3] [2, 3] ∧ c.k0.wait = none) && acquireHolds c.s c.w0.core c.ref c.k0 1 &&
    !({ c with s := s1 } : Ctx).watches 0 := meetsReach id (by decide +kernel)
theorem test_acqWordEnds_met : Meets (.acqWord sync) none fun c => decide (c.k0.wait = some (.values 5 0 [])) &&
    acquireHolds c.s c.w0.core c.ref c.k0 1 := meets (withStrand0 fun k => { k with wait := some (.values 5 0 []) }) (by decide +kernel)
theorem test_acqWordWaits_met : Meets (.acqWord sync) none fun c => decide (c.k0.wait = some (.values 5 0 [])) &&
    !acquireHolds c.s c.w0.core c.ref c.k0 1 :=
  meets (withStrand0 fun k => { k with wait := some (.values 5 0 []), ld := counts 1 }) (by decide +kernel)
def flushf : FlushF := { sp := none, scope := 1, sb := 1, s := 4 }
theorem test_flush_met : Meets (.flush flushf) none fun c => decide (c.Readable [] [2, 3, 4]) &&
    (let r := checkPages c.s c.w0.core c.tenant { size := 64, write := false, tagOk := false, priv := c.l.privileged }
       (pageStarts (c.sPair 1).toNat (c.sReg 4).toNat)
     let lines := linePlaces r.1 c.tenant { size := 64, write := false, tagOk := false, priv := c.l.privileged }
       (c.sPair 1).toNat (c.sReg 4).toNat
     let u := flushLines r.1 c.w0.core c.tenant (readCode c.ref) 1 lines
     decide (c.k0.wait = none ∧ r.2 = none ∧ u.2 = (.done, []) ∧ (warpOf u.1 c.ref.warp).isSome) && !ownPosted r.1 c.ref &&
       releaseHolds r.1 c.w0.core c.ref c.k0 (max 1 scopeYARD)) :=
  meets (withWarp0 fun w => { w with sregs := w.sregs.set 4 128 }) (by decide +kernel)
/-- A walk held at its second line, which its home no longer holds. -/
theorem test_walk_met : let all : List Target := [.mem 0, .mem 64]
    Meets (.inv flushf) none fun c => decide (c.Readable [] [2, 3, 4] ∧ c.k0.wait = some (.walk true [.mem 64] all 0) ∧
      walkHeld c.s (readCode c.ref) [.mem 64] = false ∧
      (walkAnswer c.s c.w0.core (readCode c.ref) [.mem 64]).map (·.error) = some none ∧
      (flushLines c.s c.w0.core c.tenant (readCode c.ref) 1 []).2 = (.done, [])) :=
  meets (fun s => { withStrand0 (fun k => { k with wait := some (.walk true [.mem 64] [.mem 0, .mem 64] 0) }) s with
    lineAnswers := [{ line := 1, core := some 0, ev := evFL, op := readCode { warp := 3, no := 0 }, since := 0, error := none,
                      bytes := [], tag := 0, poison := false }] }) (by decide +kernel)
theorem test_atomic_met : MeetsReach (.atom { atomf with sem := 3 }) none false 4 true false
    (lanesAt fun c l => c.sPair 1 + (c.gLane 3 l).setWidth 64 + 0) fun c s1 _ =>
    decide (c.Readable [3] [2, 3] ∧ (c.k0.counter .ld).length < 63) && queueGrants c.s c.w0.core .st &&
    !({ c with s := s1 } : Ctx).watches 2 && releaseHolds s1 c.w0.core c.ref c.k0 1 && !rerrV c.k0.rerr :=
  meetsReach id (by decide +kernel)

/-! Racks and rendezvous points. -/

/-- The strand's rack 15, as a function of it and its owner code. -/
def rackIs (c : Ctx) (P : Rack → Bool) : Bool := ((c.team.bind (·.racks[15]?)).map P).getD false
def withRack (r : Rack) (s : State) : State := withTeam0 (fun t => { t with racks := t.racks.set 15 r }) s
/-- A rack of two slots in A, of 64 bytes each. -/
def rack2 : Rack := { Rack.reset with init := true, count := 1 }
def rackf : RackF := { sp := none, rack := 15, d := 0, a := 3 }
theorem test_rkinit_met : Meets (.rkinit { sp := none, rack := 15, base := 48, size := 0, count := 15 }) none fun c =>
    decide (c.ref.no ≠ kernelNo ∧ 64 * 48 + (15 + 1) * (64 * (0 + 1)) = c.bufLimit false) && rackIs c fun r => !r.init :=
  meets id (by decide +kernel)
theorem test_rkinitAgain_met : Meets (.rkinit { sp := none, rack := 15, base := 0, size := 0, count := 0 }) none fun c =>
    rackIs c fun r => r.init && (List.range r.n).all fun j => (r.slot j).1 == .free := meets (withRack rack2) (by decide +kernel)
theorem test_rkacq_met : Meets (.rkacq { rackf with a := 0 }) none fun c =>
    rackIs c fun r => r.init && decide ((r.slot r.pcur).1 = .free) := meets (withRack rack2) (by decide +kernel)
theorem test_rkacqWaits_met : Meets (.rkacq { rackf with a := 0 }) none fun c =>
    rackIs c fun r => r.init && decide ((r.slot r.pcur).1 ≠ .free) :=
  meets (withRack { rack2 with slots := List.replicate 16 (.filled, 0) }) (by decide +kernel)
theorem test_rkawait_met : Meets (.rkawait { rackf with a := 0 }) none fun c =>
    rackIs c fun r => r.init && decide (0 < r.ahead ∧ (r.slot r.ccur).1 = .filled) :=
  meets (withRack { rack2 with ahead := 1, slots := List.replicate 16 (.filled, 0) }) (by decide +kernel)
theorem test_rkpub_met : Meets (.rkpub rackf) none fun c => decide (c.k0.st = []) &&
    rackIs c fun r => r.init && decide (field (c.slot 3 (c.leader.getD 0)) 15 12 < r.n ∧ r.slot 0 = (.held, c.owner)) :=
  meets (withRack { rack2 with slots := List.replicate 16 (.held, 0) }) (by decide +kernel)
theorem test_rkpubDropped_met : Meets (.rkpub rackf) none fun c => decide (c.k0.st = []) &&
    rackIs c fun r => r.init && decide (field (c.slot 3 (c.leader.getD 0)) 15 12 < r.n ∧ r.slot 0 = (.droppedHeld, c.owner)) :=
  meets (withRack { rack2 with slots := List.replicate 16 (.droppedHeld, 0) }) (by decide +kernel)
theorem test_rkrel_met : Meets (.rkrel rackf) none fun c => decide (c.k0.st = [] ∧ c.k0.ld = []) &&
    rackIs c fun r => r.init && decide (field (c.slot 3 (c.leader.getD 0)) 15 12 < r.n ∧ r.slot 0 = (.taken, c.owner)) :=
  meets (withRack { rack2 with slots := List.replicate 16 (.taken, 0) }) (by decide +kernel)
theorem test_rkrelSkip_met : Meets (.rkrelSkip { rackf with a := 0 }) none fun c => decide (c.k0.st = [] ∧ c.k0.ld = []) &&
    rackIs c fun r => r.init && decide (0 < r.ahead) := meets (withRack { rack2 with ahead := 1 }) (by decide +kernel)

theorem test_rkpubWaits_met : Meets (.rkpub rackf) none fun c => decide (c.k0.st ≠ []) && rackIs c fun r => r.init :=
  meets (fun s => withRack rack2 (withStrand0 (fun k => { k with st := counts 1 }) s)) (by decide +kernel)
theorem test_rkrelWaits_met : ∀ i ∈ ([.rkrel rackf, .rkrelSkip { rackf with a := 0 }] : List Instr), Meets i none fun c =>
    decide (¬(c.k0.ld = [] ∧ c.k0.st = [])) && rackIs c fun r => r.init := by
  intro i h
  simp only [List.mem_cons, List.not_mem_nil, or_false] at h
  rcases h with rfl | rfl <;>
    exact meets (fun s => withRack rack2 (withStrand0 (fun k => { k with ld := counts 1 }) s)) (by decide +kernel)

def pointIs (c : Ctx) (P : Point → Bool) : Bool := ((c.team.bind (·.points[15]?)).map P).getD false
def withPoint (p : Point) (s : State) : State := withTeam0 (fun t => { t with points := t.points.set 15 p }) s
/-- A point that expects two arrivals and has none of its phase 7. -/
def point2 : Point := { init := true, expected := 2, pending := 2, phase := 7 }
def rvf : RvF := { rv with pt := 15 }
def arrived (phase : Nat) (s : State) : State := withStrand0 (fun k => { k with arrivals := [{ pt := 15, phase }] }) s
theorem test_rvinit_met : Meets (.rvinit { rvf with cnt := 255 }) none fun c => decide (c.ref.no ≠ kernelNo) && pointIs c fun p => !p.init :=
  meets id (by decide +kernel)
theorem test_rvinitAgain_met : Meets (.rvinit rvf) none fun c => (pointIs c fun p => p.init && decide (p.pending = p.expected)) &&
    decide (∀ w ∈ c.s.warps, c.ofTeam w = true → ∀ k ∈ w.strands, waitsOn k 15 = false) := meets (withPoint point2) (by decide +kernel)
theorem test_rvarr_met : Meets (.rvarr rvf) none fun c => decide (c.k0.ld = [] ∧ c.k0.st = []) && !ownAtomics c.s c.ref &&
    pointIs c fun p => p.init := meets (withPoint point2) (by decide +kernel)
theorem test_rvarrWaits_met : Meets (.rvarr rvf) none fun c => decide (c.k0.st ≠ []) && pointIs c fun p => p.init :=
  meets (fun s => withPoint point2 (withStrand0 (fun k => { k with st := counts 1 }) s)) (by decide +kernel)
theorem test_rvwait_met : Meets (.rvwait rvf) none fun c => decide (c.k0.ld = []) && pointIs c fun p => p.init && pointPassed c.k0 15 p :=
  meets (fun s => withPoint point2 (arrived 6 s)) (by decide +kernel)
theorem test_rvwaitLoads_met : Meets (.rvwait rvf) none fun c => decide (c.k0.ld ≠ []) && pointIs c fun p => p.init && pointPassed c.k0 15 p :=
  meets (fun s => withPoint point2 (withStrand0 (fun k => { k with ld := counts 1 }) s)) (by decide +kernel)
theorem test_rvwaitOpen_met : Meets (.rvwait rvf) none fun c => decide (c.k0.arrival 15 = some 7) &&
    pointIs c fun p => p.init && !pointPassed c.k0 15 p := meets (fun s => withPoint point2 (arrived 7 s)) (by decide +kernel)
theorem test_rvaw_met : Meets (.rvaw rvf) none fun c => decide (c.k0.arrivedAt ≠ some c.addr ∧ c.k0.ld = [] ∧ c.k0.st = []) &&
    !ownAtomics c.s c.ref && pointIs c fun p => p.init := meets (withPoint point2) (by decide +kernel)
theorem test_rvawAgain_met : Meets (.rvaw rvf) none fun c => decide (c.k0.arrivedAt = some c.addr) && pointIs c fun p => p.init :=
  meets (fun s => withPoint point2 (withStrand0 (fun k => { k with arrivedAt := some 0 }) s)) (by decide +kernel)
theorem test_rvawWaits_met : Meets (.rvaw rvf) none fun c => decide (c.k0.arrivedAt ≠ some c.addr ∧
    ¬(c.k0.ld = [] ∧ c.k0.st = [] ∧ ownAtomics c.s c.ref = false)) && pointIs c fun p => p.init :=
  meets (fun s => withPoint point2 (withStrand0 (fun k => { k with ld := counts 1 }) s)) (by decide +kernel)
/-- Point 31 is not there; point 15 is not initialised, or is in use. -/
theorem test_rvNone_met : Meets (.rvwait { rv with pt := 31 }) none fun c => decide (c.ref.no ≠ kernelNo ∧ c.w0.kernel = none) &&
    ((c.team.map fun tm => decide (tm.points[31]? = none)).getD false) := meets id (by decide +kernel)
theorem test_rvUninit_met : Meets (.rvaw rvf) none fun c => decide (c.ref.no ≠ kernelNo ∧ c.w0.kernel = none) &&
    pointIs c fun p => !p.init := meets id (by decide +kernel)
theorem test_rvInUse_met : Meets (.rvinit rvf) none fun c => decide (c.ref.no ≠ kernelNo ∧ c.w0.kernel = none) &&
    pointIs c fun p => p.init && decide (p.pending ≠ p.expected) := meets (withPoint { point2 with pending := 1 }) (by decide +kernel)
theorem test_trywaitRack_met : Meets (.trywaitRackfill none 15 3) none fun c => decide (c.k0.wait = none) && rackIs c fun r => r.init :=
  meets (withRack rack2) (by decide +kernel)
theorem test_trywaitPhase_met : Meets (.trywaitPhase none 15 3) none fun c => pointIs c fun p => p.init && pointPassed c.k0 15 p :=
  meets (withPoint point2) (by decide +kernel)

/-! Nodes, control registers, front-end processors. -/

/-- Tenant 0 with a record area. -/
def withArea (s : State) : State := { s with tenants := s.tenants.map fun t => { t with rareaBase := 0x2000001, rareaSize := 0x10000, rpool := 0x0FFFFFFFFFFFFFFF } }
def emitaf : EmitaF := { sp := none, node := 0, d := 0, one := true }
theorem test_emita_met : Meets (.emita emitaf) none fun c => decide (c.ref.no ≠ kernelNo ∧ c.exec ≠ 0) &&
    areaEnabled (tenantOf c.s c.tenant).rareaBase && queueGrants c.s c.w0.core .em && (match c.l.nodes[0]? with
    | some n => decide (∀ l ∈ c.emitLanes true, c.emitDepth l ≤ n.maxDepth)
    | none => false) := meets withArea (by decide +kernel)
/-- A record that the gang has allocated and not committed. -/
def withAlloc (s : State) : State :=
  { s with gangs := s.gangs.map fun g => { g with allocs := [{ addr := 0, node := 0, depth := 0, size := 1, die := 0, onChip := false,
                                                                committed := false }] } }
theorem test_emitc_met : Meets (.emitc { sp := none, a := 0, one := true }) none fun c => decide (c.ref.no ≠ kernelNo ∧
    (∀ l ∈ c.emitLanes true, ∃ x ∈ c.g.allocs, x.addr = c.pair 0 l ∧ x.committed = false) ∧
    ∀ l ∈ c.emitLanes true, ∀ m ∈ c.emitLanes true, m < l → c.pair 0 m ≠ c.pair 0 l) && queueGrants c.s c.w0.core .em &&
    releaseHolds c.s c.w0.core c.ref c.k0 scopePKG && !rerrV c.k0.rerr := meets withAlloc (by decide +kernel)
theorem test_evset_met : Meets (.evset { sp := none, bit := 255, ind := false, a := 0, scope := 2 }) none fun c =>
    decide (c.leader = some 0) && queueGrants c.s c.w0.core .em && releaseHolds c.s c.w0.core c.ref c.k0 2 && !rerrV c.k0.rerr :=
  meets id (by decide +kernel)
theorem test_csrw_met : Meets (.csrw csr) none fun c => decide (c.l.privileged = true ∧ c.leader = some 0) := meets id (by decide +kernel)
theorem test_csrwUser_met : Meets (.csrw csr) none fun c => decide (c.l.privileged = false ∧ c.w0.kernel = none) :=
  meets (fun s => { s with launches := s.launches.map fun l => { l with privileged := false } }) (by decide +kernel)

/-! Front-end processors. -/

/-- Processor 0's turn, with two registers set. -/
def front (x2 x3 : DWord) (s : State) : State :=
  let x := (FrontEnd.reset.setX 2 x2).setX 3 x3
  { setFe s 0 { x with signals := 6 } with feTurn := some 0 }
/-- Processor 0 runs in machine mode, and P holds of it. -/
def FrontMeets (P : State → FrontEnd → Bool) : Prop := ∃ s x, FeRuns s 0 x ∧ P s x = true
theorem frontMeets {P : State → FrontEnd → Bool} (s : State)
    (h : (decide (s.feTurn = some 0) && ((feAt s 0).map fun x => x.machine && P s x).getD false) = true) : FrontMeets P := by
  obtain ⟨h1, h⟩ := Bool.and_eq_true_iff.mp h
  obtain ⟨x, hx, h⟩ := some_of_map h
  obtain ⟨h2, h⟩ := Bool.and_eq_true_iff.mp h
  exact ⟨s, x, ⟨of_decide_eq_true h1, hx, h2⟩, h⟩
def isOk {α : Type} (r : Reading α) : Bool := match r with | .ok .. => true | _ => false

theorem test_fieldEmpty_met : FrontMeets fun _ x => decide ((x.x 3).toNat / 256 % 128 = 0) := frontMeets (front 0 5 base) (by decide +kernel)
theorem test_fieldPast_met : FrontMeets fun _ x => decide (64 < (x.x 3).toNat % 64 + (x.x 3).toNat / 256 % 128) :=
  frontMeets (front 0 (256 * 60 + 5) base) (by decide +kernel)
theorem test_field_met : FrontMeets fun _ x => decide ((x.x 3).toNat / 256 % 128 ≠ 0 ∧ (x.x 3).toNat % 64 + (x.x 3).toNat / 256 % 128 = 64) :=
  frontMeets (front 0 (256 * 60 + 4) base) (by decide +kernel)
theorem test_sigwait_met : FrontMeets fun _ x => decide ((x.x 2).toNat = 15) := frontMeets (front 15 0 base) (by decide +kernel)
theorem test_qfetch_met : FrontMeets fun s x => decide ((x.x 3).toNat % 128 = 0 ∧ freeEntry s 0 = some 0) &&
    isOk (unitRead s ((x.x 2).toNat % 64) true 7 (x.x 3).toNat 128 1) := frontMeets (front 0 0x2000000 base) (by decide +kernel)
def entry1 : BufEntry := { packet := 0, tenant := 0, privileged := false, bytes := 1 :: List.replicate 127 0 }
theorem test_dispatch_met : FrontMeets fun s x => decide ((dieOf s 0).entries[(x.x 2).toNat]? = some (some entry1)) &&
    isOk (dispatchEntry s 0 (x.x 2).toNat entry1) := frontMeets (front 255 0 (setEntry base 0 255 (some entry1))) (by decide +kernel)
/-- A queue of tenant 0, whose block lies at 0x2000000; it is mapped to slot 31 or not. -/
def queue0 (st : QueueState) : Queue := { Queue.blank 0 with state := st, ring := 0x3000000, log2size := 6 }
def withQueue (x : Queue) (s : State) : State := updTenant s 0 fun t => { t with queues := [x], qtable := 0x2000000 }
def mapped (s : State) : State :=
  let d := dieOf s 0
  setDie s 0 { d with slots := d.slots.set 31 (some (0, 0)) }
theorem test_qsave_met : FrontMeets fun s x => decide ((((dieOf s 0).slots[(x.x 2).toNat]?).getD none) = some (0, 0) ∧
    (x.x 2).toNat < 32 ∧ (x.x 3).toNat % 256 = 0 ∧ (x.x 3).toNat + 256 = memSize) :=
  frontMeets (front 31 (BitVec.ofNat 64 (memSize - 256)) (mapped (withQueue (queue0 .mapped) base))) (by decide +kernel)
theorem test_qload_met : FrontMeets fun s x => decide ((((dieOf s 0).slots[(x.x 2).toNat]?).getD none) = none ∧ (x.x 2).toNat < 32 ∧
    (x.x 3).toNat % 256 = 0 ∧ (x.x 3).toNat + 256 ≤ memSize ∧ queueAt s (x.x 3).toNat = some (0, queue0 .pending)) &&
    blockSettled s 0 0 && (match unitReadAt s (x.x 3).toNat 256 with
    | .ok _ bs => (match loadBlock 0 (queue0 .pending) bs with
      | some y => decide (y.state = .pending ∧ y.die = 0)
      | none => false)
    | _ => false) :=
  frontMeets (front 31 0x2000000 (withQueue (queue0 .pending) { base with mem := base.mem.write 0x2000008 [6, 0, 0, 0, 1] })) (by decide +kernel)
theorem test_evpost_met : FrontMeets fun _ x => decide ((x.x 2).toNat = 63 ∧ (x.x 3).toNat = 255) :=
  frontMeets (front 63 255 base) (by decide +kernel)
/-- Outside machine mode; and an entry that was handed over. -/
theorem test_userMode_met : let s := setFe { base with feTurn := some 0 } 0 { FrontEnd.reset with machine := false }
    s.feTurn = some 0 ∧ (feAt s 0).map FrontEnd.machine = some false := by decide +kernel
theorem test_xpktq_met : let s := setDie base 0 { dieOf base 0 with pktq := [7] }
    (feAt s 3).isSome ∧ (dieOf s (feDie 3)).pktq = 7 :: [] ∧ (dieOf s (feDie 3)).pktq.contains 8 = false := by decide +kernel

/-! Operations end. -/

/-- Operation 9 of the strand, with its body. -/
def op9 (body : OpBody) : Op :=
  { id := 9, owner := ⟨3, 0⟩, value := 0, exec := 1, queued := none, cancelled := none, steps := [], body }
def running (o : Op) (s : State) : State := { s with ops := [o], nextId := 10 }
def laneAt (t : Target) : LaneAccess := { lane := 0, va := 0, target := t, data := [1, 2, 3, 4] }
def dest0 : Dest := { slot := 0, count := 1, signed := false }
theorem test_loadEnds_met : let o := op9 (.load 4 dest0 0 [laneAt (.mem 64)])
    let s := running o { at_ .nop with l1 := [{ core := 0, line := 1, kind := .lease (.at 1) }] }
    opOf s 9 = some o ∧ (1#64).getLsbD 0 = true ∧ lineOf 64 = 1 ∧ olderTouches s o.owner o.id (.mem 64) 4 false = false ∧
      (copyOf s (opCore s o) 1).map (·.readable s.ns) = some true ∧ s.mem.poisoned 1 = false := by decide +kernel
theorem test_bufferLoadEnds_met : let o := op9 (.bufLoad 0 false false 4 0 [(0, 4092)])
    let s := running o (at_ .nop)
    opOf s 9 = some o ∧ olderBuffer s o = false ∧
      ((warpOf s o.owner.warp).bind fun w => (gangOf s w.gang).bind (·.teams[0]?)).map (fun t => (t.a.limit, t.a.poisoned 4092)) =
        some (4096, false) := by decide +kernel
theorem test_storeEnds_met : let o := op9 (.store 4 0 false [laneAt (.mem 64)])
    let s := running o (at_ .nop)
    opOf s 9 = some o ∧ olderTouches s o.owner o.id (.mem 64) 4 true = false := by decide +kernel
theorem test_bufferStoreEnds_met : let o := op9 (.bufStore 0 [(4092, [1, 2, 3, 4])])
    let s := running o (at_ .nop)
    opOf s 9 = some o ∧ olderBuffer s o = false ∧ (warpOf s o.owner.warp).isSome := by decide +kernel
theorem test_mmaEnds_met : let o := op9 (.mma mma16 [(0, 0)] [] [] (Buffer.empty 4096) (Buffer.empty 4096))
    let s := running o (bound false (at_ .nop))
    opOf s 9 = some o ∧ olderEngine s o = false ∧ (opTile s o).map (·.2.2) = some ⟨0, false⟩ ∧
      ((opTile s o).bind fun x => (gangOf s x.1.gang).bind (teamOf · x.1)).map (fun t => (t.a.poison, t.w.poison)) = some ([], []) ∧
      (opTile s o).map (·.1.tilePoison) = some [] := by decide +kernel
def job : CopyJob :=
  { f := copy, kind := 0, leader := 0, regs := [0, 0, 0, 0], base := 64, word := 0, rows := [], wordPa := 0, slotNo := 0, rm := 1,
    seed := 0, record := none, asked := [], got := [], left := [], noise := [], phase := 0 }
theorem test_copyRead_met : let o := { op9 (.copy job) with queued := some .cp }
    let s := running o (at_ .nop)
    opOf s 9 = some o ∧ (copyRun s o job).isSome ∧ o.cancelled = none ∧ engineReads s 0 o = true := by decide +kernel
theorem test_copyLands_met : let o := op9 (.copy { job with phase := 2, left := [{ line := 0, runs := [], lanes := 1, tag := none, poison := false, crc := 0 }] })
    let s := running o (at_ .nop)
    opOf s 9 = some o ∧ (copyRun s o job).isSome ∧ copyHeld s 0 9 = false ∧ job.f.dir = 0 ∧ job.f.chk = false := by decide +kernel
theorem test_ackEnds_met : let o := op9 (.load 4 dest0 0 [laneAt (.peer 1 64)])
    let s := running o (at_ .nop)
    opOf s 9 = some o ∧ isRemote (.peer 1 64) = true ∧ s.posted = [] ∧ s.part.fills = [] ∧ s.packets = [] ∧
      notSent s 9 (.peer 1 64) = false := by decide +kernel
theorem test_hostAtomicEnds_met : let o := op9 (.atomic atomf true [(laneAt (.host 64), 1, 0)])
    let s := running o (at_ .nop)
    opOf s 9 = some o ∧ isHost (.host 64) = true ∧ isRemote (.host 64) = true ∧ notSent s 9 (.host 64) = false := by decide +kernel
theorem test_remoteTimeout_met : let o := op9 (.load 4 dest0 0 [laneAt (.peer 1 64)])
    let a : Awaited := { op := 9, target := .peer 1 64, since := 0, port := some 0 }
    let s := running o { at_ .nop with ns := 2000000, awaiting := [a] }
    opOf s 9 = some o ∧ isRemote (.peer 1 64) = true ∧ s.awaiting = [a] ∧ a.since + 2000000 = s.ns ∧ s.posted = [] ∧
      s.part.fills = [] ∧ s.packets = [] := by decide +kernel
theorem test_queueRelease_met : let o := { op9 (.store 4 0 false []) with queued := some .st }
    let s := running o (at_ .nop)
    s.ops.head? = some o ∧ coreOfWarp s o.owner.warp = some 0 := by decide +kernel
/-- A strand in TRYWAIT of LD, its deadline come. -/
theorem test_trywaitDeadline_met : let i : Instr := .trywaitCtr none 0 0 1
    let s := withStrand0 (fun k => { k with wait := some (.tryUntil 64) }) { placeCode State.reset (encode i ++ List.replicate 16 0) with cycles := 64 }
    ((warpOf s 3).bind fun w => (w.strandAt 0).bind fun k => (nodeOf s w).map fun x =>
      (decide (k.wait = some (.tryUntil 64)), (decode (fetchParcels s x.2.1 k (k.issueAddress w.launched).toNat)).toOption)) = some (true, some i) ∧
    (focusCtx { s with focus := some ⟨3, 0⟩ } none (encode i).length (instrValue (encode i))).isSome := by decide +kernel

/-! Waits end; placement; groups. -/

def waitsFor (x : Wait) (cycles : Nat) (s : State) : State := { withStrand0 (fun k => { k with wait := some x }) s with cycles }
theorem test_meetDeadlock_met : let s := waitsFor (.readReg 63) 65536 (placeCode State.reset [0#16])
    ((warpOf s 3).map fun w => decide (w.mode = .running ∧ w.kernel = none ∧ (w.strands.map Strand.no) = [0] ∧
      ∀ j ∈ w.strands, j.isDone w.launched = false ∧ (presenceWait j).isSome ∧ j.waitSince + 65536 = s.cycles ∧
        j.lastIssue + 65536 = s.cycles)) = some true ∧ (stuckCtx s ⟨3, 0⟩).isSome := by decide +kernel
theorem test_poolTimeout_met : let s := waitsFor .records 1048576 (placeCode State.reset [0#16])
    ((stuckCtx s ⟨3, 0⟩).map fun c => decide (c.w0.kernel = none ∧ c.k0.wait = some .records ∧ c.k0.waitSince + 1048576 = s.cycles)) =
      some true := by decide +kernel
theorem test_pinTimeout_met : let s := { base with cycles := 4096, l1 := [{ core := 335, line := 1, kind := .pin ⟨3, 0⟩ 0 [] [] }] }
    copyOf s 335 1 = some (.pin ⟨3, 0⟩ 0 [] []) ∧ 0 + 4096 = s.cycles := by decide +kernel

/-- The part with one gang, which waits from the start, fresh or saved. -/
def gang0 (saved : Bool) : Gang := { placedGang State.reset with phase := .queued 0 0 saved 5 }
def waitingPart (g : Gang) : State :=
  { base with launches := [placedLaunch State.reset []], gangs := [g], nextId := 4 }
theorem test_placement_met : let s := waitingPart (gang0 false)
    waitingGangs s 0 = [] ++ gang0 false :: [] ∧ tried 0 20 (gang0 false) = [] ++ 20 :: (List.range 20) ∧
      (tryPlace s (gang0 false) 20).isSome := by decide +kernel
theorem test_gangResume_met : let s := waitingPart (gang0 true)
    gangOf s 2 = some (gang0 true) ∧ ((fitYard s placedNode 83).map fun fits =>
      takesRoom s (resumeGang s (placedLaunch State.reset []) (gang0 true) placedNode fits) (gang0 true) 83) = some false := by decide +kernel
/-- Another gang, of a launch of priority 0, has eight teams on each of the cores of yard 0 from core n on, which fills them. -/
def filler (n : Nat) : State :=
  let s := { waitingPart (gang0 false) with ns := 20000, cycles := 1048576 }
  let teams := (List.range (32 - 8 * n)).map fun i => { newTeam { placedNode with wGranules := 0, aGranules := 0 } 0 with vcore := n + i / 8, racks := [] }
  let g : Gang := { placedGang State.reset with uid := 50, cores := [0, 1, 2, 3], teams, wBase := [0, 0, 0, 0], aBase := [0, 0, 0, 0] }
  { s with gangs := s.gangs ++ [g] }
theorem test_displace_met : let s := filler 0
    gangOf s 2 = some (gang0 false) ∧ 0 + 20000 = s.ns ∧ poolsHold s (gang0 false) = true ∧ stillClearing s (gang0 false) 5 = false ∧
      leastYard s placedNode 5 1 (yardsFor (gang0 false)) = true := by decide +kernel
theorem test_groupStart_met : let r : RecordRef := { index := 0, addr := 0, depth := 0, since := 0, cells := none }
    let l := { placedLaunch State.reset [] with troughs := [{ emptyTrough 0 with queues := [[r], [], [], []] }] }
    let s := { base with launches := [l], nextId := 4 }
    launchOf s l.uid = some l ∧ l.nodes[0]? = some placedNode ∧ (dieQueue l 0 0).head? = some r ∧ 0 < placedNode.target ∧
      placedNode.target = (dieQueue l 0 0).length := by decide +kernel
theorem test_nodeTimer_met : let r : RecordRef := { index := 0, addr := 0, depth := 0, since := 0, cells := none }
    let l := { placedLaunch State.reset [] with troughs := [{ emptyTrough 0 with queues := [[r], [], [], []] }] }
    let s := { base with launches := [l], nextId := 4, cycles := 1 }
    launchOf s l.uid = some l ∧ (dieQueue l 0 0).head? = some r ∧ r.since + placedNode.timer = s.cycles := by decide +kernel

/-- Core 0 has free granules for the gang that waits, but not side by side; the other cores of the yard are full. -/
def fragmented : State :=
  let w : Warp := { placedWarp State.reset with uid := 98, gang := 50, blocks := [(8, 4)], tiles := [] }
  { filler 1 with warps := [w, { w with uid := 99, slot := 1, blocks := [(20, 4)] }] }
theorem test_compaction_met : let s := fragmented
    0 ∈ blockedYards s (gang0 false) placedNode ∧ blockedCore s placedNode 0 = true ∧
      (gang0 false).compactSince + 1048576 = s.cycles ∧ (moveVictim s 2 0).map Gang.uid = some 50 := by decide +kernel
/-- A queue that pends is one whose age counts. -/
theorem test_queueAgeing_met : let s := withQueue (queue0 .pending) base
    dieQueues s 0 .pending = [(0, queue0 .pending)] := by decide +kernel

/-! Frames, fault records, pre-emption. -/

/-- A warp whose trap's frame is to be written, with a trap kernel in its image. -/
def trapRec : TrapRec :=
  { strand := 0, cause := causeBKPT, sub := 0, addr := 0, lanes := 1, value := 0, remote := false, name := 0 }
def stopping (s : State) : State :=
  { withWarp0 (fun w => { w with mode := .stopping trapRec }) s with launches := s.launches.map fun l => { l with trap := some placedNode } }
/-- A warp, its node and a property of them. -/
def warpIs (s : State) (P : Warp → Gang → Launch → NodeEntry → Bool) : Bool :=
  (((warpOf s 3).bind fun w => (nodeOf s w).map fun x => P w x.1 x.2.1 x.2.2)).getD false
theorem warpIs_of {s : State} {P Q : Warp → Gang → Launch → NodeEntry → Bool} (h : warpIs s P = true)
    (k : ∀ w g l n, P w g l n = true → Q w g l n = true) : warpIs s Q = true := by
  simp only [warpIs] at h ⊢
  cases hw : warpOf s 3 with
  | none => simp [hw] at h
  | some w =>
    cases hn : nodeOf s w with
    | none => simp [hw, hn] at h
    | some x => simp only [hw, hn, Option.bind_some, Option.map_some, Option.getD_some] at h ⊢; exact k _ _ _ _ h
/-- The warp's frame, of this head, can be written. -/
def framed (s : State) (w : Warp) (g : Gang) (l : Launch) (n : NodeEntry) (h : FrameHead) : Bool :=
  let bytes := frameBytes s n (teamOf g w) w h
  (writeFrame (updWarp s w.uid fun w => { w with formed := bytes }) l w bytes).isSome
theorem framed_of {s : State} {w : Warp} {g : Gang} {l : Launch} {n : NodeEntry} {h : FrameHead} (hm : s.mem = tables)
    (ht : tenantOf s 0 = tenant0) (hg : s.part.ranges = []) (hl : l.tenant = 0) (hw : w.tframe = 0) : framed s w g l n h = true := by
  obtain ⟨t, hb⟩ := frame_writes (s := updWarp s w.uid fun v => { v with formed := frameBytes s n (teamOf g w) w h }) hm ht hg hl hw
    (frameBytes_length s n (teamOf g w) w h)
  rw [framed, hb]; rfl
theorem test_frameWrite_met : let s := stopping (at_ .nop)
    warpIs s (fun w g l n => w.drained s && decide (w.mode = .stopping trapRec ∧ g.phase = .placed) && l.trap.isSome &&
      framed s w g l n trapRec.head) = true := by
  intro s
  have h : warpIs s (fun w g l _ => (w.drained s && decide (w.mode = .stopping trapRec ∧ g.phase = .placed) && l.trap.isSome) &&
    decide (s.mem = tables ∧ tenantOf s 0 = tenant0 ∧ s.part.ranges = [] ∧ l.tenant = 0 ∧ w.tframe = 0)) = true := by decide +kernel
  refine warpIs_of h fun w g l n h => ?_
  obtain ⟨h1, h2⟩ := Bool.and_eq_true_iff.mp h
  obtain ⟨hm, ht, hg, hl, hw⟩ := of_decide_eq_true h2
  rw [h1, framed_of hm ht hg hl hw]; rfl
/-- A warp of a gang that ends, with no cause of its own. -/
theorem test_frameEnding_met : let s := { withWarp0 (fun w => { w with mode := .ending }) (at_ .nop) with
      gangs := (at_ .nop).gangs.map fun g => { g with phase := .terminating 0 3 none } }
    warpIs s (fun w g l n => w.drained s && decide (w.mode = .ending ∧ g.phase = .terminating 0 3 none) &&
      framed s w g l n (stopHead s 0 false false)) = true := by
  intro s
  have h : warpIs s (fun w g l _ => (w.drained s && decide (w.mode = .ending ∧ g.phase = .terminating 0 3 none)) &&
    decide (s.mem = tables ∧ tenantOf s 0 = tenant0 ∧ s.part.ranges = [] ∧ l.tenant = 0 ∧ w.tframe = 0)) = true := by decide +kernel
  refine warpIs_of h fun w g l n h => ?_
  obtain ⟨h1, h2⟩ := Bool.and_eq_true_iff.mp h
  obtain ⟨hm, ht, hg, hl, hw⟩ := of_decide_eq_true h2
  rw [h1, framed_of hm ht hg hl hw]; rfl
theorem test_halt_met : let s := withWarp0 (fun w => { w with haltPending := true }) (at_ .nop)
    warpIs s (fun w _ _ _ => w.drained s && decide (w.mode = .running) && w.haltPending) = true := by decide +kernel
theorem test_forcedHalt_met : let s := withWarp0 (fun w => { w with haltPending := true, forced := true }) (inKernel (at_ .nop))
    warpIs s (fun w _ l _ => w.drained s && decide (w.mode = .handler) && w.haltPending && w.forced && frameIn s l w &&
      (readFrame s l w).isSome) = true := by
  intro s
  have h : warpIs s (fun w _ l _ => (w.drained s && decide (w.mode = .handler) && w.haltPending && w.forced) &&
    decide (s.mem = tables ∧ tenantOf s 0 = tenant0 ∧ s.part.ranges = [] ∧ l.tenant = 0 ∧ w.tframe = 0)) = true := by decide +kernel
  refine warpIs_of h fun w g l n h => ?_
  obtain ⟨h1, h2⟩ := Bool.and_eq_true_iff.mp h
  obtain ⟨hm, ht, hg, hl, hw⟩ := of_decide_eq_true h2
  obtain ⟨hi, b, hb⟩ := frame_reads hm ht hg hl hw
  rw [h1, hi, hb]; rfl
def withPhase (p : GangPhase) (s : State) : State := { s with gangs := s.gangs.map fun g => { g with phase := p } }
theorem test_faultRecord_met : let s := withPhase (.terminating 0 3 none) (withWarp0 (fun w => { w with mode := .terminated }) (at_ .nop))
    (gangOf s 2).map Gang.phase = some (.terminating 0 3 none) ∧ gangBusy s 2 = false ∧ 0 ≠ noRecord ∧ gangStopped s 2 = true ∧
      (launchOf s 1).any (recordIn s · 0 3) = true := by
  decide +kernel
theorem test_faultSequence_met : let s := withPhase (.recording 8 (some (0x5000000, 1))) (at_ .nop)
    (gangOf s 2).map Gang.phase = some (.recording 8 (some (0x5000000, 1))) ∧ jobDone s 8 = true ∧
      (unitWrite s 0 false unitCore .unit true 0x5000000 (leBytes 8 1)).isSome := by decide +kernel
/-- A gang asked to stop, whose one warp is halted: its frame is written. -/
def preempting (s : State) : State := withWarp0 (fun w => { w with mode := .halted false, preemptPending := true, forced := true }) s
theorem test_preemptionSave_met : let s := preempting (at_ .nop)
    warpIs s (fun _ g l _ => decide (g.phase = .placed) && readyToSave s l g.uid && savesIn s l g.uid &&
      decide ((gangOf ([3].foldl saveWarp (publishPins s (heldBy [3]))) g.uid).map Gang.phase = some .placed)) = true := by decide +kernel

/-! Queues. -/

/-- The bell of a queue of 64 entries: the last that fits, and one past it. -/
theorem test_doorbell_met : let s := withQueue (queue0 .idle) base
    ringable s 0 0 false = true ∧ ((64 : Word) - (queue0 .idle).windex).toNat + ((queue0 .idle).windex - (queue0 .idle).rindex).toNat =
      2 ^ (queue0 .idle).log2size := by decide +kernel
theorem test_doorbellOver_met : let s := withQueue (queue0 .mapped) base
    ringable s 0 0 false = true ∧ 2 ^ (queue0 .mapped).log2size <
      ((65 : Word) - (queue0 .mapped).windex).toNat + ((queue0 .mapped).windex - (queue0 .mapped).rindex).toNat := by decide +kernel
theorem test_doorbellNone_met : ringable base 0 0 false = false := by decide +kernel
theorem test_queueReset_met : let s := withQueue { queue0 .mapped with resetTo := some 7, disabling := true } base
    startedOf s 0 0 = [] ∧ (queueOf s 0 0).resetTo = some 7 ∧ (queueOf s 0 0).state ≠ .disabled ∧ (queueOf s 0 0).disabling = true := by
  decide +kernel
theorem test_queueEnable_met : let s := withQueue (Queue.blank 3) { base with mem := base.mem.write 0x2000308 [16, 15, 3, 7] }
    let s1 := updTenant s 0 fun tn => { tn with enabling := none }
    (tenantOf s 0).enabling = none ∧ (tenantOf s 0).enabled = true ∧ 3 < queueCount (tenantOf s 0) ∧ (queueOf s1 0 3).state = .disabled ∧
      blockSettled s1 0 3 = true ∧ (match unitRead s1 0 true scopeSYSTEM (blockAddr (tenantOf s 0) 3) 256 0 with
        | .ok _ bs => (readBlock bs 3 true).isSome
        | _ => false) = true := by decide +kernel
theorem test_queueDisable_met : let s := withQueue (queue0 .idle) base
    (queueOf s 0 0).state ≠ .disabled ∧ (queueOf s 0 0).privileged = false := by decide +kernel
theorem test_events_met : let s := base
    s.tenants[63]? = some (Tenant.reset 63) ∧ (Tenant.reset 63).num = 63 ∧ ∀ x ∈ s.tenants.take 63, x.num ≠ 63 := by decide +kernel

/-! Tenants. -/

theorem test_tenantEnable_met : 63 < 64 ∧ (tenantOf base 63).enabled = false := by decide +kernel
theorem test_tenantTeardown_met : (tenantOf base 0).enabled = true ∧ (tenantOf base 0).queues = [] ∧ (∀ l ∈ base.launches, l.tenant ≠ 0) ∧
    (tenantOf base 0).xbusy = none := by decide +kernel
/-- With a queue that is mapped, and a packet of it. -/
theorem test_tenantTeardownQueues_met : let s := mapped (withQueue (queue0 .mapped) base)
    (tenantOf s 0).enabled = true ∧ (tenantOf s 0).queues ≠ [] ∧ ((dieOf s 0).slots.contains (some (0, 0))) = true := by decide +kernel
/-- The launch whose gang is placed. -/
theorem test_stopLaunch_met : let s := at_ .nop
    ((launchOf s 1).map Launch.uid = some 1 ∧ (gangOf s 2).map (fun g => (g.uid, g.launch, g.phase)) = some (2, 1, .placed)) ∧
    s.gangs.map (fun h => (h.uid, h.phase)) = [(2, .placed)] := by decide +kernel
def translating (s : State) : State := updTenant s 0 fun t => { t with xbusy := some (.invalidate 0 1) }
theorem test_invalidated_met : let s := translating base
    (tenantOf s 0).xbusy = some (.invalidate 0 1) ∧ translationsUsed s 0 65536 = false := by decide +kernel
theorem test_stillUsed_met : let s := translating (running (op9 (.load 4 dest0 0 [{ laneAt (.mem 64) with va := 65535 }])) base)
    (tenantOf s 0).xbusy = some (.invalidate 0 1) ∧ translationsUsed s 0 65536 = true := by decide +kernel
/-- Tenant 0's page is to move to the second 16 GiB, by its last leaf register. -/
theorem test_migrate_met : let s := updTenant base 0 fun t => { t with xleaf := t.xleaf.set 31 0x400000007 }
    (tenantOf s 0).xbusy = none ∧ (tenantOf s 0).xleaf[31]? = some 0x400000007 ∧
      walk s.mem (tenantOf s 0).ptroot.toNat (0x3FFFF * 65536) = .leaf 7 34 ∧ localLeaf 7 34 = true ∧ localLeaf 0x400000007 34 = true ∧
      granulesCovered (enabledLocal (tenantOf s 0)) 18 (pteAddr 0x400000007 / 65536) ((pteAddr 0x400000007 + 2 ^ 34 - 1) / 65536) =
        true := by decide +kernel
theorem test_migrated_met : let x : XCommand := .migrate 0 0 0x400000000 34 0x1010000 0x400000007
    let s := updTenant base 0 fun t => { t with xbusy := some x }
    (tenantOf s 0).xbusy = some x ∧ ∀ line ∈ linesMoving s x, (homeOf s line).state = 0 ∧ (homeOf s line).held = [] ∧
      (homeOf s line).horizon = none := by decide +kernel
def heldAccess (copy : Nat) : HeldAccess := { seq := 5, owner := ⟨3, 0⟩, copy, vas := [64], trap := trapRec, job := 8, told := true }
theorem test_held_met : ∀ copy ∈ [0, 9], let s := updTenant base 0 fun t => { t with rplHeld := [heldAccess copy] }
    heldBySeq s 0 5 = some (heldAccess copy) := by decide +kernel

/-! The range table, protocols, registers. -/

/-- An entry of LEASE on the first 64 KiB, for a tenant whose quota is one entry. -/
def entryQ : List DWord := [0x8100000000000000, 0, 0, 0]
def withEntry (s : State) : State := { s with part := { s.part with staging := entryQ, quotas := [(0, 1)] } }
theorem test_rangeWrite_met : let s := withEntry base
    s.part.change = none ∧ rangeCode s 1023 (stagedEntry s.part) = 0 := by decide +kernel
theorem test_rangeRefused_met : let s := withEntry { base with part := { base.part with ranges := [(0, ⟨0x8100000000000000, 0, 0, 0⟩)] } }
    s.part.change = none ∧ rangeCode s 1 (stagedEntry s.part) ≠ 0 ∧ (validEntry s.part 0).isSome := by decide +kernel
/-- An entry is removed while lines outside it are leased: 0x100000 lies outside the first 64 KiB. -/
theorem test_rangeChange_met : let s := { setHome base 0x100000 { HomeLine.rest with state := 1, horizon := some (.at 5) } with
      part := { base.part with ranges := [(0, ⟨0x8100000000000000, 0, 0, 0⟩)], change := some (0, none) },
      l1 := [{ core := 0, line := 0x100000, kind := .lease (.at 5) }] }
    s.part.change = some (0, none) ∧ s.homes ≠ [] ∧ (∀ e ∈ s.homes, rangeChanging s e.1 = false) ∧
      (∀ x ∈ s.l1, rangeChanging s x.line = false) ∧ rangeChanging s 0 = true := by decide +kernel
/-- A table without state 0 breaks the second check. -/
theorem test_protocol_met : let s := base
    8 ≤ (15 : BitVec 4).toNat ∧ (∀ e ∈ s.part.ranges, e.2.proto ≠ 15) ∧ (0 : BitVec 42).toNat * 1024 + 1024 ≤ memSize ∧
      (∀ i < 16, s.mem.poisoned (lineOf 0 + i) = false) ∧ tableFault (List.replicate 256 0xFFFFFFFF) = some (0x11, 0, 0) := by decide +kernel
theorem test_quota_met : 63 < 64 ∧ (1024 : DWord).toNat % 2048 ≤ 1024 ∧
    ((tput 0 base.part.quotas 63 1024).map (·.2)).foldl (· + ·) 0 = 1024 := by decide +kernel
theorem test_numbered_met : (numbered (at_ .nop) 0 1).map Launch.uid = some 1 := by decide +kernel
theorem test_attest_met : (0x8000000000000040 : DWord).getLsbD 63 = true ∧ (attestOf base 0).busy = false := by decide +kernel
theorem test_attestReport_met : let s := setAttest base 0 { attestOf base 0 with busy := true, addr := 0x5000000 }
    (attestOf s 0).busy = true ∧ (attestOf s 0).job = none ∧ ((attestOf s 0).addr.toNat = 0x5000000) := by decide +kernel
theorem test_scopeLock_met : let s := { base with part := { base.part with near := 1, domain := 3 } }
    s.part.lock = false ∧ s.part.near &&& s.part.domain = s.part.near ∧ s.part.near.getLsbD s.part.device.toNat = true ∧
      s.part.domain.getLsbD s.part.device.toNat = true := by decide +kernel
theorem test_registers_met : base.part.lost = false ∧ base.part.pfEnabled = false ∧
    (let p : Part := { base.part with boot := 0, linkUp := true, pfEnabled := true }
     p.lost = false ∧ servesHost p = true ∧ p.lock = false) := by decide +kernel

/-! Packets. -/

/-- A packet of tenant 0's queue 0, of a type, with words of 8 bytes from 0x50 on. -/
def packet (type : Nat) (quads : List Nat) (phase : PacketPhase) : Packet :=
  { id := 9, tenant := 0, queue := 0, position := 0, parent := none,
    bytes := type :: List.replicate 79 0 |>.map (BitVec.ofNat 8) |> (· ++ quads.flatMap (leBytes 8) ++ zeros (48 - 8 * quads.length))
    phase, left := 0, next := 0, broken := 0, asked := [], got := [] }
def withPacket9 (p : Packet) (s : State) : State := { s with packets := [p], nextId := 10 }
theorem test_packetRead_met : let s := withQueue { queue0 .mapped with windex := 1 } base
    let x := queueOf s 0 0
    fetching x = true ∧ waitingOf s 0 0 = none ∧ x.rindex ≠ x.windex ∧ (startedOf s 0 0).length < 64 ∧
      isOk (unitRead s 0 x.privileged scopeSYSTEM x.entryAddr 128 0) = true := by decide +kernel
theorem test_packetStart_met : let p := packet 0 [] (.waiting true)
    let s := withPacket9 p (withQueue { queue0 .mapped with windex := 1 } base)
    fetching (queueOf s 0 0) = true ∧ waitingOf s 0 0 = some p ∧ mayStart p (startedOf s 0 0) = true := by decide +kernel
theorem test_packetTypes_met : ∀ t ∈ [0, 3, 6, 1], let p := packet t [] (.started 0)
    let s := withPacket9 p base
    packetOf s 9 = some p ∧ p.type = t ∧ freeEntry s (packetDie s p) = some 0 := by decide +kernel
theorem test_timestamp_met : let p := packet 5 [0x5000000] (.started 0)
    let s := withPacket9 p base
    packetOf s 9 = some p ∧ p.type = 5 ∧ (unitWrite s 0 (packetPriv s p) unitCore (.packet 9) false (p.quad 0x50).toNat (leBytes 8 0)).isSome := by
  decide +kernel
theorem test_waitval_met : ∀ ph ∈ [PacketPhase.started 0, .polling 0 0], let p := packet 4 [0x5000000] ph
    let s := withPacket9 p base
    packetOf s 9 = some p ∧ p.type = 4 ∧ p.phase = ph ∧
      isOk (packetRead s 9 0 (packetPriv s p) p.acq (p.quad 0x50).toNat p.waitSize 0x0A) = true := by decide +kernel
theorem test_waitvalTimeout_met : let p := packet 4 [0x5000000, 0, 0, 0, 3] (.polling 0 0)
    let s := withPacket9 p { base with ns := 3000 }
    packetOf s 9 = some p ∧ 0 < (p.quad 0x70).toNat ∧ 0 + 1000 * (p.quad 0x70).toNat = s.ns := by decide +kernel
/-- A COPY of one line that has been read. -/
theorem test_copyPacket_met : let p := { packet 2 [0x40, 0x5000000, 64] (.started 0) with got := [(1, zeros 67)] }
    let s := withPacket9 p base
    let plan := linearPlan (packetJob p) 0
    packetOf s 9 = some p ∧ p.type = 2 ∧ (match packetLines s p false plan.src, packetLines s p true plan.dst with
      | .ok src, .ok dst => (src ++ dst).all (fun x => !linkDown s 0 x.2) && src.all fun x => p.got.any fun y => y.1 == x.1
      | _, _ => false) = true := by decide +kernel
/-- A LAUNCH and an INDIRECT that were handed over. -/
theorem test_handed_met : ∀ t ∈ [1, 6], let p := packet t [] .handed
    let e : BufEntry := { entry1 with packet := 9 }
    let s := setEntry (setDie (withPacket9 p base) 0 { dieOf base 0 with pktq := [0] }) 0 0 (some e)
    packetOf s 9 = some p ∧ firstEntry s (packetDie s p) = some (0, e) ∧ p.type = t ∧
      isOk (dispatchEntry s (packetDie s p) 0 e) = true := by decide +kernel
theorem test_launchTimeout_met : let l := { placedLaunch State.reset [] with timeout := some 5 }
    let s := { base with launches := [l], ns := 5 }
    launchOf s l.uid = some l ∧ l.timedOut = false := by decide +kernel
theorem test_packetEnds_met : let p := packet 0 [] (.ending 0)
    let s := withPacket9 p base
    packetOf s 9 = some p ∧ workReleased s p = true ∧ p.done = 0 := by decide +kernel
theorem test_packetWord_met : let q := packet 0 [] (.ending 0)
    let p := { q with bytes := (q.bytes.take 8) ++ leBytes 8 0x5000008 ++ q.bytes.drop 16 }
    let s := withPacket9 p base
    packetOf s 9 = some p ∧ workReleased s p = true ∧ p.done ≠ 0 ∧ p.done.toNat % 8 = 0 ∧
      (unitWrite s 0 (packetPriv s p) unitCore (.packet 9) true p.done.toNat (zeros 8)).isSome := by decide +kernel
theorem test_packetWritten_met : let p := packet 0 [] (.writing 8 0)
    packetOf (withPacket9 p base) 9 = some p ∧ jobDone (withPacket9 p base) 8 = true := by decide +kernel


/-! Lines at their homes. -/

theorem lineAtRest_of {s : State} {line : Nat} (h : decide (protoOf s line = 1 ∧ s.part.sealedAt (lineBase line) = false ∧
    changing s line = false ∧ homeOf s line = HomeLine.rest) = true) : LineAtRest s line := by
  obtain ⟨h1, h2, h3, h4⟩ := of_decide_eq_true h
  exact ⟨h1, h2, h3, h4⟩
theorem test_lineReads_met : let s := at_ .nop
    LineAtRest s 0x100000 ∧ copyOf s 0 0x100000 = none ∧ coreOfWarp s 3 = some 0 ∧ 0 < 32 ∧ (pinsOf s 0).length < 32 :=
  ⟨lineAtRest_of (by decide +kernel), by decide +kernel⟩
def pending5 (rel : Bool) : Pending :=
  { id := 5, op := 4, writer := .strand, rel, window := false, tag := none, poison := false, value := 0, va := 0, lanes := 1, core := 0,
    owner := ⟨3, 0⟩, pa := 0x4000000, bytes := zeros 8 }
def storing (rel : Bool) (s : State) : State := { s with pend := [pending5 rel] }
theorem test_storeHeld_met : let s := { storing false base with l1 := [{ core := 0, line := 0x100000, kind := .own }] }
    (s.pend.find? fun x => x.id == 5) = some (pending5 false) ∧ behindPending s (pending5 false) = false ∧
      changing s (pending5 false).line = false ∧ (pending5 false).rel = false ∧ holdsLine s 0 (pending5 false).line = true := by
  decide +kernel
theorem test_storeAtRest_met : let s := storing false base
    LineAtRest s (pending5 false).line ∧ (s.pend.find? fun x => x.id == 5) = some (pending5 false) ∧
      behindPending s (pending5 false) = false ∧ holdsLine s 0 (pending5 false).line = false :=
  ⟨lineAtRest_of (by decide +kernel), by decide +kernel⟩
/-- A range of LEASE, bound to the word that the store writes, on the line's 64 KiB. -/
def boundEntry : RangeEntry := ⟨0x8100000400000400, 0x20000, 0x4000000, 0⟩
theorem test_releaseAtRest_met : let s := { storing true base with part := { base.part with ranges := [(0, boundEntry)] } }
    LineAtRest s (pending5 true).line ∧
      (s.pend.find? fun x => x.core == 0 && x.rel && !x.window && lineOf x.pa == (pending5 true).line) = some (pending5 true) ∧
      boundSync s (pending5 true).pa (pending5 true).bytes.length = some boundEntry ∧ boundEntry.proto = 1 ∧
      holdsLine s 0 (pending5 true).line = false ∧ behindPending s (pending5 true) = false :=
  ⟨lineAtRest_of (by decide +kernel), by decide +kernel⟩
def atomOp : Op := op9 (.atomic atomf true [(laneAt (.mem 0x4000000), 1, 0)])
def pkgAtom : Op := op9 (.atomic { atomf with scope := 2 } true [(laneAt (.mem 0x4000000), 1, 0)])
theorem test_atomicAtRest_met : let s := running pkgAtom (at_ .nop)
    LineAtRest s 0x100000 ∧ opOf s 9 = some pkgAtom ∧ atomLineOf [(laneAt (.mem 0x4000000), 1, 0)] = some 0x100000 ∧
      scopeCORE < (2 : BitVec 3).toNat ∧ olderTouches s pkgAtom.owner 9 (.mem 0x4000000) 4 true = false ∧
      pendTouches s (opCore s pkgAtom) 0x4000000 4 = false ∧ holdsLine s (opCore s pkgAtom) 0x100000 = false :=
  ⟨lineAtRest_of (by decide +kernel), by decide +kernel⟩
theorem test_atomicHeld_met : let s := { running pkgAtom (at_ .nop) with l1 := [{ core := 0, line := 0x100000, kind := .own }] }
    opOf s 9 = some pkgAtom ∧ olderTouches s pkgAtom.owner 9 (.mem 0x4000000) 4 true = false ∧
      pendTouches s (opCore s pkgAtom) 0x4000000 4 = false ∧ holdsLine s (opCore s pkgAtom) 0x100000 = true := by decide +kernel
def atHome (h : HomeLine) : State := setHome base 0x100000 h
theorem test_horizon_met : ∀ st ∈ [0, 1], let s := atHome { HomeLine.rest with state := st, horizon := some (.at 0) }
    protoOf s 0x100000 = 1 ∧ horizonPassed s 0x100000 = true ∧ (homeOf s 0x100000).held = [] ∧ (homeOf s 0x100000).state = st := by
  decide +kernel
theorem test_eviction_met : protoOf base 0x100000 = 1 ∧ evictable base 0x100000 = true := by decide +kernel
theorem test_unpin_met : let s := { atHome { HomeLine.rest with state := 3 } with l1 := [{ core := 0, line := 0x100000, kind := .pin ⟨3, 0⟩ 0 [] [] }] }
    protoOf s 0x100000 = 1 ∧ pinned s 0x100000 = true ∧ (homeOf s 0x100000).state = 3 := by decide +kernel
theorem test_timeoutDue_met :
    let e : HomeEvent := { ev := evWR, core := some 0, op := 5, since := 0, req := none, due := 1 }
    let s := { atHome { HomeLine.rest with state := 2, held := [e] } with ns := 1 }
    protoOf s 0x100000 = 1 ∧ (homeOf s 0x100000).held = [e] ∧ e.due = s.ns := by decide +kernel
/-- The part with its boot done and its link up. -/
def booted : State := { base with part := { base.part with boot := 0, linkUp := true } }
def request (kind : AccessKind) (addr : DWord) : PeerRequest :=
  { src := 1, tenant := 0, kind, addr, size := 8, data := zeros 8, op := 0, ty := 0, hm := 0, tag := 0, poison := false,
    name := ⟨1, 0, 0⟩, seq := 0 }
def timed (ok : Bool) : State := { booted with part := { booted.part with syncOk := ok } }
theorem test_peerRequests_met : (∀ ok, LineAtRest (timed ok) 0x100000) ∧
    ∀ k ∈ [AccessKind.read, .write], fromHost (request k 0x4000000) = false ∧ lineOf (request k 0x4000000).addr.toNat = 0x100000 ∧
      (request k 0x4000000).size ≤ 64 - (request k 0x4000000).addr.toNat % 64 ∧
      ∀ ok, peerFault (timed ok) (request k 0x4000000) = none :=
  ⟨fun ok => lineAtRest_of (by cases ok <;> decide +kernel), by decide +kernel⟩
theorem test_peerLease_met : 100 < leaseOf booted 0x100000 := by decide +kernel
theorem test_peerRefused_met : peerFault booted (request .read 0x8000000000) = some (causeWINDOW, 0) := by decide +kernel
theorem test_hostReads_met : LineAtRest booted 0x100000 ∧ servesHost booted.part = true ∧ 64 * 0x100000 + 64 ≤ memSize :=
  ⟨lineAtRest_of (by decide +kernel), by decide +kernel⟩

/-! Links. -/

def port0 (up : Bool) : Port :=
  { up, draining := false, txSeq := 0, rxSeq := 0, unacked := [], out := [], retrains := 0, nak := none, stream := [] }
def withPort (p : Port) : State := { base with part := { base.part with ports := p :: base.part.ports.tail } }
theorem leNat_leBytes (n v : Nat) : leNat (leBytes n v) = v % 256 ^ n := by
  induction n generalizing v with
  | zero => simp [leBytes, leNat, Nat.mod_one]
  | succ n ih => 
    rw [leBytes, leNat, ih, BitVec.toNat_ofNat, show (256 : Nat) ^ (n + 1) = 256 * 256 ^ n by rw [Nat.pow_succ, Nat.mul_comm]]
    exact (Nat.mod_mul (x := v) (a := 256) (b := 256 ^ n)).symm
/-- Every flit that is formed is intact. -/
theorem formed_intact (seq ack type : Nat) (p : List Byte) : flitIntact (formFlit seq ack type p) = true := by
  have len (n v : Nat) : (leBytes n v).length = n := by
    induction n generalizing v with
    | zero => rfl
    | succ n ih => simp [leBytes, ih]
  simp only [flitIntact, formFlit, sliceNat]
  rw [List.take_left' (by simp [len, padTo_length]), List.drop_left' (by simp [len, padTo_length]),
    List.take_of_length_le (by simp [len]), leNat_leBytes]
  have := (crc64 (leBytes 8 (seq % 4096 * 2 ^ 52 + ack % 4096 * 2 ^ 40 + type * 2 ^ 36) ++ padTo 240 p)).isLt
  rw [Nat.mod_eq_of_lt (Nat.lt_of_lt_of_le this (by decide))]
  simp only [List.length_append, len, padTo_length, beq_self_eq_true, Bool.and_self]
/-- A flit in order, one out of order, and one that is no flit. -/
theorem test_flits_met : portAt (withPort (port0 true)) 0 = some (port0 true) ∧
    (∀ seq, flitIntact (formFlit seq 0 3 []) = true) ∧ flitIntact [] = false ∧
    flitSeq (leBytes 8 (2 ^ 52)) = ((port0 true).rxSeq + 1).toNat ∧ flitSeq (leBytes 8 (5 * 2 ^ 52)) ≠ ((port0 true).rxSeq + 1).toNat ∧
    ∀ n rest, flitSeq (leBytes 8 n ++ rest) = flitSeq (leBytes 8 n) :=
  ⟨by decide +kernel, fun seq => formed_intact seq 0 3 [], rfl, by decide +kernel, by decide +kernel, fun _ _ => rfl⟩
/-- A flit taken already; one that leaves a gap; a NAK; a port that takes none, and a part that serves its links or does not. -/
theorem test_flitKinds_met : let p := { port0 true with rxSeq := 4 }
    p.took 4 = true ∧ p.took 3 = true ∧ p.took 5 = false ∧ p.took 6 = false ∧ flitType (formFlit 0 4 2 []) = 2 ∧
      flitType (formFlit 6 4 3 []) ≠ 2 ∧ flitSeq (formFlit 6 4 3 []) ≠ (p.rxSeq + 1).toNat ∧ serving booted.part = true ∧
      serving { booted.part with trip := true } = false ∧ (port0 false).up = false := by decide +kernel
/-- After a NAK: a flit that follows those discarded, and one that goes back to them. -/
theorem test_nakAgain_met : let p := { port0 true with rxSeq := 3, nak := some (0, 5) }
    p.took 6 = false ∧ p.took 5 = false ∧ 6 ≠ (p.rxSeq + 1).toNat ∧ 5 ≠ (p.rxSeq + 1).toNat ∧
      ((6 : BitVec 12) - 5 - 1).toNat < 2047 ∧ ¬ ((5 : BitVec 12) - 5 - 1).toNat < 2047 ∧ (0 < 0 + 2000) := by decide +kernel
theorem test_nak_met : let p := { port0 true with unacked := [(zeros 256, 6)] }
    portAt (withPort p) 0 = some p ∧ p.up = true ∧ p.out = [] ∧ ∀ b ∈ p.unacked, b.2 < 7 := by decide +kernel
theorem test_reroute_met : let p := { port0 false with draining := true }
    let s := withPort p
    portAt s 0 = some p ∧ p.draining = true ∧ s.awaiting = [] ∧ s.waiting = [] := by decide +kernel
/-- A request that left on the port has no answer yet. -/
theorem test_rerouteWaits_met : let p := { port0 false with draining := true }
    let a : Awaited := { op := 9, target := .peer 1 64, since := 0, port := some 0 }
    let s := { withPort p with awaiting := [a] }
    portAt s 0 = some p ∧ s.awaiting = [a] ∧ a.port = some 0 := by decide +kernel
/-- A device found first; at fewer hops, as many, and more than before; and one that conflicts. -/
theorem test_discovery_met : 17 < 18 ∧ base.part.lock = false ∧ tget 0 base.part.hops (511 : BitVec 9).toNat = 0 ∧
    let p := { base.part with hops := [(5, 3), (6, conflictMark)] }
    (p.lock = false ∧ tget 0 p.hops 5 = 3 ∧ tget 0 p.hops 6 = conflictMark ∧ 3 ≠ conflictMark) ∧ 1 + 1 < 3 ∧ 2 + 1 = 3 ∧
      3 < 3 + 1 := by decide +kernel
theorem test_discoveryLocked_met : ({ base with part := { base.part with lock := true } } : State).part.lock = true := rfl
def bridged : BridgeLine := { line := 7, bytes := zeros 64, tag := 0, poison := false, dirty := true, horizon := 0, snooped := false }
theorem test_hostSnoop_met : servesHost base.part = false ∧ servesHost booted.part = true ∧ (∀ b ∈ booted.part.bridge, b.line ≠ 7) ∧
    let s := { booted with part := { booted.part with bridge := [bridged] } }
    servesHost s.part = true ∧ s.part.bridge = [bridged] ∧ bridged.line = 7 ∧ bridged.horizon ≤ s.ns := by decide +kernel
theorem test_linkRetrain_met : base.part.bridge = [] ∧ base.part.bridgeQ = [] := by decide +kernel

/-! The package. -/

/-- Windows above the cap, below 95 % of it, and between; with no cap. -/
theorem test_powerWindow_met : let p := { base.part with pcap := 1000 }
    let cap := min p.pcap.toNat 2700
    cap ≠ 0 ∧ cap < (1001 : BitVec 16).toNat ∧ ((949 : BitVec 16).toNat ≤ cap ∧ 100 * (949 : BitVec 16).toNat < 95 * cap) ∧
      ((950 : BitVec 16).toNat ≤ cap ∧ 95 * cap ≤ 100 * (950 : BitVec 16).toNat) ∧ min base.part.pcap.toNat 2700 = 0 := by decide +kernel
/-- Temperatures at each bound. -/
theorem test_thermal_met : 950 ≤ (950 : BitVec 16).toInt ∧ (920 : BitVec 16).toInt ≤ 920 ∧ 1050 ≤ (1050 : BitVec 16).toInt ∧
    ¬950 ≤ (949 : BitVec 16).toInt ∧ ¬(949 : BitVec 16).toInt ≤ 920 := by decide +kernel

theorem hashRounds_length (v : List Word) : ∀ (ks ws : List Word), (hashRounds ws v ks).length = v.length := by
  intro ks
  induction ks generalizing v with
  | nil => intro ws; rfl
  | cons k ks ih =>
    intro ws
    rw [hashRounds, ih]
    unfold hashRound
    split <;> rfl
theorem hashBlock_length (v : List Word) (b : List Byte) : (hashBlock v b).length = v.length := by
  simp [hashBlock, hashRounds_length]
theorem sha256_length (m : List Byte) : (sha256 m).length = 32 := by
  have fold : ∀ (bs : List (List Byte)) (v : List Word), (bs.foldl hashBlock v).length = v.length := by
    intro bs
    induction bs with
    | nil => intro v; rfl
    | cons b bs ih => intro v; rw [List.foldl_cons, ih, hashBlock_length]
  have s : startValue.length = 8 := by decide +kernel
  have four (w : Word) : (beBytes 4 w.toNat).length = 4 := by simp [beBytes, leBytes]
  simp only [sha256, List.length_flatMap, four, List.map_const', List.sum_replicate_nat, fold, s]
theorem lmPath_length (ident : List Byte) : ∀ (k n : Nat) (x path : List Byte), x.length = 32 → (lmPath ident k n x path).length = 32
  | 0, _, _, _, h => h
  | k + 1, n, x, path, _ => by rw [lmPath]; exact lmPath_length ident k _ _ _ (sha256_length _)

/-- A signature of zeros of leaf 0, with its types. -/
def sign0 : List Byte := zeros 4 ++ beBytes 4 4 ++ zeros 1120 ++ beBytes 4 8 ++ zeros 640
def key0 (root : List Byte) : List Byte := beBytes 4 8 ++ beBytes 4 4 ++ zeros 16 ++ root
/-- The key under which it holds for a message: that of the root which it gives. -/
theorem verifies (msg root : List Byte) (size : root.length = 32)
    (h : lmPath (zeros 16) 20 (2 ^ 20 + 0) (sha256 (zeros 16 ++ beBytes 4 (2 ^ 20 + 0) ++ [0x82, 0x82] ++
      lmOtsKey (zeros 16) 0 ((sign0.drop 4).take 1124) msg)) (sign0.drop 1132) = root) : lmsVerify (key0 root) msg sign0 = true := by
  have ident : ((key0 root).drop 8).take 16 = zeros 16 := rfl
  have top : ((key0 root).drop 24).take 32 = root := by
    rw [show (key0 root).drop 24 = root from rfl, List.take_of_length_le (by omega)]
  have q : beNat (sign0.take 4) = 0 := by decide +kernel
  have t0 : (key0 root).length = 56 := by simp [key0, beBytes, leBytes, zeros, size]
  have t1 : beNat ((key0 root).take 4) = 8 := by rw [show (key0 root).take 4 = beBytes 4 8 from rfl]; decide
  have t2 : beNat (((key0 root).drop 4).take 4) = 4 := by rw [show ((key0 root).drop 4).take 4 = beBytes 4 4 from rfl]; decide
  have t3 : sign0.length = 1772 := by decide +kernel
  have t4 : beNat (((sign0.drop 4).take 1124).take 4) = 4 := by decide +kernel
  have t5 : beNat ((sign0.drop 1128).take 4) = 8 := by decide +kernel
  simp only [lmsVerify, Bool.and_eq_true, beq_iff_eq, decide_eq_true_eq]
  refine ⟨⟨⟨⟨⟨⟨⟨t0, t1⟩, t2⟩, t3⟩, by rw [q]; decide⟩, t4⟩, t5⟩, ?_⟩
  rw [top, ident, q]
  exact h

def stage (key sig : List Byte) : BootStage := { body := [], version := 0, key, sig }
def flash (stages : List BootStage) : BootFlash :=
  { stages, memoryTrains := true, linkTrains := true, cxl := true, ports := 18, found := [], h5 := 1, h6 := 1 }
theorem test_bootFails_met : (flash [stage [] []]).stages.head? = some (stage [] []) ∧ stageOk base.part (stage [] []) = false :=
  ⟨rfl, by rw [stageOk, show lmsVerify (stage [] []).key (stage [] []).body (stage [] []).sig = false by simp [lmsVerify, stage], Bool.and_false]⟩
theorem test_boots_met : ∃ (s : State) (x : BootStage), (flash [x, x]).stages = x :: x :: [] ∧ stageOk s.part x = true ∧
    (flash [x, x]).memoryTrains = true ∧ (flash [x, x]).linkTrains = true := by
  obtain ⟨root, h⟩ : ∃ root, lmPath (zeros 16) 20 (2 ^ 20 + 0) (sha256 (zeros 16 ++ beBytes 4 (2 ^ 20 + 0) ++ [0x82, 0x82] ++
    lmOtsKey (zeros 16) 0 ((sign0.drop 4).take 1124) [])) (sign0.drop 1132) = root := ⟨_, rfl⟩
  have v := verifies [] root (by rw [← h]; exact lmPath_length _ _ _ _ _ (sha256_length _)) h
  refine ⟨{ base with part := { base.part with keyDigest := sha256 (key0 root) } }, stage (key0 root) sign0, rfl, ?_, rfl, rfl⟩
  simp only [stageOk, stage, v, beq_self_eq_true, Bool.true_and, Bool.and_true]
  exact decide_eq_true (show base.part.rollback ≤ 0 by decide +kernel)
theorem test_softErrors_met : let s := at_ .nop
    ((warpOf s 3).bind fun w => (nodeOf s w).map fun x => decide (0 < w.tiles.length ∧ w.mode = .running ∧ w.kernel = none ∧
      x.1.phase = .placed ∧ gangOf s x.1.uid = some x.1 ∧ (x.1.teams.map fun tm => decide (64 * 0 < tm.a.limit)) = [true])) = some true := by
  decide +kernel
theorem test_managed_met : base.part.lost = false := by decide +kernel

/-! ## Worked examples of the spec -/

/-- 06 R193: 70,000 to FP16 overflows; under .rz it gives 65,504; 16,777,217 to FP32 is inexact. -/
theorem test_cvtf : fp16.result .rn 0 false (.ofInt 70000) = (0x7C00, flagOF ||| flagNX) ∧
    fp16.result .rz 0 false (.ofInt 70000) = (0x7BFF, flagOF ||| flagNX) ∧
    fp32.result .rn 0 false (.ofInt 16777217) = (0x4B800000, flagNX) := by decide +kernel
/-- 06 R192: 300.7 to i8 under .rz saturates with NV; -0.9 gives 0 with NX. -/
theorem test_cvti : (fp32.unpack 0x4396599A).toInt .rz 0 (-128) 127 = (127, flagNV) ∧
    (fp32.unpack 0xBF666666).toInt .rz 0 (-128) 127 = (0, flagNX) := by decide +kernel
/-- 06 R199: 500.0 to E4M3 gives 0x7E with OF and NX; 0.0013 under .rn gives 0x01 with UF and NX. -/
theorem test_cvtn : cvtnCode 0 .rn 0 (fp32.unpack 0x43FA0000) = (0x7E, flagOF ||| flagNX) ∧
    cvtnCode 0 .rn 0 (fp32.unpack 0x3AAA64C3) = (0x01, flagUF ||| flagNX) := by decide +kernel
/-- 06 R203: 2^24, 1, 1, -2^24 folds to +0 with NX. -/
theorem test_fold : foldValues 8 false [0x4B800000, 0x3F800000, 0x3F800000, 0xCB800000] = (0, flagNX) := by decide +kernel
/-- 03 R115: the group 16,777,216 + 1 - 16,777,216 + 1 is exact: 2. -/
theorem test_group : mmaGroup 0 ([0x4B800000, 0x3F800000, 0xCB800000, 0x3F800000].map fp32.unpack)
    (List.replicate 4 (fp32.unpack 0x3F800000)) 0 = 0x40000000 := by decide +kernel
/-- 03 R118: two lanes that each add 1 to a BF16 half of 256 make 258. -/
theorem test_merge : (atomLanes 9 5 1 0x4380 [(0x3F80, 0), (0x3F80, 0)]).1 = 0x4381 := by decide +kernel
/-- 03 R107, R108: a block tagged 0x2061 has scale 2, and its byte 0x9A holds -2 and -1; one tagged 0x1185 has scale 64. -/
theorem test_blocks : Tag.scaleExp 0x2061 = 1 ∧ Tag.scaleExp 0x1185 = 6 ∧ elemsOf 11 [0x9A] = [0xA, 0x9] ∧
    ([0xA, 0x9].map fun b => rn32 (.ofVal ((elemVal 11 b).scaleBy 1))) = [0xC0000000, 0xBF800000] ∧
    rn32 (.ofVal ((elemVal 9 0x38).scaleBy 6)) = 0x42800000 := by
  decide +kernel
/-- 10 R278: the tables' indices for the address 0x0001_2345_6789_ABCD. -/
theorem test_walkIndices : (levels.map fun x => 0x000123456789ABCD / 2 ^ x.1 % 2 ^ x.2) = [36, 209, 179, 393] := by decide +kernel
/-- The check value of CRC-32C for "123456789". -/
theorem test_crc : crc32c ((List.range 9).map fun i => BitVec.ofNat 8 (0x31 + i)) = 0xE3069283 := by decide +kernel

/-! ## The front end's base instructions -/

/-- ADDI a0, a0, -1 as it stands in RV64I, and the compressed form of the same. -/
theorem test_rvAddi : rvOp 0xFFF50513 = 0x13 ∧ feImm 0xFFF50513 5 = some 4 ∧ expandC 0x157D = some 0xFFF50513 := by decide +kernel
/-- MULH, and a division by zero. -/
theorem test_rvMul : rvMul 1 0xFFFFFFFFFFFFFFFF 2 = 0xFFFFFFFFFFFFFFFF ∧ rvMul 4 7 0 = 0xFFFFFFFFFFFFFFFF := by decide +kernel
end Sys2Proof.Tests
end

section
/-! Placement, resumption, displacement, compaction, ageing and group start (01 R33, R34; 05 R157; 13 R356, R357; 14 R381). -/

namespace Sys2Proof.Proofs
open Sys2Proof Sys2Proof.Machine

/-! ## Lists -/

theorem nodup_eraseDups {α : Type} [BEq α] [LawfulBEq α] (xs : List α) : xs.eraseDups.Nodup := by
  induction hn : xs.length using Nat.strongRecOn generalizing xs with
  | ind n ih =>
    cases xs with
    | nil => simp
    | cons x xs =>
      have hlt : (xs.filter fun b => !b == x).length < n := by
        have := List.length_filter_le (fun b => !b == x) xs
        simp only [List.length_cons] at hn
        omega
      rw [List.eraseDups_cons, List.nodup_cons]
      exact ⟨by simp, ih _ hlt _ rfl⟩

/-! ## The search for a gang and a yard (01 R34) -/

theorem exec_placement (die choice : Nat) (s : State) :
    exec (.placement die choice) s = .next ((placeOne s die choice).getD s) := rfl

/-- A search of gangs and yards ends at the first gang and yard that take. -/
theorem placeOne_eq_of_first {s t : State} {die choice y : Nat} {before after : List Gang} {g : Gang} {ys zs : List Nat}
    (hw : waitingGangs s die = before ++ g :: after) (hy : tried die choice g = ys ++ y :: zs)
    (hb : ∀ p ∈ before, ∀ z ∈ tried die choice p, tryPlace s p z = none) (hz : ∀ z ∈ ys, tryPlace s g z = none)
    (ht : tryPlace s g y = some t) : placeOne s die choice = some t :=
  List.findSome?_eq_some_iff.mpr ⟨before, g, after, hw,
    List.findSome?_eq_some_iff.mpr ⟨ys, y, zs, hy, ht, hz⟩, fun p hp => List.findSome?_eq_none_iff.mpr (hb p hp)⟩

/-! ## Events of one waiting gang (01 R33, R34; 05 R157) -/

/-- The gangs that a compaction moves, one for each core that contiguity alone blocks, each once. -/
def compacted (s : State) (g : Gang) (n : NodeEntry) : List Nat :=
  (((((blockedYards s g n).flatMap yardCores).filter (blockedCore s n)).filterMap (moveVictim s g.uid)).map (·.uid)).eraseDups

theorem mem_compacted {s : State} {g : Gang} {n : NodeEntry} {u : Nat} : u ∈ compacted s g n ↔
    ∃ y core v, y ∈ blockedYards s g n ∧ core ∈ yardCores y ∧ blockedCore s n core = true ∧
      moveVictim s g.uid core = some v ∧ v.uid = u := by
  simp only [compacted, List.mem_eraseDups, List.mem_map, List.mem_filterMap, List.mem_filter, List.mem_flatMap]
  constructor
  · rintro ⟨v, ⟨core, ⟨⟨y, hy, hc⟩, hb⟩, hv⟩, hu⟩
    exact ⟨y, core, v, hy, hc, hb, hv, hu⟩
  · rintro ⟨y, core, v, hy, hc, hb, hv, hu⟩
    exact ⟨v, ⟨core, ⟨⟨y, hy, hc⟩, hb⟩, hv⟩, hu⟩

section WaitingGang
variable {s : State} {g : Gang} {l : Launch} {n : NodeEntry} {yard c ns eprio : Nat} {saved : Bool}

theorem tryPlace_saved {fits : List CoreFit} (hl : launchOf s g.launch = some l) (hn : l.nodes[g.node]? = some n)
    (hp : g.phase = .queued c ns true eprio) (hf : fitYard s n yard = some fits)
    (hr : takesRoom s (resumeGang s l g n fits) g yard = false) :
    tryPlace s g yard = some (resumeGang s l g n fits) := by
  have ht : tryYard s g yard = some (resumeGang s l g n fits) := by simp [tryYard, hl, hn, hf, hp]
  simp [tryPlace, ht, hr]

theorem exec_gangResume_saved (hg : gangOf s g.uid = some g) (hp : g.phase = .queued c ns true eprio) :
    exec (.gangResume g.uid yard) s = .next ((tryPlace s g yard).getD s) := by
  change execGangResume g.uid yard s = _
  simp [execGangResume, hg, hp]

theorem exec_placementDisplace_least (hg : gangOf s g.uid = some g) (hl : launchOf s g.launch = some l)
    (hn : l.nodes[g.node]? = some n) (hp : g.phase = .queued c ns saved eprio) (hns : ns + displaceNs ≤ s.ns)
    (hpool : poolsHold s g = true) (hc : stillClearing s g eprio = false)
    (hy : leastYard s n eprio yard (yardsFor g) = true) :
    exec (.placementDisplace g.uid yard) s = .next ((displaceable s eprio yard).foldl
      (fun s d => requestPreempt s d.uid false) (updGang s g.uid fun g => { g with clearing := some yard })) := by
  change execPlacementDisplace g.uid yard s = _
  simp [execPlacementDisplace, hg, hl, hn, hp, hns, hpool, hc, hy]

theorem exec_registerCompaction_due (hg : gangOf s g.uid = some g) (hl : launchOf s g.launch = some l)
    (hn : l.nodes[g.node]? = some n) (hp : g.phase = .queued c ns saved eprio) (hy : yard ∈ blockedYards s g n)
    (hd : g.compactSince + poolCycles ≤ s.cycles) :
    exec (.registerCompaction g.uid yard) s = .next ((compacted s g n).foldl (fun s v => moveFor s g.uid v)
      (updGang s g.uid fun g => { g with compactSince := s.cycles })) := by
  have hdue : ¬ s.cycles < g.compactSince + poolCycles := Nat.not_lt.mpr hd
  change execRegisterCompaction g.uid yard s = _
  simp [execRegisterCompaction, compacted, hg, hl, hn, hp, hy, hdue]

end WaitingGang

/-! ## Ageing (01 R34; 14 R381) -/

theorem ageGang_eq_aged (s : State) (g : Gang) : ageGang s g = aged s g (ageingPeriod s g.die) := by
  cases hp : g.phase with
  | queued c ns saved eprio =>
    cases hl : launchOf s g.launch with
    | none => simp only [ageGang, aged, hp, hl]
    | some l => simp only [ageGang, aged, hp, hl, agedPriority, capPriority, Nat.min_comm 15]
  | _ => simp only [ageGang, aged, hp]

theorem exec_placementAgeing (die : Nat) (s : State) : exec (.placementAgeing die) s =
    .next { s with gangs := s.gangs.map fun g => if g.die = die then ageGang s g else g } := rfl

theorem agedQueue_eq_min (s : State) (x : Queue) :
    agedQueue s x = min 15 (x.base + (s.ns - x.ptime) / ageingPeriod s x.die) := Nat.min_comm ..

/-! ## Group start (13 R356, R357) -/

theorem changeCounter_frame (s : State) (launch : Nat) (f : Nat → Nat) :
    (changeCounter s launch f).gangs = s.gangs ∧ (changeCounter s launch f).warps = s.warps := by
  unfold changeCounter
  split
  · exact ⟨rfl, rfl⟩
  · dsimp only
    split <;> exact ⟨rfl, rfl⟩

theorem groupIndex_not_seed {l : Launch} {node : Nat} (h : node ≠ l.seedNode) (n : NodeEntry) (t : Trough)
    (rs : List RecordRef) : (groupIndex l n node t rs).1 = t.groups := by
  unfold groupIndex
  split <;> simp [h]

/-- A group's start adds one gang at the end, and changes no warp and no other gang. -/
theorem startGroup_gangs {s : State} {die node : Nat} {l : Launch} {n : NodeEntry} {tr : Trough}
    (hl : launchOf s l.uid = some l) (hn : l.nodes[node]? = some n) (ht : l.troughs[node]? = some tr)
    (hr : (dieQueue l node die).take n.target ≠ []) :
    ∃ g : Gang, (startGroup s die l.uid node).gangs = s.gangs ++ [g] ∧ (startGroup s die l.uid node).warps = s.warps ∧
      g.uid = s.nextId ∧ g.records = (dieQueue l node die).take n.target ∧ g.launch = l.uid ∧ g.node = node ∧ g.die = die ∧
      g.phase = .queued s.cycles s.ns false l.priority ∧
      g.index = BitVec.ofNat 32 (groupIndex l n node tr ((dieQueue l node die).take n.target)).1 := by
  have he : ((dieQueue l node die).take n.target).isEmpty = false := by simpa using hr
  simp only [startGroup, hl, hn, ht, he, Bool.false_eq_true, if_false]
  exact ⟨_, (changeCounter_frame ..).1.trans (crumb_frame ..).2.1, (changeCounter_frame ..).2.trans (crumb_frame ..).1,
    rfl, rfl, rfl, rfl, rfl, rfl, rfl⟩

theorem startGroup_started {s : State} {die node : Nat} {l : Launch} {n : NodeEntry} {tr : Trough}
    (hl : launchOf s l.uid = some l) (hn : l.nodes[node]? = some n) (ht : l.troughs[node]? = some tr)
    (hr : (dieQueue l node die).take n.target ≠ []) (hid : ∀ g ∈ s.gangs, g.uid ≠ s.nextId) :
    GroupStarted s (startGroup s die l.uid node) die node l tr ((dieQueue l node die).take n.target) := by
  obtain ⟨g, hgs, hws, huid, hrec, hla, hno, hdie, hph, hix⟩ := startGroup_gangs hl hn ht hr
  refine ⟨⟨g, ?_, hrec, hla, hno, hdie, hph, fun h => by rw [hix, groupIndex_not_seed h]⟩, fun u hu => ?_, hws⟩
  · have hnone : s.gangs.find? (·.uid == s.nextId) = none := List.find?_eq_none.mpr (by simpa using hid)
    simp [gangOf, hgs, hnone, huid]
  · have hne : (g.uid == u) = false := by rw [huid]; simpa using hu.symm
    simp [gangOf, hgs, hne]

theorem exec_groupStart_full {s : State} {die node : Nat} {l : Launch} {n : NodeEntry} (hl : launchOf s l.uid = some l)
    (hn : l.nodes[node]? = some n) (h : n.target ≤ (dieQueue l node die).length) :
    exec (.groupStart die l.uid node) s = .next (startGroup s die l.uid node) := by
  change execGroupStart die l.uid node s = _
  simp [execGroupStart, hl, hn, h]

theorem exec_nodeTimer_due {s : State} {die node : Nat} {l : Launch} {n : NodeEntry} {r : RecordRef}
    (hl : launchOf s l.uid = some l) (hn : l.nodes[node]? = some n) (hr : (dieQueue l node die).head? = some r)
    (h : r.since + n.timer ≤ s.cycles) :
    exec (.nodeTimer die l.uid node) s = .next (startGroup s die l.uid node) := by
  change execNodeTimer die l.uid node s = _
  simp [execNodeTimer, hl, hn, hr, h]

/-! ## The obligation -/

/-- Settles O51, event by event: the search for a gang and a yard ends at the first that take; each other event is its equation above,
and a group's start is what startGroup leaves of gangs and warps. -/
theorem placementAndGroups : Obligations.PlacementAndGroups := by
  refine ⟨?placement, ?gang, ?gangAgeing, ?queueAgeing, ?groups⟩
  case placement =>
    intro s t die choice y before after g ys zs hw hy hb hz ht
    rw [exec_placement, placeOne_eq_of_first hw hy hb hz ht, Option.getD_some]
  case gang =>
    intro s g l n yard c ns eprio saved hg hl hn hp
    refine ⟨?_, ?_, ?_⟩
    · rintro fits rfl hf hr
      rw [exec_gangResume_saved hg hp, tryPlace_saved hl hn hp hf hr, Option.getD_some]
    · intro hns hpool hc hy
      exact exec_placementDisplace_least hg hl hn hp hns hpool hc hy
    · intro hy hd
      exact ⟨compacted s g n, exec_registerCompaction_due hg hl hn hp hy hd, nodup_eraseDups _, fun u => mem_compacted⟩
  case gangAgeing =>
    intro s die age
    have hage : (fun g => if g.die = die then ageGang s g else g) = age := by
      funext g
      by_cases h : g.die = die
      · simp only [age, if_pos h, ageGang_eq_aged, h, if_true, ageingPeriod]
      · simp only [age, if_neg h]
    rw [exec_placementAgeing, hage]
  case queueAgeing =>
    intro s die age u
    have hage : age = fun s y => if agedQueue s y.2 = y.2.eprio then s
        else mirrorQueue (setQueue s y.1 { y.2 with eprio := agedQueue s y.2 }) y.1 y.2.num := by
      funext s y
      simp only [age, agedQueue_eq_min, ageingPeriod]
    change execQueueAgeing die s = _
    simp only [u, hage]
    rfl
  case groups =>
    intro s die node l n tr r hl hn ht hr htar hid rs
    have hne : rs ≠ [] := by
      intro h
      rcases List.take_eq_nil_iff.mp h with h0 | h0
      · omega
      · simp [h0] at hr
    have hstart := startGroup_started hl hn ht hne hid
    exact ⟨fun h => ⟨_, exec_groupStart_full hl hn h, hstart⟩, fun h => ⟨_, exec_nodeTimer_due hl hn hr h, hstart⟩⟩

end Sys2Proof.Proofs
end

section
/-! The decoder reads every strand instruction back from the parcels that the encoder writes (02 R41 to R67). -/

namespace Sys2Proof

/-! ## Bits of values put together

In the proofs below simp leaves widths as sums (`-Nat.reduceAdd`): the type of a value put together of several is the sum
of their widths, and the lemmas on such values no longer apply once it is added up. -/

/-- Bits that lie within one of two values put together. -/
theorem extractLsb'_append {n m : Nat} (x : BitVec n) (y : BitVec m) {i len : Nat} (h : i + len ≤ m ∨ m ≤ i) :
    (x ++ y).extractLsb' i len = if m ≤ i then x.extractLsb' (i - m) len else y.extractLsb' i len := by
  split
  case isTrue hi => exact BitVec.extractLsb'_append_eq_of_le hi
  case isFalse hi => exact BitVec.extractLsb'_append_eq_of_add_le (h.resolve_right hi)

theorem extractLsb'_extractLsb' {n m : Nat} (x : BitVec n) {i j len : Nat} (h : i + len ≤ m) :
    (x.extractLsb' j m).extractLsb' i len = x.extractLsb' (j + i) len := by
  ext k hk
  simp [Nat.add_assoc, show i + k < m by omega]

theorem bitAt_append {n m : Nat} (x : BitVec n) (y : BitVec m) (i : Nat) :
    bitAt (x ++ y) i = if i < m then bitAt y i else bitAt x (i - m) := BitVec.getLsbD_append

theorem bitAt_extractLsb' {n : Nat} (x : BitVec n) {i j len : Nat} (h : i < len) :
    bitAt (x.extractLsb' j len) i = bitAt x (j + i) := by
  simp [bitAt, h]

@[simp] theorem bitAt_ofBool (b : Bool) : bitAt (BitVec.ofBool b) 0 = b := by simp [bitAt]
@[simp] theorem bitAt_zero (n i : Nat) : bitAt (0#n) i = false := by simp [bitAt]

/-! ## Lengths and halves (02 R41, R42, R53) -/

/-- The two parcels of a word put together again. -/
theorem append_wordParcels (w : Word) : w.extractLsb' 16 16 ++ w.extractLsb' 0 16 = w :=
  (BitVec.extractLsb'_append_extractLsb'_eq_extractLsb' rfl).trans BitVec.extractLsb'_eq_self

/-- The last two parcels of a 64-bit value put under its upper word again. -/
theorem append_dwordParcels (v : DWord) : v.extractLsb' 32 32 ++ v.extractLsb' 16 16 ++ v.extractLsb' 0 16 = v := by
  rw [BitVec.extractLsb'_append_extractLsb'_eq_extractLsb' (x := v) (start₂ := 32) rfl]
  exact (BitVec.extractLsb'_append_extractLsb'_eq_extractLsb' rfl).trans BitVec.extractLsb'_eq_self

/-- A word that says 32 bits, with the live-mask word that its S bit announces. -/
theorem decode_word (sp : Safe) (w : Word) (htop : w.extractLsb' 30 2 = 3) (hlong : bitAt w 29 = false)
    (hsafe : bitAt w 28 = sp.isSome) : decode (wordParcels w ++ maskParcels sp) = decode32 sp w := by
  have h14 : (w.extractLsb' 16 16).extractLsb' 14 2 = 3 := (extractLsb'_extractLsb' w (by decide)).trans htop
  cases sp <;> simp [decode, wordParcels, maskParcels, h14, bitAt_extractLsb', hlong, hsafe, append_wordParcels]

/-- A 64-bit value that says so, with the live-mask word that its S bit announces. -/
theorem decode_dword (sp : Safe) (v : DWord) (htop : v.extractLsb' 62 2 = 3) (hlong : bitAt v 61 = true)
    (hsafe : bitAt v 60 = sp.isSome) :
    decode (wordParcels (v.extractLsb' 32 32) ++ wordParcels (v.extractLsb' 0 32) ++ maskParcels sp) = decodeX sp v := by
  have h14 : ((v.extractLsb' 32 32).extractLsb' 16 16).extractLsb' 14 2 = 3 :=
    (extractLsb'_extractLsb' _ (by decide)).trans ((extractLsb'_extractLsb' v (by decide)).trans htop)
  cases sp <;>
    simp [decode, wordParcels, maskParcels, h14, bitAt_extractLsb', hlong, hsafe, append_wordParcels, append_dwordParcels]

/-! ## A format's parcels decode to what its map gives (02 R47, R48, R51, R68) -/

theorem decodeFinish_wellFormed (priv : Bool) {i : Instr} (hi : i.wellFormed = true) :
    decodeFinish priv (some (i, true)) = .ok i := by
  simp [decodeFinish, decodeAccepts, hi]

theorem decode_encode16 {op : BitVec 6} {b : BitVec 10} {i : Instr} (hop : op.extractLsb' 4 2 ≠ 3)
    (hc : candidate16 op.toNat b = some (i, true)) (hi : i.wellFormed = true) : decode (encode16 op b) = .ok i := by
  have htop : (op ++ b).extractLsb' 14 2 ≠ 3 := by
    rwa [extractLsb'_append _ _ (by decide)]
  have hdec : decode16 (op ++ b) = .ok i := by
    rw [decode16, BitVec.extractLsb'_append_eq_left, BitVec.extractLsb'_append_eq_right, hc, decodeFinish_wellFormed _ hi]
  simp only [decode, encode16, bne_iff_ne.mpr htop, if_true, hdec]

theorem decode_encode32 {sp : Safe} {op : BitVec 8} {b : BitVec 20} {i : Instr}
    (hc : candidate32 sp op.toNat b = some (i, true)) (hi : i.wellFormed = true) : decode (encode32 sp op b) = .ok i := by
  have hop : (0b110#3 ++ BitVec.ofBool sp.isSome ++ op ++ b).extractLsb' 20 8 = op := by
    simp (disch := decide) [-Nat.reduceAdd, extractLsb'_append]
  rw [encode32, decode_word, decode32, hop, BitVec.extractLsb'_append_eq_right, hc, decodeFinish_wellFormed _ hi]
  case htop => simp (disch := decide) [-Nat.reduceAdd, extractLsb'_append]
  case hlong =>
    simp [-Nat.reduceAdd, bitAt_append]
    rfl
  case hsafe => simp [-Nat.reduceAdd, bitAt_append]

theorem decode_encodeX {sp : Safe} {op : BitVec 8} {b : BitVec 52} {i : Instr}
    (hc : candidateX sp op.toNat b = some (i, true)) (hi : i.wellFormed = true) : decode (encodeX sp op b) = .ok i := by
  have hop : (0b111#3 ++ BitVec.ofBool sp.isSome ++ op ++ b).extractLsb' 52 8 = op := by
    simp (disch := decide) [-Nat.reduceAdd, extractLsb'_append]
  rw [encodeX, decode_dword, decodeX, hop, BitVec.extractLsb'_append_eq_right, hc, decodeFinish_wellFormed _ hi]
  case htop => simp (disch := decide) [-Nat.reduceAdd, extractLsb'_append]
  case hlong =>
    simp [-Nat.reduceAdd, bitAt_append]
    rfl
  case hsafe => simp [-Nat.reduceAdd, bitAt_append]

/-- A map's entry whose fields are those of an instruction, and whose reserved bits are zero, is that instruction. -/
theorem candidate_of_fields {α : Type} {K : α → Instr} {f f' : α} {zeros : Bool} {c : Option (Instr × Bool)}
    (hc : c = some (K f', zeros)) (hf : f' = f) (hz : zeros = true) : c = some (K f, true) := by
  rw [hc, hf, hz]

/-! ## Fields read back from their layout

One lemma for each layout of 02 R47, R49, 05 R173, 07 R225, 08 R242, R246, 09 R254, 10 R294, 11 R300, R311, R313, R320,
13 R368, R369, R372, 15 R418 and 16 R431. -/

theorem S16.ofBits_bits (f : S16) : S16.ofBits f.bits = f := by
  simp (disch := decide) [-Nat.reduceAdd, S16.ofBits, S16.bits, extractLsb'_append]
theorem Guard.ofBits_bits (g : Guard) : Guard.ofBits g.bits = g := by
  simp (disch := decide) [-Nat.reduceAdd, Guard.ofBits, Guard.bits, extractLsb'_append, bitAt_append]
theorem LR.ofBits_bits (f : LR) : LR.ofBits f.sp f.bits = f := by
  simp (disch := decide) [-Nat.reduceAdd, LR.ofBits, LR.bits, extractLsb'_append, bitAt_append, Guard.ofBits_bits]
theorem LS.ofBits_bits (f : LS) : LS.ofBits f.sp f.bits = f := by
  simp (disch := decide) [-Nat.reduceAdd, LS.ofBits, LS.bits, extractLsb'_append, bitAt_append]
theorem LI.ofBits_bits (f : LI) : LI.ofBits f.sp f.bits = f := by
  simp (disch := decide) [-Nat.reduceAdd, LI.ofBits, LI.bits, extractLsb'_append]
theorem LM.ofBits_bits (f : LM) : LM.ofBits f.sp f.bits = f := by
  simp (disch := decide) [-Nat.reduceAdd, LM.ofBits, LM.bits, extractLsb'_append]
theorem LB.ofBits_bits (f : LB) : LB.ofBits f.sp f.bits = f := by
  simp (disch := decide) [-Nat.reduceAdd, LB.ofBits, LB.bits, extractLsb'_append, Guard.ofBits_bits]
theorem MmaF.ofBits_bits (f : MmaF) : MmaF.ofBits f.sp f.bits = f := by
  simp (disch := decide) [-Nat.reduceAdd, MmaF.ofBits, MmaF.bits, extractLsb'_append]
theorem TileF.ofBits_bits (f : TileF) : TileF.ofBits f.sp f.bits = f := by
  simp (disch := decide) [-Nat.reduceAdd, TileF.ofBits, TileF.bits, extractLsb'_append]
theorem CopyF.ofBits_bits (f : CopyF) : CopyF.ofBits f.sp f.bits = f := by
  simp (disch := decide) [-Nat.reduceAdd, CopyF.ofBits, CopyF.bits, extractLsb'_append, bitAt_append]
theorem AtomF.ofBits_bits (f : AtomF) : AtomF.ofBits f.sp f.bits = f := by
  simp (disch := decide) [-Nat.reduceAdd, AtomF.ofBits, AtomF.bits, extractLsb'_append]
theorem SyncF.ofBits_bits (f : SyncF) : SyncF.ofBits f.sp f.bits = f := by
  simp (disch := decide) [-Nat.reduceAdd, SyncF.ofBits, SyncF.bits, extractLsb'_append, bitAt_append]
theorem FlushF.ofBits_bits (f : FlushF) : FlushF.ofBits f.sp f.bits = f := by
  simp (disch := decide) [-Nat.reduceAdd, FlushF.ofBits, FlushF.bits, extractLsb'_append]
theorem ScopedF.ofBits_bits (f : ScopedF) : ScopedF.ofBits f.sp f.bits = f := by
  simp (disch := decide) [-Nat.reduceAdd, ScopedF.ofBits, ScopedF.bits, extractLsb'_append]
theorem RvF.ofBits_bits (f : RvF) : RvF.ofBits f.sp f.bits = f := by
  simp (disch := decide) [-Nat.reduceAdd, RvF.ofBits, RvF.bits, extractLsb'_append, bitAt_append]
theorem SpillF.ofBits_bits (f : SpillF) : SpillF.ofBits f.sp f.bits = f := by
  simp (disch := decide) [-Nat.reduceAdd, SpillF.ofBits, SpillF.bits, extractLsb'_append]
theorem RackInitF.ofBits_bits (f : RackInitF) : RackInitF.ofBits f.sp f.bits = f := by
  simp (disch := decide) [-Nat.reduceAdd, RackInitF.ofBits, RackInitF.bits, extractLsb'_append]
theorem RackF.ofBits_bits (f : RackF) (skip : Bool) : RackF.ofBits f.sp (f.bits skip) = f := by
  simp (disch := decide) [-Nat.reduceAdd, RackF.ofBits, RackF.bits, extractLsb'_append]
theorem EmitaF.ofBits_bits (f : EmitaF) : EmitaF.ofBits f.sp f.bits = f := by
  simp (disch := decide) [-Nat.reduceAdd, EmitaF.ofBits, EmitaF.bits, extractLsb'_append, bitAt_append]
theorem EmitcF.ofBits_bits (f : EmitcF) : EmitcF.ofBits f.sp f.bits = f := by
  simp (disch := decide) [-Nat.reduceAdd, EmitcF.ofBits, EmitcF.bits, extractLsb'_append, bitAt_append]
theorem EvsetF.ofBits_bits (f : EvsetF) : EvsetF.ofBits f.sp f.bits = f := by
  simp (disch := decide) [-Nat.reduceAdd, EvsetF.ofBits, EvsetF.bits, extractLsb'_append, bitAt_append]
theorem TraceF.ofBits_bits (f : TraceF) : TraceF.ofBits f.sp f.bits = f := by
  simp (disch := decide) [-Nat.reduceAdd, TraceF.ofBits, TraceF.bits, extractLsb'_append, bitAt_append]
theorem CsrwF.ofBits_bits (f : CsrwF) : CsrwF.ofBits f.sp f.bits = f := by
  simp (disch := decide) [-Nat.reduceAdd, CsrwF.ofBits, CsrwF.bits, extractLsb'_append, bitAt_append]

/-! ## Bits that no field holds (02 R46, R49) -/

theorem low_unused {n m : Nat} (x : BitVec n) : ((x ++ 0#m).extractLsb' 0 m == 0) = true :=
  beq_iff_eq.mpr BitVec.extractLsb'_append_eq_right
theorem high_unused {n m : Nat} (x : BitVec m) : ((0#n ++ x).extractLsb' m n == 0) = true :=
  beq_iff_eq.mpr BitVec.extractLsb'_append_eq_left
theorem EmitcF.bits_unused (f : EmitcF) : (f.bits.extractLsb' 46 6 == 0 && f.bits.extractLsb' 0 43 == 0) = true := by
  simp (disch := decide) [-Nat.reduceAdd, EmitcF.bits, extractLsb'_append]
theorem scope_bits_unused (scope : BitVec 3) : ((scope ++ 0#49).extractLsb' 0 48 == 0) = true := by
  simp (disch := decide) [-Nat.reduceAdd, extractLsb'_append]
/-- The rack instructions other than RKREL have no skip bit: what stands in its place is one more 0. -/
theorem RackF.bits_false (f : RackF) : f.bits false = f.rack ++ f.d ++ f.a ++ 0#43 := BitVec.append_assoc

/-! ## Bits that tell the instructions of one opcode apart -/

theorem fieldsOk_of_wellFormed {i : Instr} (hi : i.wellFormed = true) : i.fieldsOk = true :=
  (Bool.and_eq_true_iff.mp hi).1

/-- SRD and its write form: all of m (02 R60). -/
theorem LR.bits_m (f : LR) : f.bits.extractLsb' 0 4 = f.m := BitVec.extractLsb'_append_eq_right
/-- The votes: the two low bits of m (02 R66). -/
theorem LR.bits_vote (f : LR) : f.bits.extractLsb' 0 2 = f.m.extractLsb' 0 2 :=
  BitVec.extractLsb'_append_eq_of_add_le (by decide)
/-- ACQ and REL: w, 1 in the word forms (11 R300). -/
theorem SyncF.bits_word (f : SyncF) : bitAt f.bits 48 = true := by
  simp [-Nat.reduceAdd, SyncF.bits, bitAt_append]
  rfl
theorem scope_bits_word (scope : BitVec 3) : bitAt (scope ++ 0#49) 48 ≠ true := by
  simp [-Nat.reduceAdd, bitAt_append]
/-- RKREL: skip (07 R225). -/
theorem RackF.bits_skip (f : RackF) (skip : Bool) : bitAt (f.bits skip) 42 = skip := by
  simp [-Nat.reduceAdd, RackF.bits, bitAt_append]
/-- TRYWAIT: the kind, over the object and the hint (02 R65). -/
theorem trywait_kind (k : BitVec 4) (j : BitVec 6) (t : BitVec 10) : (k ++ j ++ t).extractLsb' 16 4 = k := by
  simp (disch := decide) [-Nat.reduceAdd, extractLsb'_append]
theorem trywait_object (k : BitVec 4) (j : BitVec 6) (t : BitVec 10) : (k ++ j ++ t).extractLsb' 10 6 = j := by
  simp (disch := decide) [-Nat.reduceAdd, extractLsb'_append]
theorem trywait_hint (k : BitVec 4) (j : BitVec 6) (t : BitVec 10) : (k ++ j ++ t).extractLsb' 0 10 = t :=
  BitVec.extractLsb'_append_eq_right

theorem candidate32_trywaitCtr (sp : Safe) (j : BitVec 6) (c : BitVec 2) (t : BitVec 8) :
    candidate32 sp 0xC6 (3#4 ++ j ++ c ++ t) = some (.trywaitCtr sp j c t, true) := by
  have hk : (3#4 ++ j ++ c ++ t).extractLsb' 16 4 = 3#4 := by
    simp (disch := decide) [-Nat.reduceAdd, extractLsb'_append]
  unfold candidate32
  rw [hk]
  refine candidate_of_fields (K := id) rfl ?_ rfl
  simp (disch := decide) [-Nat.reduceAdd, extractLsb'_append]

/-- WAITC's four counts (02 R65). -/
theorem candidate32_waitc (sp : Safe) (ld st : BitVec 6) (cp : BitVec 4) (mx : BitVec 3) :
    candidate32 sp 0xC5 (ld ++ st ++ cp ++ mx ++ 0#1) = some (.waitc sp ld st cp mx, true) := by
  refine candidate_of_fields (K := id) rfl ?_ ?_
  · simp (disch := decide) [-Nat.reduceAdd, extractLsb'_append]
  · simp [-Nat.reduceAdd, bitAt_append]

/-! ## The obligation -/

/-- Settles O1, format by format: the map has an instruction's constructor at the opcode that the encoder writes, and the
fields are read back from their layout. Where an opcode stands for several instructions, further bits tell them apart. -/
theorem decodeOfEncode : Obligations.DecodeOfEncode := by
  intro i hi he
  cases i with
  | movShort f | getShort f | getl f | putShort f | iaddShort f | isubShort f | imulShort f | imadShort f
  | andShort f | orShort f | xorShort f | shlShort f | shrShort f | sarShort f | iminShort f | imaxShort f
  | iaddiShort f | shli f | shri f | faddShort f | fsubShort f | fmulShort f | ffmaShort f | ffmsShort f
  | fminShort f | fmaxShort f | hfma2Short f | bfma2Short f | ffmasShort f | fmulsShort f | iaddsShort f | ldw f
  | stw f | ldbA f | stbA f | flt f | ilt f | ieq f | selp f | frcpShort f | cvtfF32I32 f =>
    exact decode_encode16 (by decide) (candidate_of_fields rfl f.ofBits_bits rfl) hi
  | nop | exitShort | brs o | bps o | bns o => exact decode_encode16 (by decide) rfl hi
  | ppopShort n | waitcLd n =>
    exact decode_encode16 (by decide) (candidate_of_fields rfl BitVec.extractLsb'_append_eq_right (high_unused _)) hi
  | mov f | get f | put f | puts f | sel f | iadd f | isub f | imul f | imulh f | imad f | imul64w f | iadd64 f
  | isub64 f | and f | or f | xor f | andn f | shl f | shr f | sar f | rotl f | imin f | imax f | iabs f | ineg f
  | popc f | clz f | brev f | bfx f | bfi f | idiv f | irem f | fadd f | fsub f | fmul f | ffma f | ffms f | fmin f
  | fmax f | fabs f | fneg f | fdiv f | frcp f | frsq f | fsqrt f | fexp2 f | flog2 f | fsin f | fcos f | ftanh f
  | frnd f | fclass f | hadd2 f | hmul2 f | hfma2 f | badd2 f | bmul2 f | bfma2 f | hmin2 f | hmax2 f | cvti f
  | cvtf f | pack2 f | unpk2 f | cvtn f | lxch f | ballot f | fold f | icmp f | fcmp f | pnot f | pand f | por f
  | pxor f | ppop f | pdup f | leader f | pmov f | pstore f
  | fmas f | imas f | fadds f | fmuls f | iadds f | ffmas f | sels f | icmps f | fcmps f
  | ldi f | ldih f | iaddi f | andi f | ori f | xori f | imuli f | faddi f | fmuli f | ffmai f | icmpi f | ixset f
  | ixadd f
  | ldB8 f | ldI8 f | ldB16 f | ldI16 f | ldB32 f | ldB64 f | ldB128 f | stB8 f | stB16 f | stB32 f | stB64 f
  | stB128 f | ldlB32 f | ldlB64 f | stlB32 f | stlB64 f | ldbB32 f | ldbB64 f | stbB32 f | stbB64 f | ldbyB32 f
  | pref f
  | bra f | call f | brx f | ret f | exit f =>
    exact decode_encode32 (candidate_of_fields rfl f.ofBits_bits rfl) hi
  | srd f | srdSet f =>
    have hm : f.m = _ := eq_of_beq (Bool.and_eq_true_iff.mp (fieldsOk_of_wellFormed hi)).1
    exact decode_encode32 (candidate_of_fields (K := id) rfl (by rw [f.bits_m, hm, f.ofBits_bits]; rfl) rfl) hi
  | voteAll f | voteAny f | voteEq f | voteOdd f =>
    have hm : f.m = _ := eq_of_beq (Bool.and_eq_true_iff.mp (fieldsOk_of_wellFormed hi)).2
    exact decode_encode32 (candidate_of_fields (K := id) rfl (by rw [f.bits_vote, hm, f.ofBits_bits]; rfl) rfl) hi
  | waitc sp ld st cp mx => exact decode_encode32 (candidate32_waitc ..) hi
  | trywaitRackfill sp j t | trywaitRackfree sp j t | trywaitPhase sp j t | trywaitFull sp j t =>
    refine decode_encode32 ?_ hi
    unfold candidate32
    rw [trywait_kind, trywait_object, trywait_hint]
    rfl
  | trywaitCtr sp j c t => exact decode_encode32 (candidate32_trywaitCtr ..) hi
  | yield sp | bkpt sp | xret sp | haltack sp | safe mask => exact decode_encode32 rfl hi
  | trap sp n | prog sp n =>
    exact decode_encode32 (candidate_of_fields rfl BitVec.extractLsb'_append_eq_right (high_unused _)) hi
  | mma f | mmag f | tbind f | tfree f | tzero f | tld f | tst f | tqnt f | tget f | tset f | taddc f | tmulr f
  | trowred f | tact f | tscl f | cpyl f | cpyt f | cpyw f | cpyg f | cpys f | cpyx f | cpyq f | atom f | atomc f
  | red f | flush f | inv f | lds f | sts f | rvinit f | rvarr f | rvwait f | rvaw f | rkinit f | emita f | evset f
  | spill f | fill f | trace f | csrw f =>
    exact decode_encodeX (candidate_of_fields rfl f.ofBits_bits (low_unused _)) hi
  | emitc f => exact decode_encodeX (candidate_of_fields rfl f.ofBits_bits f.bits_unused) hi
  | rkacq f | rkpub f | rkawait f =>
    exact decode_encodeX (candidate_of_fields rfl (f.ofBits_bits false) (f.bits_false ▸ low_unused _)) hi
  | rkrel f | rkrelSkip f =>
    exact decode_encodeX (candidate_of_fields (K := id) rfl (by rw [f.bits_skip, f.ofBits_bits]; rfl) (low_unused _)) hi
  | acqWord f | relWord f =>
    exact decode_encodeX (candidate_of_fields (if_pos f.bits_word) f.ofBits_bits (low_unused _)) hi
  | acq sp scope | rel sp scope =>
    exact decode_encodeX (candidate_of_fields (if_neg (scope_bits_word scope)) BitVec.extractLsb'_append_eq_left
      (scope_bits_unused scope)) hi
  | fence sp scope =>
    exact decode_encodeX (candidate_of_fields rfl BitVec.extractLsb'_append_eq_left (low_unused _)) hi
  | _ => exact absurd rfl he

end Sys2Proof
end

section
/-! The integer comparisons (02 R58; 04 R132, R146; 06 R193) and a strand's step (02 R44, R68; 04 R126). -/

namespace Sys2Proof.Proofs
open Sys2Proof Sys2Proof.Machine

/-! ## A push -/

/-- A push after reads: what such an instruction leaves. -/
theorem push_retire {s : State} {i : Instr} {g : Option Guard} {c : Ctx} (h : Runs s i g c) (gs : List (Nat × Bool))
    (ss : List Nat) (v : Nat → Bool) :
    ∃ t, (({ c with w := c.afterReads gs ss } : Ctx).push v).retire = .next t ∧
      c.Leaves t (c.afterReads gs ss) (c.pushed v) := by
  obtain ⟨-, -, -, -, -, hk, -⟩ := focusCtx_some h
  have hp : (({ c with w := c.afterReads gs ss } : Ctx).push v).passed = c.pushed v := by
    simp only [Ctx.passed, Ctx.push, Ctx.setPreds, hk]
    rfl
  exact hp ▸ retire_leaves (c' := ({ c with w := c.afterReads gs ss } : Ctx).push v) h rfl
    (afterReads_frame c gs ss).1 (afterReads_frame c gs ss).2 (show c.k.no = c.k0.no from congrArg Strand.no hk)

/-- Reads that the strand may make and then a push of what it finds, which the reads themselves leave as it was. -/
theorem access_push {s : State} {i : Instr} {g : Option Guard} {c : Ctx} (h : Runs s i g c) (gs : List (Nat × Bool))
    (ss : List Nat) (hr : c.Readable (gs.map (·.1)) ss) {v : Ctx → Nat → Bool} (hv : ∀ w, v { c with w } = v c) :
    ∃ t, c.access gs ss (fun c => (c.push (v c)).retire) = .next t ∧ c.Leaves t (c.afterReads gs ss) (c.pushed (v c)) := by
  obtain ⟨-, -, -, -, hw, -⟩ := focusCtx_some h
  rw [access_of_readable hr hw, hv]
  exact push_retire h gs ss (v c)

/-- The same with no reads. -/
theorem push_retire_noReads {s : State} {i : Instr} {g : Option Guard} {c : Ctx} (h : Runs s i g c) (v : Nat → Bool) :
    ∃ t, (c.push v).retire = .next t ∧ c.Leaves t c.w0 (c.pushed v) := by
  obtain ⟨-, -, -, -, hw, -⟩ := focusCtx_some h
  have hc : ({ c with w := c.afterReads [] [] } : Ctx) = c := by
    rw [show c.afterReads [] [] = c.w from hw.symm]
  have hp := push_retire h [] [] v
  rwa [hc] at hp

/-! ## The integer comparisons -/

/-- Settles O22, form by form: the condition code means what the spec's table says, and each form is its reads and then a
push. -/
theorem integerComparisons : Obligations.IntegerComparisons := by
  refine ⟨?icmp, ?icmpi, ?short, ?icmps⟩
  case icmp =>
    intro f s c h hr
    change ∃ t, execIcmp f s = .next t ∧ _
    rw [execIcmp, withLR, withStrand_of_runs h]
    simp only [icmp_eq]
    exact access_push h [(c.lrReg f, f.l)] [] hr fun _ => rfl
  case icmpi =>
    intro f s c h
    change ∃ t, execIcmpi f s = .next t ∧ _
    rw [execIcmpi, withLI, withStrand_of_runs h]
    simp only [icmp_eq, ← BitVec.setWidth_eq_extractLsb' (show 12 ≤ 16 by decide)]
    exact push_retire_noReads h _
  case short =>
    intro f i cond hi s c h hr
    have hexec : exec i s = withShort i f s fun c =>
        (c.push fun l => icmpHolds cond (c.slot f.a.toNat l) (c.gLane f.g.toNat l)).retire := by
      rcases hi with ⟨rfl, rfl⟩ | ⟨rfl, rfl⟩ <;> rfl
    rw [hexec, withShort, withStrand_of_runs h]
    simp only [icmp_eq]
    exact access_push h [(f.g.toNat, false)] [] hr fun _ => rfl
  case icmps =>
    intro f s c h hr
    change ∃ t, execIcmps f s = .next t ∧ _
    rw [execIcmps, withLS, withStrand_of_runs h]
    simp only [icmp_eq]
    exact access_push h [] [f.u.toNat] hr fun _ => rfl

/-! ## A strand's step -/

/-- Settles O4: with no held fault due and nothing cancelled, an issue of the strand is exec of what it fetched. -/
theorem stepRunsTheDecodedInstruction : Obligations.StepRunsTheDecodedInstruction := by
  intro s r c i ht hc hf hx hd
  have hi : fetched { s with focus := some r } c.l c.k0 c.addr.toNat = .instr i := by
    simp only [fetched, hd]
  have hissue : issueStrand s r = charged c (exec i (endAcquire { s with focus := some r } c)) := by
    unfold issueStrand
    simp only [hc, hf, hx, hi]
  rw [step, ht, takeTurn, hissue]

end Sys2Proof.Proofs
end

section
/-! Words of the spec (05 R169; 06 R177; 14 R392); immediates, moves, selects, the index register, special registers and
publication (05 R159 to R161, R166 to R172; 06 R178, R179). -/

namespace Sys2Proof.Proofs
open Sys2Proof Sys2Proof.Machine

/-! ## Words written out in the spec -/

/-- Settles O3: the decoder, run on each word. -/
theorem decodesWordsOfTheSpec : Obligations.DecodesWordsOfTheSpec := ⟨rfl, rfl, rfl, rfl, rfl⟩

/-! ## Shifts and halves of a word -/

theorem shiftLeft_eq_shiftedLeft (a : Word) (n : Nat) : a <<< n = shiftedLeft a n := by
  unfold shiftedLeft
  split
  · exact BitVec.eq_of_toNat_eq (by simp [Nat.shiftLeft_eq])
  · exact BitVec.shiftLeft_eq_zero (by omega)

theorem ushiftRight_eq_shiftedRight (a : Word) (n : Nat) : a >>> n = shiftedRight a n := by
  unfold shiftedRight
  split
  · apply BitVec.eq_of_toNat_eq
    have : a.toNat / 2 ^ n ≤ a.toNat := Nat.div_le_self ..
    have := a.isLt
    rw [BitVec.toNat_ushiftRight, BitVec.toNat_ofNat, Nat.shiftRight_eq_div_pow, Nat.mod_eq_of_lt (by omega)]
  · exact BitVec.ushiftRight_eq_zero (by omega)

/-- LDIH's value: an immediate over the low half of a word (05 R170). -/
theorem append_lowHalf (x : BitVec 16) (a : Word) :
    x ++ a.extractLsb' 0 16 = BitVec.ofNat 32 (65536 * x.toNat + a.toNat % 65536) := by
  apply BitVec.eq_of_toNat_eq
  have := x.isLt
  rw [BitVec.toNat_append, BitVec.extractLsb'_toNat, BitVec.toNat_ofNat, Nat.shiftLeft_eq]
  rw [Nat.mul_comm, ← Nat.two_pow_add_eq_or_of_lt (by omega)]
  omega

/-! ## Instructions that write slots -/

/-- An instruction that reads no register and writes slot d. -/
theorem withStrand_setSlot {s : State} {i : Instr} {g : Option Guard} {c : Ctx} (h : Runs s i g c) (d : Nat)
    (v : Ctx → Nat → Word) :
    ∃ t, withStrand i g s (fun c => (c.setSlot d (v c)).retire) = .next t ∧ c.Leaves t c.w0 (c.wrote d (v c)) := by
  rw [withStrand_of_runs h]
  exact setSlot_retire' h d (v c)

/-- Reads that the strand may make and then a write of slot d, from values that the reads leave as they were. -/
theorem access_setSlot {s : State} {i : Instr} {g : Option Guard} {c : Ctx} (h : Runs s i g c) (gs : List (Nat × Bool))
    (ss : List Nat) (hr : c.Readable (gs.map (·.1)) ss) (d : Nat) {v : Ctx → Nat → Word} (hv : ∀ w, v { c with w } = v c) :
    ∃ t, c.access gs ss (fun c => (c.setSlot d (v c)).retire) = .next t ∧
      c.Leaves t (c.afterReads gs ss) (c.wrote d (v c)) := by
  obtain ⟨-, -, -, -, hw, -⟩ := focusCtx_some h
  rw [access_of_readable hr hw, hv]
  exact setSlot_retire h gs ss d (v c)

/-- A pair written with no reads: what such an instruction leaves. -/
theorem setPair_retire {s : State} {i : Instr} {g : Option Guard} {c : Ctx} (h : Runs s i g c) (d : Nat) (v : Nat → DWord) :
    ∃ t, (c.setPair d v).retire = .next t ∧ c.Leaves t c.w0 (c.wrotePair d v) := by
  obtain ⟨-, -, -, -, hw, hk, -⟩ := focusCtx_some h
  have hp : (c.setPair d v).passed = c.wrotePair d v := by
    simp only [Ctx.passed, Ctx.setPair, Ctx.setSlot, Strand.setSlotIn, hk]
    rfl
  obtain ⟨t, ht, hl⟩ := retire_leaves (c' := c.setPair d v) h rfl (congrArg Warp.uid hw)
    (fun n => congrArg (·.strandAt n) hw) (show c.k.no = c.k0.no from congrArg Strand.no hk)
  exact ⟨t, ht, hp ▸ hw ▸ hl⟩

/-! ## Immediates (05 R168, R170; 06 R178, R179) -/

/-- Settles O9: each form writes slot d from slot a and its immediate. -/
theorem shortImmediateResults : Obligations.ShortImmediateResults := by
  intro p hp f s c h
  simp only [shortImmediates, List.mem_cons, List.not_mem_nil, or_false] at hp
  rcases hp with rfl | rfl | rfl | rfl
  · exact withStrand_setSlot h f.d.toNat fun c l => c.slot f.a.toNat l + shortImm f
  · simp only [← shiftLeft_eq_shiftedLeft]
    exact withStrand_setSlot h f.d.toNat fun c l => c.slot f.a.toNat l <<< f.g.toNat
  · simp only [← ushiftRight_eq_shiftedRight]
    exact withStrand_setSlot h f.d.toNat fun c l => c.slot f.a.toNat l >>> f.g.toNat
  · exact withStrand_setSlot h f.d.toNat fun c l => c.slot f.a.toNat l

/-- Settles O10: each form writes slot d from its old value, slot a and its immediate, sign- or zero-extended. -/
theorem longImmediateResults : Obligations.LongImmediateResults := by
  intro p hp f s c h
  simp only [longImmediates, List.mem_cons, List.not_mem_nil, or_false] at hp
  rcases hp with rfl | rfl | rfl | rfl | rfl | rfl | rfl <;> simp only [BitVec.ofNat_toNat, ← append_lowHalf]
  · exact withStrand_setSlot h f.d.toNat fun c l => c.slot f.a.toNat l + liSext f
  · exact withStrand_setSlot h f.d.toNat fun c l => c.slot f.a.toNat l &&& liZext f
  · exact withStrand_setSlot h f.d.toNat fun c l => c.slot f.a.toNat l ||| liZext f
  · exact withStrand_setSlot h f.d.toNat fun c l => c.slot f.a.toNat l ^^^ liZext f
  · exact withStrand_setSlot h f.d.toNat fun c l => c.slot f.a.toNat l * liSext f
  · exact withStrand_setSlot h f.d.toNat fun _ _ => liSext f
  · exact withStrand_setSlot h f.d.toNat fun c l => f.imm ++ (c.slot f.d.toNat l).extractLsb' 0 16

/-! ## Moves, selects, the index register and special registers (05 R166 to R172) -/

/-- An instruction that reads no register and changes its strand alone. -/
theorem retire_strand {s : State} {i : Instr} {g : Option Guard} {c : Ctx} (h : Runs s i g c) (k : Strand)
    (hn : k.no = c.k0.no) :
    ∃ t, ({ c with k } : Ctx).retire = .next t ∧ c.Leaves t c.w0 ({ c with k } : Ctx).passed := by
  obtain ⟨-, -, -, -, hw, -⟩ := focusCtx_some h
  obtain ⟨t, ht, hl⟩ := retire_leaves (c' := { c with k }) h rfl (congrArg Warp.uid hw)
    (fun n => congrArg (·.strandAt n) hw) hn
  exact ⟨t, ht, hw ▸ hl⟩

/-- An instruction that changes its warp's registers and their presence alone. -/
theorem retire_warp {s : State} {i : Instr} {g : Option Guard} {c : Ctx} (h : Runs s i g c) (w : Warp)
    (hu : w.uid = c.w0.uid) (hs : ∀ n, w.strandAt n = c.w0.strandAt n) :
    ∃ t, ({ c with w } : Ctx).retire = .next t ∧ c.Leaves t w c.past := by
  obtain ⟨-, -, -, -, -, hk, -⟩ := focusCtx_some h
  have hp : ({ c with w } : Ctx).passed = c.past := by
    simp only [Ctx.passed, hk]
    rfl
  exact hp ▸ retire_leaves (c' := { c with w }) h rfl hu hs (congrArg Strand.no hk)

/-- Settles O25, instruction by instruction: reads and a write of slot d, or a change of ix. -/
theorem moveResults : Obligations.MoveResults := by
  refine ⟨?getShort, ?get, ?sel, ?selp, ?sels, ?ixset, ?ixadd, ?srd⟩
  case getShort =>
    intro f i last hi s c h hr
    have hexec : exec i s = withStrand i none s fun c => c.getReg f.d.toNat f.g.toNat last := by
      rcases hi with ⟨rfl, rfl⟩ | ⟨rfl, rfl⟩ <;> rfl
    rw [hexec, withStrand_of_runs h]
    exact access_setSlot h [(f.g.toNat, last)] [] hr f.d.toNat fun _ => rfl
  case get =>
    intro f s c h hr
    change ∃ t, execGet f s = .next t ∧ _
    rw [execGet, withLR0, withStrand_of_runs h]
    exact access_setSlot h [(c.lrReg f, f.l)] [] hr f.d.toNat fun _ => rfl
  case sel =>
    intro f s c h hr
    change ∃ t, execSel f s = .next t ∧ _
    rw [execSel, withStrand_of_runs h]
    simp only [Ctx.selector, bne_iff_ne]
    exact access_setSlot h [(c.lrReg f, f.l)] [] hr f.d.toNat fun _ => rfl
  case selp =>
    intro f s c h
    exact withStrand_setSlot h f.d.toNat fun c l => if c.k0.pred 0 l then c.slot f.a.toNat l else c.slot f.d.toNat l
  case sels =>
    intro f s c h hr
    change ∃ t, execSels f s = .next t ∧ _
    rw [execSels, withStrand_of_runs h]
    simp only [Ctx.selector, bne_iff_ne]
    exact access_setSlot h [] [f.u.toNat] hr f.d.toNat fun _ => rfl
  case ixset =>
    intro f s c h
    change ∃ t, execIxset f s = .next t ∧ _
    rw [execIxset, withLI, withStrand_of_runs h]
    obtain ⟨-, -, -, -, -, hk, -⟩ := focusCtx_some h
    simp only [BitVec.ofNat_toNat, hk]
    exact retire_strand h { c.k0 with ix := f.imm.setWidth 6 } rfl
  case ixadd =>
    intro f s c h
    change ∃ t, execIxadd f s = .next t ∧ _
    rw [execIxadd, withLI, withStrand_of_runs h]
    obtain ⟨-, -, -, -, -, hk, -⟩ := focusCtx_some h
    simp only [BitVec.ofNat_toNat, hk]
    exact retire_strand h { c.k0 with ix := c.k0.ix + f.imm.setWidth 6 } rfl
  case srd =>
    intro f s c h
    change ∃ t, execSrd f s = .next t ∧ _
    rw [execSrd, withLR0, withStrand_of_runs h]
    dsimp only
    split
    · exact setPair_retire h f.d.toNat fun l => c.special f.g.toNat l
    · exact setSlot_retire' h f.d.toNat fun l => (c.special f.g.toNat l).lo

/-! ## Publication (05 R159 to R161) -/

/-- A publication: where p holds the warp becomes w, and else the strand waits. -/
theorem publish_or_wait {s : State} {i : Instr} {g : Option Guard} {c : Ctx} (h : Runs s i g c) (p : Bool) (x : Wait) {w : Warp}
    (hu : w.uid = c.w0.uid) (hs : ∀ n, w.strandAt n = c.w0.strandAt n) {o : Out}
    (ho : o = if !p then c.stall x else ({ c with w } : Ctx).retire) :
    if p then ∃ t, o = .next t ∧ c.Leaves t w c.past else ∃ t, o = .next t ∧ c.Waits t x := by
  subst ho
  cases p with
  | true => exact retire_warp h w hu hs
  | false => exact waits_of h c.w x

/-- Settles O26: with no bound broken, a PUT or PUTS publishes where its wait holds, and waits where it does not. -/
theorem publishResults : Obligations.PublishResults := by
  refine ⟨?general, ?uniform⟩
  case general =>
    intro i g r a s c hi h hf
    obtain ⟨-, -, -, -, hw, -⟩ := focusCtx_some h
    have hexec : exec i s = c.putReg r a := by
      rcases hi with ⟨f, rfl, rfl, rfl, rfl⟩ | ⟨f, rfl, rfl, rfl, rfl⟩
      · exact withStrand_of_runs h _
      · exact withStrand_of_runs h _
    rw [Ctx.putReg, hf, hw] at hexec
    exact publish_or_wait h (c.canPublish r) (.publish r)
      (w := c.w0.publish r (c.n.reg r).2 c.exec fun l => c.slot a l) rfl (fun _ => rfl) hexec
  case uniform =>
    intro f s c h r hf
    obtain ⟨-, -, -, -, hw, -⟩ := focusCtx_some h
    let w := c.w0.publishUniform r (c.n.reg (64 + r)).2 (c.leader.map fun l => c.slot f.a.toNat l)
    have hexec : exec (.puts f) s =
        if !c.canPublishUniform r then c.stall (.publishUniform r) else ({ c with w } : Ctx).retire := by
      change execPuts f s = _
      rw [execPuts, withLR0, withStrand_of_runs h, hw]
      dsimp only
      rw [hf]
    have hpub := publish_or_wait h (c.canPublishUniform r) (.publishUniform r) (w := w) rfl (fun _ => rfl) hexec
    cases hlead : c.leader <;> simp only [w, hlead] at hpub <;> exact hpub

end Sys2Proof.Proofs
end

section
/-! Traps that stop a warp (15 R397, R398), and waits that end in one or by their time (05 R164; 11 R306; 13 R364). -/

namespace Sys2Proof.Proofs
open Sys2Proof Sys2Proof.Machine

/-! ## A trap that stops its warp (15 R397, R398) -/

/-- Outside the trap kernel, a trap other than POISON writes its crumb, gives up what the warp asked for, and stops the warp. -/
theorem takeTrap_stops (s : State) (l : Launch) (g : Gang) {w : Warp} {r : TrapRec} (hk : w.kernel = none)
    (hc : r.cause ≠ causePOISON) : ∃ s1 : State,
      (s1.warps = s.warps ∧ s1.gangs = s.gangs ∧ s1.launches = s.launches ∧ s1.ops = s.ops ∧ s1.cycles = s.cycles) ∧
      takeTrap s l g w r = updWarp (dropAsked s1 w.uid) w.uid fun w => w.stopFor s1 r := by
  obtain ⟨hw, hg, hl, ho, hcy, -⟩ := crumb_frame s l g w.team w.num w.kernel.isSome (dieOfCore w.core)
    ((lowestLane r.lanes).getD 0) r.strand 1 r.cause r.sub
  exact ⟨_, ⟨hw, hg, hl, ho, hcy⟩, by simp only [takeTrap, hk, hc, Option.isSome_none, Bool.false_eq_true, if_false]⟩

/-- So the warp of the context is stopped with the trap, and nothing else of the part's work changes. -/
theorem takeTrap_trappedWith {c : Ctx} {r : TrapRec} (hw : warpOf c.s c.ref.warp = some c.w0) (hk : c.w0.kernel = none)
    (hc : r.cause ≠ causePOISON) : c.TrappedWith (takeTrap c.s c.l c.g c.w0 r) r := by
  obtain ⟨s1, ⟨hws, hgs, hls, hos, hcy⟩, heq⟩ := takeTrap_stops c.s c.l c.g hk hc
  obtain ⟨dws, dgs, dls, dcy, dos⟩ := dropAsked_frame s1 c.ref.warp
  rw [heq, show c.w0.uid = c.ref.warp from warpOf_uid hw]
  have hwarp (u : Nat) : warpOf (dropAsked s1 c.ref.warp) u = warpOf c.s u := by rw [warpOf, dws, hws, warpOf]
  have huid : ∀ w : Warp, w.uid = c.ref.warp → (w.stopFor s1 r).uid = c.ref.warp := fun w h => h
  refine ⟨?_, fun u hu => ?_, dgs.trans hgs, dls.trans hls, dcy.trans hcy, ?_⟩
  · rw [warpOf_updWarp_self _ _ _ huid, hwarp, hw, Option.map_some, stopFor_congr hos hcy]
  · rw [warpOf_updWarp_other _ _ _ _ huid hu, hwarp]
  · simp only [updWarp_ops, dos, hos, fetchesWord_congr hws, warpOf_uid hw]

/-! ## Waits that end in a trap (05 R164; 13 R364) -/

/-- The context of a strand that waits: its warp and strand as they stand. -/
theorem stuckCtx_some {s : State} {r : StrandRef} {c : Ctx} (h : stuckCtx s r = some c) :
    c.s = { s with focus := some r } ∧ c.ref = r ∧ warpOf s r.warp = some c.w0 := by
  unfold stuckCtx at h
  simp only [Option.bind_eq_bind, Option.bind_eq_some_iff] at h
  obtain ⟨c0, h0, hc⟩ := h
  obtain ⟨hs, hf, hw, -⟩ := focusCtx_some h0
  have hr : c0.ref = r := (Option.some.inj hf).symm
  split at hc <;> cases hc <;> exact ⟨hs, hr, hr ▸ hw⟩

/-- A wait that ends in a trap of a strand that waits so. -/
theorem waitTraps_trapped {s : State} {r : StrandRef} {c : Ctx} (h : stuckCtx s r = some c) (hk : c.w0.kernel = none)
    {cause sub : Nat} {addr : DWord} {lanes : Mask} (hc : cause ≠ causePOISON) :
    ∃ t, c.waitTraps cause sub addr lanes = .next t ∧ c.WaitTrapped t cause sub addr lanes := by
  obtain ⟨hs, hr, hw⟩ := stuckCtx_some h
  exact ⟨_, rfl, takeTrap_trappedWith (by rw [hs, hr]; exact hw) hk hc⟩

theorem goesOn_of_running {w : Warp} (hm : w.mode = .running) (hh : w.haltPending = false) (hp : w.preemptPending = false) :
    w.goesOn = true := by
  simp [Warp.goesOn, hm, hh, hp]

/-- The strand at which a warp that goes on outside a trap kernel is found deadlocked. -/
theorem deadlocked_lowest {s : State} {w : Warp} {k : Strand} (hm : w.mode = .running) (hk : w.kernel = none)
    (hgo : w.goesOn = true) (hlow : (w.strands.find? fun k => !k.isDone w.launched) = some k)
    (hwait : ∀ j ∈ w.strands, j.isDone w.launched = false → (presenceWait j).isSome ∧ j.waitSince + 65536 ≤ s.cycles)
    (hissue : ∀ j ∈ w.strands, j.lastIssue + 65536 ≤ s.cycles) : deadlocked s w = some (k.no, k) := by
  have hall : (w.liveStrands.all fun x =>
      (presenceWait x.2).isSome && decide (x.2.waitSince + meetCycles ≤ s.cycles)) = true := by
    simp only [Warp.liveStrands, hk, List.all_map, List.all_filter, List.all_eq_true]
    intro j hj
    cases hd : j.isDone w.launched with
    | true => rfl
    | false =>
      obtain ⟨hp, hs⟩ := hwait j hj hd
      exact Bool.and_eq_true_iff.mpr ⟨hp, decide_eq_true hs⟩
  have hcounted : (w.countedStrands.all fun k => decide (k.lastIssue + meetCycles ≤ s.cycles)) = true := by
    simp only [Warp.countedStrands, hk, List.all_eq_true]
    exact fun j hj => decide_eq_true (hissue j hj)
  have hhead : w.liveStrands.head? = some (k.no, k) := by
    simp [Warp.liveStrands, hk, List.head?_filter, hlow]
  simp only [deadlocked, hm, hgo, deadlocked.find, hall, hcounted, hhead, Bool.and_self, if_true]

/-- Settles O50: each event finds its wait over; a pin's is its 4,096 cycles. -/
theorem waitsEnd : Obligations.WaitsEnd := by
  refine ⟨?deadlock, ?pool, ?pin⟩
  case deadlock =>
    intro s w k sub reg c hw hm hk hh hp hlow hpres hwait hissue hc
    have hdead := deadlocked_lowest hm hk (goesOn_of_running hm hh hp) hlow hwait hissue
    have hexec : exec (.meetDeadlock w.uid) s =
        c.waitTraps causeMEETDEADLOCK sub (BitVec.ofNat 64 reg) (Config.freeLanes s.fresh) := by
      change execMeetDeadlock w.uid s = _
      simp only [execMeetDeadlock, hw, hdead, hc, hpres]
    obtain ⟨-, -, hw0⟩ := stuckCtx_some hc
    have hk0 : c.w0.kernel = none := by rw [← Option.some.inj (hw.symm.trans hw0), hk]
    obtain ⟨t, ht, htrap⟩ := waitTraps_trapped hc hk0 (show causeMEETDEADLOCK ≠ causePOISON by decide)
    exact ⟨t, _, hexec.trans ht, htrap⟩
  case pool =>
    intro s r c hc hk hm hh hp hwait hsince
    have hexec : exec (.poolTimeout r.warp r.no) s = c.waitTraps causePOOL 0 (Config.freeAddress c.s.fresh) c.exec := by
      change execPoolTimeout r.warp r.no s = _
      simp only [execPoolTimeout, hc]
      exact if_pos ⟨hwait, goesOn_of_running hm hh hp, hsince⟩
    obtain ⟨t, ht, htrap⟩ := waitTraps_trapped hc hk (show causePOOL ≠ causePOISON by decide)
    exact ⟨t, _, hexec.trans ht, htrap⟩
  case pin =>
    intro s core line h since rs ws hcopy hsince
    change execPinTimeout core line s = _
    simp only [execPinTimeout, hcopy]
    exact if_pos hsince

end Sys2Proof.Proofs
end

section
/-! A read at its home (12 R331 to R333): whatever its word, it changes no warp. -/

namespace Sys2Proof.Proofs
open Sys2Proof Sys2Proof.Machine

/-! ## Actions on a line that change no warp -/

theorem warps_ite {p : Prop} [Decidable p] {s t : State} (h : t.warps = s.warps) : (if p then t else s).warps = s.warps := by
  split
  · exact h
  · rfl

theorem returnCopy_warps (s : State) (c : L1Copy) : (returnCopy s c).warps = s.warps := by
  unfold returnCopy
  cases c.kind <;> rfl

theorem makeRoom_warps (s : State) (core : Nat) : (makeRoom s core).warps = s.warps := by
  unfold makeRoom
  split
  · rfl
  · extract_lets near far dropFar
    split
    · exact returnCopy_warps ..
    · rfl
    · exact returnCopy_warps ..
    · rfl
    · rfl

theorem putCopy_warps (s : State) (core line : Nat) (k : CopyKind) : (putCopy s core line k).warps = s.warps :=
  makeRoom_warps (dropCopy s core line) core

theorem backInvalidate_warps (s : State) (line : Nat) : (backInvalidate s line).warps = s.warps := by
  unfold backInvalidate
  extract_lets h s1 s2
  have h1 : s1.warps = s.warps := warps_ite (sendOut_same ..).1
  have h2 : s2.warps = s1.warps := warps_ite rfl
  exact h2.trans h1

theorem takeNext_warps (s : State) (line next : Nat) : (takeNext s line next).warps = s.warps := by
  unfold takeNext
  exact warps_ite rfl

/-! ## The actions of a core's read -/

section Read
variable {s : State} {line : Nat} {e : HomeEvent} (hev : e.ev = evRD) (hreq : e.req = none)
include hev hreq

theorem perform_read : perform s line e = s := by
  simp [perform, hev, hreq, evRD, evWR, evRL, evAT, evRE]

theorem writeData_read_warps : (writeData s line e).warps = s.warps := by
  rw [writeData, perform_read hev hreq]
  cases e.core with
  | none => rfl
  | some c => exact warps_ite rfl

theorem grantOwner_read_warps : (grantOwner s line e).warps = s.warps := by
  unfold grantOwner
  split
  next c _ =>
    rw [perform_read hev hreq]
    exact putCopy_warps s c line .own
  next => rw [perform_read hev hreq]

omit hev in
theorem grantLease_read_warps : (grantLease s line e).warps = s.warps := by
  unfold grantLease
  rw [hreq]
  cases e.core with
  | none => rfl
  | some c => exact putCopy_warps ..

theorem answerHere_read_warps (w : Word) : (answerHere s line e w).warps = s.warps := by
  simp [answerHere, answerOnly, hev, hreq, evRD, evHS]

theorem runActions_read_warps (w : Word) : (runActions s line e w false).warps = s.warps := by
  unfold runActions
  extract_lets serves s1 s2 s3 s4 s5 s6 s7 s8 s9 s10 s11
  have h1 : s1.warps = s.warps := warps_ite rfl
  have h2 : s2.warps = s1.warps := warps_ite rfl
  have h3 : s3.warps = s2.warps := warps_ite (backInvalidate_warps ..)
  have h4 : s4.warps = s3.warps := warps_ite (writeData_read_warps hev hreq)
  have h5 : s5.warps = s4.warps := warps_ite rfl
  have h6 : s6.warps = s5.warps := warps_ite (by rw [hreq]; exact grantLease_read_warps hreq)
  have h7 : s7.warps = s6.warps := by
    cases hc : e.core with
    | none => simp only [s7, hc]
    | some c =>
      simp only [s7, hc]
      exact (warps_ite (putCopy_warps ..)).trans (warps_ite (putCopy_warps ..))
  have h8 : s8.warps = s7.warps := by simp [s8]
  have h9 : s9.warps = s8.warps := warps_ite (grantOwner_read_warps hev hreq)
  have h10 : s10.warps = s9.warps := warps_ite (answerHere_read_warps hev hreq w)
  have h11 : s11.warps = s10.warps := warps_ite rfl
  rw [takeNext_warps, h11, h10, h9, h8, h7, h6, h5, h4, h3, h2, h1]

/-! ## The read dispatched -/

omit hreq in
theorem meetsWord_read_gathers : (meetsWord s line e).2 = false := by
  simp [meetsWord, hev, evRD, evRE]

theorem dispatchEvent_read_warps : (dispatchEvent s line e).1.warps = s.warps := by
  have hg := meetsWord_read_gathers (s := s) (line := line) hev
  unfold dispatchEvent
  generalize meetsWord s line e = m at hg ⊢
  obtain ⟨w, g⟩ := m
  subst hg
  extract_lets h st s1 held
  have h1 : s1.warps = s.warps := by
    simp only [s1]
    split <;> rfl
  change (ite (wordHas w bitWT = true) _ _ : State × HomeResult).1.warps = _
  by_cases ht : wordHas w bitWT = true
  · rw [if_pos ht]
    extract_lets waiting until_ s2
    have hs2 : s2.warps = s.warps := h1
    split <;> exact hs2
  · rw [if_neg ht]
    by_cases he : wordHas w bitER = true
    · rw [if_pos he]
      exact (takeNext_warps ..).trans h1
    · rw [if_neg he]
      exact (runActions_read_warps hev hreq w).trans h1

theorem failAccess_read (ecode : Nat) : failAccess s line e ecode = s := by
  simp [failAccess, hev, hreq, evRD, evWR, evRL, evAT, evRE]

theorem dispatch_read_warps : (dispatch s line e).1.warps = s.warps := by
  have hroom : roomForPin s line e = s := by simp [roomForPin, hev, evRD, evPN]
  have hafter : storeAfter s line e = none := by simp [storeAfter, hev, evRD, evRL]
  have hd := dispatchEvent_read_warps (s := s) (line := line) hev hreq
  rw [dispatch, hafter, dispatchOnce, hroom]
  cases hx : dispatchEvent s line e with
  | mk t x =>
    rw [hx] at hd
    cases x with
    | error c => exact (congrArg State.warps (failAccess_read hev hreq c)).trans hd
    | _ => exact hd

end Read

/-- A line that a core asks its home for, or takes as it was answered: no warp changes. -/
theorem fetchLine_read_warps (s : State) (core op line : Nat) (fresh : Bool) :
    (fetchLine s core op line evRD fresh).1.warps = s.warps := by
  unfold fetchLine
  split
  · split <;> rfl
  · extract_lets here
    split
    · rfl
    split
    · rfl
    · unfold homeAccess
      split
      · rfl
      · exact dispatch_read_warps rfl rfl

end Sys2Proof.Proofs
end

section
/-! SPILL and FILL (05 R173, R174). -/

namespace Sys2Proof.Proofs
open Sys2Proof Sys2Proof.Machine

/-! ## A context that has only read -/

/-- The context's warp and strand stand in its state as it says, and nothing has changed but presence bits of the warp. -/
structure HasOnlyRead (c : Ctx) : Prop where
  warp : warpOf c.s c.ref.warp = some c.w0
  strand : c.w0.strandAt c.ref.no = some c.k0
  uid : c.w.uid = c.w0.uid
  strands : ∀ n, c.w.strandAt n = c.w0.strandAt n
  unchanged : c.k = c.k0

theorem hasOnlyRead_of_runs {s : State} {i : Instr} {g : Option Guard} {c : Ctx} (h : Runs s i g c) (gs : List (Nat × Bool))
    (ss : List Nat) : HasOnlyRead { c with w := c.afterReads gs ss } := by
  obtain ⟨hs, -, hw, hk, -, hck, -⟩ := focusCtx_some h
  obtain ⟨hu, hn⟩ := afterReads_frame c gs ss
  exact ⟨hs ▸ hw, hk, hu, hn, hck⟩

/-- Such a context, found again in a state with the same warps, is itself, its warp with the presence bits of the reads. -/
theorem onTo_of_warps {c : Ctx} (hc : HasOnlyRead c) {s : State} (hs : s.warps = c.s.warps) :
    c.onTo s = { c with s, w := { c.w0 with full := c.w.full, seen := c.w.seen } } := by
  obtain ⟨hw, hk, hu, -, hck⟩ := hc
  have hwarp : warpOf s c.w.uid = some c.w0 := by rw [hu, warpOf_uid hw, ← hw, warpOf, hs, warpOf]
  simp only [Ctx.onTo, hwarp, hk, hck]

theorem hasOnlyRead_onTo {c : Ctx} (hc : HasOnlyRead c) {s : State} (hs : s.warps = c.s.warps) : HasOnlyRead (c.onTo s) := by
  rw [onTo_of_warps hc hs]
  obtain ⟨hw, hk, -, -, hck⟩ := hc
  exact ⟨by rw [← hw, warpOf, hs, warpOf], hk, rfl, fun _ => rfl, hck⟩

theorem onTo_w {c : Ctx} (hc : HasOnlyRead c) {s : State} (hs : s.warps = c.s.warps) :
    (c.onTo s).w = { (c.onTo s).w0 with full := c.w.full, seen := c.w.seen } := by
  rw [onTo_of_warps hc hs]

theorem onTo_asks {c : Ctx} (hc : HasOnlyRead c) {s : State} (hs : s.warps = c.s.warps) : (c.onTo s).asks = c.asks := by
  rw [onTo_of_warps hc hs]
  rfl

theorem onTo_exec (c : Ctx) (s : State) : (c.onTo s).exec = c.exec := by
  unfold Ctx.onTo
  split
  · split <;> rfl
  · rfl

/-- An operation that such a context starts begins, with the translations that its checks cached. -/
theorem retireSending_begins {c : Ctx} (hc : HasOnlyRead c) {s1 : State}
    (hs1 : { s1 with cores := c.s.cores, yards := c.s.yards } = c.s) {cl : CounterClass} {q : Option EngineQueue}
    {body : OpBody} {posted : Bool} {mk : LaneAccess → Sent} {ls : List LaneAccess} {t : State}
    (ht : (({ c with s := s1 } : Ctx).start (some cl) q body).retireSending s1.nextId posted mk ls = .next t) :
    c.Begins t s1 c.w cl q body posted mk ls := by
  obtain ⟨hw, hk, hu, hn, hck⟩ := hc
  have hcy : s1.cycles = c.s.cycles := by rw [← hs1]
  have hws : s1.warps = c.s.warps := by rw [← hs1]
  have hpast : (({ c with s := s1 } : Ctx).start (some cl) q body).passed = c.counted s1.nextId cl := by
    cases cl <;> simp only [Ctx.start, Ctx.passed, Ctx.counted, Ctx.past, Strand.setCounter, Strand.counter, hck, hcy]
  have hl := commit_leaves (c := { c with s := c.begun s1 q body, k := c.counted s1.nextId cl })
    (by rw [← hw]; simp only [warpOf, Ctx.begun, hws]) hk hu hn (by cases cl <;> rfl)
  refine ⟨_, ⟨hl.memory, hl.rest, hl.others, hl.warp⟩, ?_⟩
  simp only [Ctx.retireSending, hpast, Host.Outcome.next.injEq] at ht
  rw [← ht]
  split
  case isTrue hlocal => exact sendLanes_local _ _ _ _ _ _ hlocal
  case isFalse => rfl

/-! ## Checks that pass, and the access of a record -/

theorem grantWait_ld {c : Ctx} (h : c.k0.ld.length < 63) : c.grantWait (some .ld) none = none :=
  if_neg (ne_true_of_eq_false (decide_eq_false (Nat.not_le.mpr h)))

theorem grantWait_st {c : Ctx} (h : c.k0.st.length < 63) (hq : queueGrants c.s c.w0.core .st = true) :
    c.grantWait (some .st) (some .st) = none := by
  have hroom : ¬ CounterClass.st.max ≤ c.k0.count .st := Nat.not_le.mpr h
  simp [Ctx.grantWait, hroom, hq]

/-- Checks that find nothing: what follows them goes on with the places that they found. -/
theorem checked_of_reaches {c : Ctx} {size : Nat} {write tagOk : Bool} {ls : List (Nat × DWord)} {s1 : State}
    {ps : List (Nat × DWord × Target)} (h : c.Reaches false size write tagOk ls s1 ps) (kind : Nat)
    (f : Ctx → List (Nat × DWord × Target) → Out) :
    c.checked kind size write tagOk ls f = f { c with s := s1 } ps := by
  obtain ⟨rfl, hfail, rfl⟩ := h
  simp only [Ctx.checked, Ctx.checkedBy, hfail]

theorem reaches_frame {c : Ctx} {size : Nat} {write tagOk : Bool} {ls : List (Nat × DWord)} {s1 : State}
    {ps : List (Nat × DWord × Target)} (h : c.Reaches false size write tagOk ls s1 ps) :
    { s1 with cores := c.s.cores, yards := c.s.yards } = c.s := by
  obtain ⟨rfl, -, -⟩ := h
  exact checkLanes_frame ..

/-- A record's access that the waits of R126 and the checks let pass: one operation, a piece for each of its lines. -/
theorem recordAccess_of_reaches {c : Ctx} {va : DWord} {write : Bool} {n : Nat} {s1 : State}
    {ps : List (Nat × DWord × Target)}
    (hq : c.grantWait (some (if write then .st else .ld)) (if write then some .st else none) = none)
    (hr : c.Reaches false 16 write false (c.recordAccesses va n) s1 ps) (data : List Byte) (body : List LaneAccess → OpBody) :
    let ls := recordPieces (c.leader.getD 0) va n data ps
    c.recordAccess va write n data body =
      (({ c with s := s1 } : Ctx).start (some (if write then .st else .ld)) (if write then some .st else none)
        (body ls)).retireSending s1.nextId write
        (fun x => c.asks s1.nextId (if write then .write else .read) x.data.length (if write then x.data else []) x) ls := by
  rw [Ctx.recordAccess, hq]
  exact checked_of_reaches hr _ _

/-! ## The head of a record that FILL reads (05 R174; log entry 16) -/

theorem headCame_of_not_waiting {c : Ctx} (h : ∀ id, c.k0.wait ≠ some (.value id)) : c.headCame = none := by
  unfold Ctx.headCame
  split
  case h_1 id hid => exact absurd hid (h id)
  case h_2 => rfl

/-- The head of a record in local memory, once its home serves the line and the line is not poisoned. The read leaves every
warp as it was, so the strand is found again as it stood. -/
theorem withHead_local {c : Ctx} (hc : HasOnlyRead c) {va a : DWord} {l pa : Nat} {s0 s2 : State}
    {ps0 : List (Nat × DWord × Target)}
    (hr : c.Reaches false 16 false false (c.lanes.map fun l => (l, va)) s0 ((l, a, .mem pa) :: ps0))
    (ho : olderTouches s0 c.ref s0.nextId (.mem pa) 8 false = false)
    (hf : fetchLine s0 c.w0.core (readCode c.ref) (lineOf pa) evRD false = (s2, .done))
    (hp : (asAnswered s2 (some c.w0.core) (readCode c.ref)).mem.poisoned (lineOf pa) = false) (body : Ctx → Nat → Out) :
    (dropAnswers s2 (some c.w0.core) (readCode c.ref) [lineOf pa]).warps = c.s.warps ∧
    c.withHead va body = body (c.onTo (dropAnswers s2 (some c.w0.core) (readCode c.ref) [lineOf pa]))
      (sliceNat (coreRead (asAnswered s2 (some c.w0.core) (readCode c.ref)) c.w0.core c.ref s2.nextId pa 1 true) 0 1) := by
  have hs2 : s2.warps = c.s.warps := by
    have hread := fetchLine_read_warps s0 c.w0.core (readCode c.ref) (lineOf pa) false
    rw [hf] at hread
    rw [hread, ← reaches_frame hr]
  have honto := onTo_of_warps hc (s := dropAnswers s2 (some c.w0.core) (readCode c.ref) [lineOf pa]) hs2
  have hfrom (s : State) : ({ c with s := s0 } : Ctx).onTo s = c.onTo s := rfl
  refine ⟨hs2, ?_⟩
  rw [Ctx.withHead, checked_of_reaches hr]
  simp only [ho, hf, hp, Bool.false_eq_true, if_false, hfrom, honto]

/-! ## SPILL and FILL up to the access of the record -/

/-- The bytes of the record that SPILL stores: a lane that was never launched has 0. -/
def spilled (f : SpillF) (c : Ctx) : List Byte :=
  spillBytes (lanes64.map fun l => if c.w0.launched.getLsbD l then c.slot f.slot.toNat l else 0)

theorem exec_spill {f : SpillF} {s : State} {c : Ctx} (h : Runs s (.spill f) none c)
    (hread : c.Readable [] [2 * f.sb.toNat, 2 * f.sb.toNat + 1]) :
    exec (.spill f) s = ({ c with w := c.afterReads [] [2 * f.sb.toNat, 2 * f.sb.toNat + 1] } : Ctx).recordAccess
      (c.recordAddress f) true (spilled f c).length (spilled f c) (.store 16 0 false) := by
  obtain ⟨-, -, -, -, hw, -⟩ := focusCtx_some h
  change execSpill f s = _
  rw [execSpill, withStrand_of_runs h, access_of_readable (gs := []) hread hw]
  rfl

/-- FILL once it has read its record's format: its trap, or the access of the bytes that the format needs. -/
def fillRecord (f : SpillF) (va : DWord) (c : Ctx) (fmt : Nat) : Out :=
  if 3 < fmt then c.trapFree causeSTACK 2 c.exec
  else c.recordAccess va false (fillSize fmt) (zeros (fillSize fmt)) (.fill f.slot.toNat fmt c.exec)

theorem exec_fill {f : SpillF} {s : State} {c : Ctx} (h : Runs s (.fill f) none c)
    (hread : c.Readable [] [2 * f.sb.toNat, 2 * f.sb.toNat + 1]) (hld : c.k0.ld.length < 63)
    (hwait : ∀ id, c.k0.wait ≠ some (.value id)) :
    exec (.fill f) s = ({ c with w := c.afterReads [] [2 * f.sb.toNat, 2 * f.sb.toNat + 1] } : Ctx).withHead
      (c.recordAddress f) (fillRecord f (c.recordAddress f)) := by
  obtain ⟨-, -, -, -, hw, -⟩ := focusCtx_some h
  change execFill f s = _
  rw [execFill, withStrand_of_runs h]
  simp only [headCame_of_not_waiting hwait]
  rw [access_of_readable (gs := []) hread hw,
    grantWait_ld (c := { c with w := c.afterReads [] [2 * f.sb.toNat, 2 * f.sb.toNat + 1] }) hld]
  rfl

/-! ## The obligation -/

/-- What is said of a context does not depend on the reads that it has made. -/
theorem begins_of_read {c : Ctx} {w w' : Warp} {t s1 : State} {cl : CounterClass} {q : Option EngineQueue} {body : OpBody}
    {posted : Bool} {mk : LaneAccess → Sent} {ls : List LaneAccess}
    (h : ({ c with w } : Ctx).Begins t s1 w' cl q body posted mk ls) : c.Begins t s1 w' cl q body posted mk ls := by
  obtain ⟨b, hl, ht⟩ := h
  exact ⟨b, ⟨hl.memory, hl.rest, hl.others, hl.warp⟩, ht⟩

/-- Settles O34: SPILL is its reads and the access of a record; FILL is its reads, the head of the record, and then its trap
or the access, made by the strand as it stands once the head is read. -/
theorem spillAndFill : Obligations.SpillAndFill := by
  intro f s c hread va w
  refine ⟨?spill, ?fill⟩
  case spill =>
    intro h hst hq data s1 ps hr ls
    have hrec := recordAccess_of_reaches (c := { c with w }) (write := true) (grantWait_st (c := { c with w }) hst hq) hr data
      (.store 16 0 false)
    exact ⟨_, (exec_spill h hread).trans hrec,
      begins_of_read (retireSending_begins (hasOnlyRead_of_runs h [] _) (reaches_frame hr) rfl)⟩
  case fill =>
    intro h hld hwait s0 l a pa ps0 hr0 holder s2 hfetch r hpoison d fmt
    have hc : HasOnlyRead { c with w } := hasOnlyRead_of_runs h [] _
    obtain ⟨hwarps, hhead⟩ := withHead_local hc hr0 holder hfetch hpoison (fillRecord f va)
    have hexec : exec (.fill f) s = fillRecord f va d fmt := (exec_fill h hread hld hwait).trans hhead
    have hd : HasOnlyRead d := hasOnlyRead_onTo hc hwarps
    have hlanes : d.exec = c.exec := onTo_exec ..
    rw [hexec, fillRecord, hlanes]
    refine ⟨fun hfmt hk => ?trap, fun hfmt hld' s1 ps hr => ?load⟩
    case trap =>
      rw [if_pos hfmt]
      exact ⟨_, _, rfl, fun _ => takeTrap_trappedWith hd.warp hk (show causeSTACK ≠ causePOISON by decide)⟩
    case load =>
      have hasks : d.asks = c.asks := onTo_asks hc hwarps
      have hlead : d.leader = c.leader := congrArg lowestLane hlanes
      have hall : d.recordAccesses va (fillSize fmt) = c.recordAccesses va (fillSize fmt) := by
        simp only [Ctx.recordAccesses, Ctx.lanes, hlanes]
      have hdw : d.w = { d.w0 with full := w.full, seen := w.seen } := onTo_w hc hwarps
      rw [← hall] at hr
      have hrec := recordAccess_of_reaches (write := false) (grantWait_ld hld') hr (zeros (fillSize fmt))
        (.fill f.slot.toNat fmt c.exec)
      rw [hlead, hasks] at hrec
      rw [if_neg (Nat.not_lt.mpr hfmt)]
      exact ⟨_, hrec, fun _ => hdw ▸ retireSending_begins hd (reaches_frame hr) rfl⟩

end Sys2Proof.Proofs
end

section
/-! The results of the integer tables (06 R177, R178, R181 to R183) and the FP32 classes (06 R192), as the model computes
them. -/

namespace Sys2Proof.Proofs
open Sys2Proof Sys2Proof.Machine

/-! ## Products, and the lesser and greater of two values (06 R177, R181) -/

theorem widen_mul_eq_productWide (n : Bool) (a b : Word) : widen n a * widen n b = productWide n a b := by
  cases n with
  | false => exact (BitVec.ofInt_mul ..).symm
  | true => simp only [widen, productWide, if_true, BitVec.ofNat_mul, BitVec.ofNat_toNat]

theorem hi_productWide (n : Bool) (a b : Word) : (productWide n a b).hi = productHigh n a b := by
  apply BitVec.eq_of_toNat_eq
  cases n with
  | false =>
    simp only [productWide, productHigh, DWord.hi, Bool.false_eq_true, if_false, BitVec.extractLsb'_toNat, BitVec.toNat_ofInt,
      Nat.shiftRight_eq_div_pow]
    generalize a.toInt * b.toInt = z
    omega
  | true =>
    simp only [productWide, productHigh, DWord.hi, if_true, BitVec.extractLsb'_toNat, BitVec.toNat_ofNat,
      Nat.shiftRight_eq_div_pow]
    generalize a.toNat * b.toNat = z
    omega

theorem intMin_eq_lesser (n : Bool) (a b : Word) : intMin n a b = lesser n a b := by
  cases n <;> simp only [intMin, lesser, BitVec.ult, BitVec.slt, decide_eq_true_eq, Bool.false_eq_true, if_false, if_true,
    ← Int.not_le, ← Nat.not_le, ite_not]

theorem intMax_eq_greater (n : Bool) (a b : Word) : intMax n a b = greater n a b := by
  by_cases h : a = b
  · simp only [h, intMax, greater, ite_self]
  · have hs : a.toInt ≤ b.toInt ↔ a.toInt < b.toInt :=
      ⟨fun hle => Int.lt_iff_le_and_ne.mpr ⟨hle, mt BitVec.eq_of_toInt_eq h⟩, Int.le_of_lt⟩
    have hu : a.toNat ≤ b.toNat ↔ a.toNat < b.toNat :=
      ⟨fun hle => Nat.lt_of_le_of_ne hle (mt BitVec.eq_of_toNat_eq h), Nat.le_of_lt⟩
    cases n <;> simp only [intMax, greater, BitVec.ult, BitVec.slt, decide_eq_true_eq, Bool.false_eq_true, if_false, if_true,
      hs, hu]

/-! ## Shifts and rotations (06 R178) -/

theorem sshiftRight_eq_shiftedArith (a : Word) (n : Nat) : a.sshiftRight n = shiftedArith a n := by
  unfold shiftedArith
  split
  case isTrue =>
    have hdiv : a.toInt >>> n = a.toInt / 2 ^ n :=
      (Int.shiftRight_eq_div_pow a.toInt n).trans (congrArg (a.toInt / ·) (Int.natCast_pow 2 n))
    exact congrArg (BitVec.ofInt 32) hdiv
  case isFalse hn =>
    have hbits : a.sshiftRight n = if a.msb then BitVec.allOnes 32 else 0 := by
      refine BitVec.eq_of_getLsbD_eq fun i hi => ?_
      rw [BitVec.getLsbD_sshiftRight, if_neg (by omega)]
      cases a.msb
      · simp
      · simp only [if_true, BitVec.getLsbD_allOnes, Bool.and_true, ← decide_not, Nat.not_le]
    rw [hbits, BitVec.msb_eq_getLsbD_last]
    rfl

theorem rotateLeft_eq_rotated (a b : Word) : a.rotateLeft (b.toNat % 32) = rotated a (b.toNat % 32) := by
  rw [BitVec.rotateLeft_def, Nat.mod_mod, rotated]

/-! ## Bit fields (06 R183) -/

theorem bitField_eq (b : Word) : bitField b = (fieldPos b, fieldLen b) := by
  simp only [bitField, fieldPos, fieldLen, field, Nat.reducePow, Nat.reduceAdd, Nat.reduceSub, Nat.div_one]

/-- A word given bit by bit. -/
theorem eq_iunfoldr {x : Word} {f : Fin 32 → Bool} (h : ∀ i : Fin 32, x.getLsbD i = f i) :
    x = (BitVec.iunfoldr (fun i (_ : Unit) => ((), f i)) ()).2 :=
  (BitVec.iunfoldr_replace_snd (fun _ => ()) x () rfl fun i => congrArg ((), ·) (h i).symm).symm

/-- The bits of a field taken from a number. -/
theorem testBit_div_mod (x p w i : Nat) : (x / 2 ^ p % 2 ^ w).testBit i = (decide (i < w) && x.testBit (p + i)) := by
  rw [Nat.testBit_mod_two_pow, Nat.testBit_div_two_pow, Nat.add_comm]

/-- The sign of a field: its top bit. -/
theorem pow_le_iff_testBit {v w : Nat} (hv : v < 2 ^ (w + 1)) : 2 ^ w ≤ v ↔ v.testBit w = true := by
  refine ⟨fun h => ?_, Nat.ge_two_pow_of_testBit⟩
  rw [Nat.testBit_eq_decide_div_mod_eq, decide_eq_true_eq]
  have hq : v / 2 ^ w = 1 := Nat.div_eq_of_lt_le (by omega) (by rw [Nat.pow_succ] at hv; omega)
  rw [hq]

/-- A field of w bits with ones above it. -/
theorem testBit_onesAbove {v w i : Nat} (hw : w ≤ 32) (hv : v < 2 ^ w) (hi : i < 32) :
    (v + 2 ^ 32 - 2 ^ w).testBit i = if i < w then v.testBit i else true := by
  have hsplit : v + 2 ^ 32 - 2 ^ w = 2 ^ w * (2 ^ (32 - w) - 1) + v := by
    rw [Nat.mul_sub, ← Nat.pow_add, Nat.add_sub_cancel' hw]
    have : 2 ^ w ≤ 2 ^ 32 := Nat.pow_le_pow_right (by decide) hw
    omega
  rw [hsplit, Nat.testBit_two_pow_mul_add _ hv, Nat.testBit_two_pow_sub_one]
  split
  · rfl
  · exact decide_eq_true (by omega)

theorem bitExtract_eq_fieldTaken (n : Bool) (a b : Word) : bitExtract n a b = fieldTaken n a b := by
  have hw : fieldLen b ≤ 32 := Nat.le_trans (Nat.min_le_right ..) (Nat.sub_le ..)
  simp only [bitExtract, fieldTaken, bitField_eq]
  generalize fieldPos b = p at *
  generalize fieldLen b = w at *
  refine eq_iunfoldr fun ⟨i, hi⟩ => ?_
  cases w with
  | zero => simp
  | succ w =>
    have hv : a.toNat / 2 ^ p % 2 ^ (w + 1) < 2 ^ (w + 1) := Nat.mod_lt _ (Nat.two_pow_pos _)
    have hsign : 2 ^ w ≤ a.toNat / 2 ^ p % 2 ^ (w + 1) ↔ a.getLsbD (p + w) = true := by
      rw [pow_le_iff_testBit hv, testBit_div_mod, decide_eq_true (Nat.lt_succ_self w), Bool.true_and, BitVec.getLsbD]
    have hlow : (BitVec.ofNat 32 (a.toNat / 2 ^ p % 2 ^ (w + 1))).getLsbD i =
        if i < w + 1 then a.getLsbD (p + i) else false := by
      rw [BitVec.getLsbD_ofNat, testBit_div_mod]
      simp [hi, BitVec.getLsbD]
    have hhigh : (BitVec.ofNat 32 (a.toNat / 2 ^ p % 2 ^ (w + 1) + 2 ^ 32 - 2 ^ (w + 1))).getLsbD i =
        if i < w + 1 then a.getLsbD (p + i) else true := by
      rw [BitVec.getLsbD_ofNat, testBit_onesAbove hw hv hi, testBit_div_mod]
      split <;> simp_all [BitVec.getLsbD]
    simp only [Nat.succ_ne_zero, if_false, Nat.add_sub_cancel, hsign, Bool.decide_eq_true, ← Nat.add_assoc]
    cases hs : !n && a.getLsbD (p + w)
    · exact hlow
    · exact hhigh

theorem bitInsert_eq_fieldPut (d a b : Word) : bitInsert d a b = fieldPut d a b := by
  simp only [bitInsert, fieldPut, bitField_eq]
  generalize fieldPos b = p
  generalize fieldLen b = w
  refine eq_iunfoldr fun ⟨i, hi⟩ => ?_
  have hm : (BitVec.ofNat 32 ((2 ^ w - 1) * 2 ^ p)).getLsbD i = decide (p ≤ i ∧ i < p + w) := by
    rw [BitVec.getLsbD_ofNat, Nat.testBit_mul_two_pow, Nat.testBit_two_pow_sub_one]
    simp only [hi, decide_true, Bool.true_and, ← Bool.decide_and, decide_eq_decide]
    omega
  simp only [BitVec.getLsbD_or, BitVec.getLsbD_and, BitVec.getLsbD_not, BitVec.getLsbD_shiftLeft, hm, hi]
  by_cases h : p ≤ i ∧ i < p + w
  · simp [h]
  · simp [h]

/-! ## One operand (06 R182) -/

theorem iabs_eq_natAbs (n : Bool) (a : Word) :
    (if !n && a.msb then -a else a) = if n then a else BitVec.ofNat 32 a.toInt.natAbs := by
  cases n with
  | true => rfl
  | false =>
    apply BitVec.eq_of_toNat_eq
    have := a.isLt
    simp only [Bool.not_false, Bool.true_and, Bool.false_eq_true, if_false, BitVec.toInt_eq_msb_cond, BitVec.toNat_ofNat]
    split
    · rw [BitVec.toNat_neg]
      omega
    · omega

theorem onesBelow_eq_length (a : Word) (n : Nat) : onesBelow a n = ((List.range n).filter a.getLsbD).length := by
  induction n with
  | zero => rfl
  | succ n ih =>
    rw [onesBelow, ih, List.range_succ, List.filter_append, List.length_append]
    cases h : a.getLsbD n <;> simp [h]

theorem zerosAbove_eq_length (a : Word) (n : Nat) :
    zerosAbove a n = ((List.range n).takeWhile fun i => !a.getLsbD (n - 1 - i)).length := by
  induction n with
  | zero => rfl
  | succ n ih =>
    have hshift : (fun i => !a.getLsbD (n + 1 - 1 - i)) ∘ Nat.succ = fun i => !a.getLsbD (n - 1 - i) := by
      funext i
      simp only [Function.comp_apply, Nat.add_sub_cancel, Nat.succ_eq_add_one, Nat.sub_sub, Nat.add_comm]
    rw [zerosAbove, ih, List.range_succ_eq_map, List.takeWhile_cons, List.takeWhile_map, hshift]
    cases h : a.getLsbD n <;> simp [h]

theorem zerosAbove_word (a : Word) : zerosAbove a 32 = ((List.range 32).takeWhile fun i => !a.getLsbD (31 - i)).length :=
  zerosAbove_eq_length a 32

theorem reverse_eq_iunfoldr (a : Word) :
    a.reverse = (BitVec.iunfoldr (fun (i : Fin 32) (_ : Unit) => ((), a.getLsbD (31 - i.val))) ()).2 :=
  eq_iunfoldr fun i => by
    rw [BitVec.getLsbD_reverse, BitVec.getMsbD, decide_eq_true i.isLt, Bool.true_and]

/-! ## The classes of FP32 values (06 R192) -/

theorem signField_fp32 (a : Word) : fp32.signField a.toNat = a.getLsbD 31 := by
  rw [BitVec.getLsbD, Nat.testBit_eq_decide_div_mod_eq, Fmt.signField]
  rfl

theorem isSub_fp32 (b : Nat) : fp32.isSub b = decide (b / 2 ^ 23 % 256 = 0 ∧ b % 2 ^ 23 ≠ 0) := by
  rw [Bool.decide_and, decide_not]
  rfl

/-- An FP32 word's value by its exponent and mantissa fields. -/
theorem unpack_fp32 (b : Nat) : fp32.unpack b =
    if b / 2 ^ 23 % 256 = 255 then
      if b % 2 ^ 23 = 0 then .inf (fp32.signField b) else .nan !decide (2 ^ 22 ≤ b % 2 ^ 23)
    else .fin (fp32.signField b) (if b / 2 ^ 23 % 256 = 0 then b % 2 ^ 23 else b % 2 ^ 23 + 2 ^ 23)
      ((if b / 2 ^ 23 % 256 = 0 then (1 : Int) else ((b / 2 ^ 23 % 256 : Nat) : Int)) - 127 - 23) := by
  have htop : (b / 2 ^ 23 % 256 + 1 = 2 ^ 8) = (b / 2 ^ 23 % 256 = 255) := propext (by omega)
  have hquiet : (b % 2 ^ 23 / 2 ^ 22 == 0) = !decide (2 ^ 22 ≤ b % 2 ^ 23) := by
    rw [← decide_not, Bool.eq_iff_iff, beq_iff_eq, decide_eq_true_eq]
    omega
  simp only [← htop, ← hquiet]
  rfl

theorem fclass_eq_classOfFloat (a : Word) : fclass a.toNat = 2 ^ classOfFloat a := by
  simp only [fclass, classOfFloat, unpack_fp32, signField_fp32, isSub_fp32]
  generalize a.toNat / 2 ^ 23 % 256 = e
  generalize a.toNat % 2 ^ 23 = m
  by_cases he : e = 255
  · by_cases hm : m = 0
    · cases a.getLsbD 31 <;> simp [he, hm]
    · rcases Nat.lt_or_ge m 4194304 with hq | hq
      · simp [he, hm, Nat.not_le.mpr hq]
      · simp [he, hm, hq]
  · by_cases h0 : e = 0
    · by_cases hm : m = 0 <;> cases a.getLsbD 31 <;> simp [h0, hm]
    · cases a.getLsbD 31 <;> simp [he, h0]

end Sys2Proof.Proofs
end

section
/-! Integer instructions (06 R176 to R184), and the one-operand forms that round nothing (05 R168; 06 R188, R192). -/

namespace Sys2Proof.Proofs
open Sys2Proof Sys2Proof.Machine

/-! ## The shapes of the integer forms -/

theorem longOp_leaves {s : State} {i : Instr} {f : LR} {c : Ctx} (h : Runs s i (some f.gd) c) (hr : c.Readable [c.lrReg f] [])
    (op : Word → Word → Word → Word) :
    ∃ t, longOp i f s op = .next t ∧ c.Leaves t (c.afterReads [(c.lrReg f, f.l)] [])
      (c.wrote f.d.toNat fun l => op (c.slot f.d.toNat l) (c.slot f.a.toNat l) (c.gLane (c.lrReg f) l)) := by
  rw [longOp, withLR, withStrand_of_runs h]
  exact access_setSlot h [(c.lrReg f, f.l)] [] hr f.d.toNat fun _ => rfl

theorem shortOp_leaves {s : State} {i : Instr} {f : S16} {c : Ctx} (h : Runs s i none c) (hr : c.Readable [f.g.toNat] [])
    (op : Word → Word → Word → Word) :
    ∃ t, shortOp i f s op = .next t ∧ c.Leaves t (c.afterReads [(f.g.toNat, false)] [])
      (c.wrote f.d.toNat fun l => op (c.slot f.d.toNat l) (c.slot f.a.toNat l) (c.gLane f.g.toNat l)) := by
  rw [shortOp, withShort, withStrand_of_runs h]
  exact access_setSlot h [(f.g.toNat, false)] [] hr f.d.toNat fun _ => rfl

/-- Reads that the strand may make and then a write of the pair that starts at slot d, from values that the reads leave as they
were. -/
theorem access_setPair {s : State} {i : Instr} {g : Option Guard} {c : Ctx} (h : Runs s i g c) (gs : List (Nat × Bool))
    (ss : List Nat) (hr : c.Readable (gs.map (·.1)) ss) (d : Nat) {v : Ctx → Nat → DWord} (hv : ∀ w, v { c with w } = v c) :
    ∃ t, c.access gs ss (fun c => (c.setPair d (v c)).retire) = .next t ∧
      c.Leaves t (c.afterReads gs ss) (c.wrotePair d (v c)) := by
  obtain ⟨-, -, -, -, hw, hk, -⟩ := focusCtx_some h
  rw [access_of_readable hr hw, hv]
  have hp : (({ c with w := c.afterReads gs ss } : Ctx).setPair d (v c)).passed = c.wrotePair d (v c) := by
    simp only [Ctx.passed, Ctx.setPair, Ctx.setSlot, Strand.setSlotIn, hk]
    rfl
  exact hp ▸ retire_leaves (c' := ({ c with w := c.afterReads gs ss } : Ctx).setPair d (v c)) h rfl
    (afterReads_frame c gs ss).1 (afterReads_frame c gs ss).2 (show c.k.no = c.k0.no from congrArg Strand.no hk)

/-! ## Two operands (06 R177, R178, R183) -/

/-- Each LR form computes what the tables say. -/
theorem exec_longInteger : ∀ p ∈ longIntegers, ∀ (f : LR) (s : State),
    exec (p.1 f) s = longOp (p.1 f) f s (p.2 (f.m.getLsbD 0)) := by
  simp only [longIntegers, List.cons_append, List.nil_append, List.forall_mem_cons,
    ← hi_productWide, ← widen_mul_eq_productWide, ← intMin_eq_lesser, ← intMax_eq_greater, ← shiftLeft_eq_shiftedLeft,
    ← ushiftRight_eq_shiftedRight, ← sshiftRight_eq_shiftedArith, ← rotateLeft_eq_rotated, ← bitExtract_eq_fieldTaken,
    ← bitInsert_eq_fieldPut]
  exact ⟨fun _ _ => rfl, fun _ _ => rfl, fun _ _ => rfl, fun _ _ => rfl, fun _ _ => rfl, fun _ _ => rfl, fun _ _ => rfl,
    fun _ _ => rfl, fun _ _ => rfl, fun _ _ => rfl, fun _ _ => rfl, fun _ _ => rfl, fun _ _ => rfl, fun _ _ => rfl,
    fun _ _ => rfl, fun _ _ => rfl, fun _ _ => rfl, List.forall_mem_nil _⟩

/-- Settles O7: each form reads its register and writes slot d with the table's result. -/
theorem longIntegerResults : Obligations.LongIntegerResults := by
  intro p hp f s c h hr
  rw [exec_longInteger p hp]
  exact longOp_leaves h hr _

/-- Each S16 form computes what the tables say. -/
theorem exec_shortInteger : ∀ p ∈ shortIntegers, ∀ (f : S16) (s : State), exec (p.1 f) s = shortOp (p.1 f) f s p.2 := by
  simp only [shortIntegers, List.cons_append, List.nil_append, List.forall_mem_cons, ← intMin_eq_lesser,
    ← intMax_eq_greater, ← shiftLeft_eq_shiftedLeft, ← ushiftRight_eq_shiftedRight, ← sshiftRight_eq_shiftedArith]
  exact ⟨fun _ _ => rfl, fun _ _ => rfl, fun _ _ => rfl, fun _ _ => rfl, fun _ _ => rfl, fun _ _ => rfl, fun _ _ => rfl,
    fun _ _ => rfl, fun _ _ => rfl, fun _ _ => rfl, fun _ _ => rfl, fun _ _ => rfl, List.forall_mem_nil _⟩

/-- Settles O8: each form reads its register and writes slot d with the result of its LR form. -/
theorem shortIntegerResults : Obligations.ShortIntegerResults := by
  intro p hp f s c h hr
  rw [exec_shortInteger p hp]
  exact shortOp_leaves h hr _

/-! ## One operand (05 R168; 06 R182, R188, R192) -/

/-- Each form computes what the tables say. -/
theorem exec_unary : ∀ p ∈ unaries, ∀ (f : LR) (s : State),
    exec (p.1 f) s = unaryOp (p.1 f) f s (p.2 (f.m.getLsbD 0)) := by
  simp only [unaries, List.forall_mem_cons, ← iabs_eq_natAbs, ← onesBelow_eq_length, ← zerosAbove_word,
    ← reverse_eq_iunfoldr, ← fclass_eq_classOfFloat]
  exact ⟨fun _ _ => rfl, fun _ _ => rfl, fun _ _ => rfl, fun _ _ => rfl, fun _ _ => rfl, fun _ _ => rfl, fun _ _ => rfl,
    fun _ _ => rfl, fun _ _ => rfl, List.forall_mem_nil _⟩

/-- Settles O11: each form reads no register and writes slot d with the table's result. -/
theorem unaryResults : Obligations.UnaryResults := by
  intro p hp f s c h
  rw [exec_unary p hp]
  exact withStrand_setSlot h f.d.toNat fun c l => p.2 (f.m.getLsbD 0) (c.slot f.a.toNat l)

/-! ## 64 bits (06 R181) -/

/-- Settles O12: the product, sum or difference goes to the pair. -/
theorem wideIntegerResults : Obligations.WideIntegerResults := by
  refine ⟨?product, ?sums⟩
  case product =>
    intro f s c h hr
    change ∃ t, execImul64w f s = .next t ∧ _
    rw [execImul64w, withLR, withStrand_of_runs h]
    simp only [← widen_mul_eq_productWide]
    exact access_setPair h [(c.lrReg f, f.l)] [] hr f.d.toNat fun _ => rfl
  case sums =>
    intro p hp f s c h hr
    have hexec : exec (p.1 f) s = withLRPair (p.1 f) f s fun c g =>
        (c.setPair f.d.toNat fun l => p.2 (c.pair f.a.toNat l) (g l)).retire := by
      simp only [List.mem_cons, List.not_mem_nil, or_false] at hp
      rcases hp with rfl | rfl <;> rfl
    rw [hexec, withLRPair, withStrand_of_runs h]
    exact access_setPair h [(f.g.toNat, f.l), (f.g.toNat + 1, f.l)] [] hr f.d.toNat fun _ => rfl

/-! ## Division traps (06 R184) -/

/-- A trap other than POISON stops its warp, or in a trap kernel ends its gang (15 R397, R405). -/
theorem trap_traps {s : State} {i : Instr} {g : Option Guard} {c : Ctx} (h : Runs s i g c) (cause sub : Nat) (addr : DWord)
    (lanes : Mask) (hc : cause ≠ causePOISON) :
    ∃ t, c.trap cause sub addr lanes = .next t ∧ c.Traps t cause sub addr lanes := by
  by_cases hk : c.w0.kernel = none
  · obtain ⟨t, ht, htrapped⟩ := trap_trapped h cause sub addr lanes hk hc
    exact ⟨t, ht, fun _ => htrapped, fun hn => absurd hk hn⟩
  · obtain ⟨t, ht, hends⟩ := trap_endsGang h cause sub addr lanes hk
    exact ⟨t, ht, fun hn => absurd hn hk, fun _ => hends⟩

/-- Settles O13: both are the decode trap ILLEGAL, subcode 1. -/
theorem divisionTraps : Obligations.DivisionTraps := by
  intro f i hi s c h
  have hexec : exec i s = withStrand i (some f.gd) s fun c => c.decodeTrap causeILLEGAL 1 := by
    rcases hi with rfl | rfl <;> rfl
  rw [hexec, withStrand_of_runs h]
  exact trap_traps h causeILLEGAL 1 _ _ (by decide)

/-! ## Uniform operands (06 R180) -/

/-- Settles O14, form by form: reads and a write of slot d. -/
theorem uniformIntegerResults : Obligations.UniformIntegerResults := by
  refine ⟨?short, ?iadds, ?imas⟩
  case short =>
    intro f s c h hr
    change ∃ t, execIaddsShort f s = .next t ∧ _
    rw [execIaddsShort, withShortU, withStrand_of_runs h]
    exact access_setSlot h [] [f.g.toNat % 32] hr f.d.toNat fun _ => rfl
  case iadds =>
    intro f s c h hr
    change ∃ t, execIadds f s = .next t ∧ _
    rw [execIadds, withLS, withStrand_of_runs h]
    exact access_setSlot h [] [f.u.toNat] hr f.d.toNat fun _ => rfl
  case imas =>
    intro f s c h hr
    change ∃ t, execImas f s = .next t ∧ _
    rw [execImas, withLS, withStrand_of_runs h]
    exact access_setSlot h [(f.g.toNat, false)] [f.u.toNat] hr f.d.toNat fun _ => rfl

end Sys2Proof.Proofs
end

section
/-! Floating-point instructions that trap in no lane (03 R96, R99, R100; 06 R185 to R191, R195 to R199). -/

namespace Sys2Proof.Proofs
open Sys2Proof Sys2Proof.Machine

/-! ## The floating-point frame -/

/-- A strand instruction that reads no register runs as after no reads. -/
theorem withStrand_noReads {s : State} {i : Instr} {g : Option Guard} {c : Ctx} (h : Runs s i g c) (f : Ctx → Out) :
    withStrand i g s f = f { c with w := c.afterReads [] [] } := by
  obtain ⟨-, -, -, -, hw, -⟩ := focusCtx_some h
  rw [withStrand_of_runs h, show c.afterReads [] [] = c.w from hw.symm]

/-- A lane of a list over the 64 lanes. -/
theorem lane_map_lanes64 {α : Type} (d : α) (f : Nat → α) (l : Nat) : lane d (lanes64.map f) l = if l < 64 then f l else d := by
  simp only [lane, lanes64, List.getElem?_map]
  split
  · next h => rw [List.getElem?_range h, Option.map_some, Option.getD_some]
  · next h => rw [List.getElem?_eq_none (by simpa using h), Option.map_none, Option.getD_none]

/-- What a lane computes stands in its place among the results of all lanes. -/
theorem lane_fpOut (c : Ctx) (rm : Rm) (n : Nat) (op : Nat → List Nat → Nat × Flags) (l : Nat) :
    lane (0, 0) (lanes64.map (c.fpOut rm n op)) l = c.fpOut rm n op l := by
  rw [lane_map_lanes64]
  split
  · rfl
  · next h => rw [Ctx.fpOut, BitVec.getLsbD_of_ge _ _ (Nat.not_lt.mp h), if_neg Bool.false_ne_true]

/-- The end of a floating-point instruction: its results are written, and the generator keeps its steps. -/
def endFp (write : Ctx → (Nat → Nat) → Ctx) (v : Nat → Nat) (seed : DWord) (c : Ctx) : Out :=
  ({ write c v with k := { (write c v).k with rseed := seed } } : Ctx).retire

theorem fpFrame_eq (c : Ctx) (rm : Rm) (n : Nat) (op : Nat → List Nat → Nat × Flags) (write : Ctx → (Nat → Nat) → Ctx) :
    c.fpFrame rm n op write = c.exceptions (lanes64.map fun l => (c.fpOut rm n op l).2)
      (endFp write (fun l => (c.fpOut rm n op l).1) (c.draws rm n).2) := by
  have hv : (fun l => (c.fpOut rm n op l).1) = fun l => (lane (0, 0) (lanes64.map (c.fpOut rm n op)) l).1 := by
    simp only [lane_fpOut]
  rw [hv, ← Function.comp_def Prod.snd, ← List.map_map]
  rfl

/-- With no enabled exception raised, the flags stick and the instruction goes on. -/
theorem exceptions_of_not_enabled {c : Ctx} {fl : Lanes Flags} (hx : flagUnion fl &&& c.k0.excmask = 0) (f : Ctx → Out) :
    c.exceptions fl f = f { c with k := { c.k with fpflags := c.k.fpflags ||| flagUnion fl } } := by
  rw [Ctx.exceptions, firstTrap_none hx]

/-- An instruction that raises no enabled exception, and whose results make xs of the strand's slots, leaves those slots with
the flags and the generator, after its reads. -/
theorem fpFrame_leaves {s : State} {i : Instr} {g : Option Guard} {c : Ctx} (h : Runs s i g c) (gs : List (Nat × Bool))
    (ss : List Nat) {rm : Rm} {n : Nat} {op : Nat → List Nat → Nat × Flags} (hx : c.raised rm n op &&& c.k0.excmask = 0)
    {write : Ctx → (Nat → Nat) → Ctx} {xs : List (Lanes Word)}
    (hwrite : ∀ w fl, write { c with w, k := { c.k0 with fpflags := fl } } (fun l => (c.fpOut rm n op l).1) =
      { c with w, k := { c.k0 with fpflags := fl, slots := xs } }) :
    ∃ t, ({ c with w := c.afterReads gs ss } : Ctx).fpFrame rm n op write = .next t ∧
      c.Leaves t (c.afterReads gs ss) { c.fpPast rm n op with slots := xs } := by
  obtain ⟨-, -, -, -, -, hk, -⟩ := focusCtx_some h
  have hend : ({ c with w := c.afterReads gs ss } : Ctx).fpFrame rm n op write = ({ c with
      w := c.afterReads gs ss, k := { c.k0 with fpflags := c.k0.fpflags ||| c.raised rm n op, slots := xs,
                                                rseed := (c.draws rm n).2 } } : Ctx).retire := by
    refine (fpFrame_eq ..).trans ((exceptions_of_not_enabled (c := { c with w := c.afterReads gs ss }) hx _).trans ?_)
    rw [hk]
    exact congrArg (fun d : Ctx => ({ d with k := { d.k with rseed := (c.draws rm n).2 } } : Ctx).retire) (hwrite _ _)
  rw [hend]
  exact retire_leaves h rfl (afterReads_frame c gs ss).1 (afterReads_frame c gs ss).2 rfl

/-- Such an instruction that writes a word of slot d in each lane. -/
theorem fpFrame_writeWord {s : State} {i : Instr} {g : Option Guard} {c : Ctx} (h : Runs s i g c) (gs : List (Nat × Bool))
    (ss : List Nat) {rm : Rm} {n : Nat} {op : Nat → List Nat → Nat × Flags} (hx : c.raised rm n op &&& c.k0.excmask = 0)
    (d : Nat) : ∃ t, ({ c with w := c.afterReads gs ss } : Ctx).fpFrame rm n op (writeWord d) = .next t ∧
      c.Leaves t (c.afterReads gs ss) (c.fpWrote d rm n op) :=
  fpFrame_leaves h gs ss hx fun _ _ => rfl

/-- The same after reads that the strand may make. -/
theorem access_writeWord {s : State} {i : Instr} {g : Option Guard} {c : Ctx} (h : Runs s i g c) (gs : List (Nat × Bool))
    (ss : List Nat) (hr : c.Readable (gs.map (·.1)) ss) {rm : Rm} {n : Nat} {op : Nat → List Nat → Nat × Flags}
    (hx : c.raised rm n op &&& c.k0.excmask = 0) {d : Nat} {body : Ctx → Out}
    (hbody : body { c with w := c.afterReads gs ss } =
      ({ c with w := c.afterReads gs ss } : Ctx).fpFrame rm n op (writeWord d)) :
    ∃ t, c.access gs ss body = .next t ∧ c.Leaves t (c.afterReads gs ss) (c.fpWrote d rm n op) := by
  obtain ⟨-, -, -, -, hw, -⟩ := focusCtx_some h
  rw [access_of_readable hr hw, hbody]
  exact fpFrame_writeWord h gs ss hx d

/-! ## One operand (06 R189 to R191) -/

/-- Each form rounds, or computes without rounding, what its row says. -/
theorem exec_unaryFp : ∀ p ∈ unaryFps, ∀ (f : LR) (s : State), exec (p.make f) s = withLR0 (p.make f) f s fun c =>
    c.fpFrame (p.mode (c.rounding (lrRound f))) p.n
      (fun l => p.op (c.rounding (lrRound f)) (c.lrFtz f) 0 (c.slot f.a.toNat l) 0) (writeWord f.d.toNat) := by
  simp only [unaryFps, List.forall_mem_cons]
  refine ⟨fun _ _ => rfl, fun _ _ => rfl, fun _ _ => rfl, fun _ _ => rfl, fun _ _ => rfl, fun _ _ => rfl, fun _ _ => rfl,
    fun _ _ => rfl, fun f s => ?frnd, List.forall_mem_nil _⟩
  case frnd =>
    change execFrnd f s = _
    rw [execFrnd]
    congr 1
    funext c
    cases c.rounding (lrRound f) <;> rfl

/-- Settles O17: each form is a floating-point frame with no reads. -/
theorem unaryFpResults : Obligations.UnaryFpResults := by
  refine ⟨?long, ?frcpShort⟩
  case long =>
    intro p hp f s c h rm op hx
    rw [exec_unaryFp p hp, withLR0, withStrand_noReads h]
    exact fpFrame_writeWord h [] [] hx f.d.toNat
  case frcpShort =>
    intro f s c h rm op hx
    change ∃ t, execFrcpShort f s = .next t ∧ _
    rw [execFrcpShort, withStrand_noReads h]
    exact fpFrame_writeWord h [] [] hx f.d.toNat

/-! ## A uniform register or an immediate (06 R187) -/

theorem exec_shortUniformFp : ∀ p ∈ shortUniformFps, ∀ (f : S16) (s : State),
    exec (p.make f) s = withShortU (p.make f) f s fun c => c.fpFrame (c.rounding 0) 1
      (fun l => p.op (c.rounding 0) c.k0.ftz (c.slot f.d.toNat l) (c.slot f.a.toNat l) (c.sReg (f.g.toNat % 32)))
      (writeWord f.d.toNat) := by
  simp only [shortUniformFps, List.forall_mem_cons]
  exact ⟨fun _ _ => rfl, fun _ _ => rfl, List.forall_mem_nil _⟩

theorem exec_longUniformFp : ∀ p ∈ longUniformFps, ∀ (f : LS) (s : State),
    exec (p.make f) s = withLS (p.make f) f false s fun c => c.fpFrame (c.rounding f.m.toNat) 1
      (fun l => p.op (c.rounding f.m.toNat) c.k0.ftz (c.slot f.d.toNat l) (c.slot f.a.toNat l) (c.sReg f.u.toNat))
      (writeWord f.d.toNat) := by
  simp only [longUniformFps, List.forall_mem_cons]
  exact ⟨fun _ _ => rfl, fun _ _ => rfl, fun _ _ => rfl, List.forall_mem_nil _⟩

theorem exec_immediateFp : ∀ p ∈ immediateFps, ∀ (f : LI) (s : State),
    exec (p.make f) s = withLI (p.make f) s fun c => c.fpFrame (c.rounding 0) 1
      (fun l => p.op (c.rounding 0) c.k0.ftz (c.slot f.d.toNat l) (c.slot f.a.toNat l) (f.imm ++ 0#16))
      (writeWord f.d.toNat) := by
  simp only [immediateFps, List.forall_mem_cons]
  exact ⟨fun _ _ => rfl, fun _ _ => rfl, fun _ _ => rfl, List.forall_mem_nil _⟩

/-- Settles O18: each form is its reads and a floating-point frame. -/
theorem uniformFpResults : Obligations.UniformFpResults := by
  refine ⟨?short, ?long, ?fmas, ?immediate⟩
  case short =>
    intro p hp f s c h hr rm op hx
    rw [exec_shortUniformFp p hp, withShortU, withStrand_of_runs h]
    exact access_writeWord h [] [f.g.toNat % 32] hr hx rfl
  case long =>
    intro p hp f s c h hr rm op hx
    rw [exec_longUniformFp p hp, withLS, withStrand_of_runs h]
    exact access_writeWord h [] [f.u.toNat] hr hx rfl
  case fmas =>
    intro f s c h hr rm op hx
    change ∃ t, execFmas f s = .next t ∧ _
    rw [execFmas, uniformFp, withLS, withStrand_of_runs h]
    exact access_writeWord h [(f.g.toNat, false)] [f.u.toNat] hr hx rfl
  case immediate =>
    intro p hp f s c h rm op hx
    rw [exec_immediateFp p hp, withLI, withStrand_noReads h]
    exact fpFrame_writeWord h [] [] hx f.d.toNat

/-! ## Conversions (06 R195 to R199) -/

/-- Settles O19, conversion by conversion: a floating-point frame with no reads, which writes a slot, a pair, or a byte of a
slot. -/
theorem conversionResults : Obligations.ConversionResults := by
  refine ⟨?cvti, ?cvtf, ?cvtfShort, ?pack2, ?unpk2, ?cvtn⟩
  case cvti =>
    intro f s c h rm hx
    change ∃ t, execCvti f s = .next t ∧ _
    rw [execCvti, withLR0, withStrand_noReads h]
    dsimp only
    split
    · exact fpFrame_leaves h [] [] hx fun _ _ => rfl
    · exact fpFrame_writeWord h [] [] hx f.d.toNat
  case cvtf =>
    intro f s c h rm hx
    change ∃ t, execCvtf f s = .next t ∧ _
    rw [execCvtf, withLR0, withStrand_noReads h]
    exact fpFrame_writeWord h [] [] hx f.d.toNat
  case cvtfShort =>
    intro f s c h rm hx
    change ∃ t, execCvtfF32I32 f s = .next t ∧ _
    rw [execCvtfF32I32, withStrand_noReads h]
    exact fpFrame_writeWord h [] [] hx f.d.toNat
  case pack2 =>
    intro f s c h rm hx
    change ∃ t, execPack2 f s = .next t ∧ _
    rw [execPack2, withLR0, withStrand_noReads h]
    exact fpFrame_writeWord h [] [] hx f.d.toNat
  case unpk2 =>
    intro f s c h hx
    change ∃ t, execUnpk2 f s = .next t ∧ _
    rw [execUnpk2, withLR0, withStrand_noReads h]
    exact fpFrame_writeWord h [] [] hx f.d.toNat
  case cvtn =>
    intro f s c h rm hx
    change ∃ t, execCvtn f s = .next t ∧ _
    rw [execCvtn, withLR0, withStrand_noReads h]
    exact fpFrame_leaves h [] [] hx fun _ _ => rfl

end Sys2Proof.Proofs
end

section
/-! Accesses to the W and A buffers (07 R205, R212 to R216). -/

namespace Sys2Proof.Proofs
open Sys2Proof Sys2Proof.Machine

/-- Each buffer load is the model's load of its form, whose offset counts in units of its size. -/
theorem exec_bufferLoad {i : Instr} {a : BufferForm} (ha : bufferLoadForm i = some a) (s : State) :
    ∃ imm, a.off = imm * a.size ∧
      exec i s = withStrand i none s fun c => c.bufLoad a.size a.slot a.g imm a.wbuf a.peer := by
  unfold bufferLoadForm at ha
  split at ha <;> cases ha
  case h_1 f => exact ⟨0, rfl, rfl⟩
  case h_2 f => exact ⟨f.imm.toNat, rfl, rfl⟩
  case h_3 f => exact ⟨f.imm.toNat, rfl, rfl⟩
  case h_4 f => exact ⟨f.imm.toNat, rfl, rfl⟩

/-- Each buffer store is the model's store of its form, to its own team's A. -/
theorem exec_bufferStore {i : Instr} {a : BufferForm} (ha : bufferStoreForm i = some a) (s : State) :
    (∃ imm, a.off = imm * a.size ∧ exec i s = withStrand i none s fun c => c.bufStore a.size a.slot a.g imm) ∧
    a.wbuf = false ∧ a.peer = none := by
  unfold bufferStoreForm at ha
  split at ha <;> cases ha
  case h_1 f => exact ⟨⟨0, rfl, rfl⟩, rfl, rfl⟩
  case h_2 f => exact ⟨⟨f.imm.toNat, rfl, rfl⟩, rfl, rfl⟩
  case h_3 f => exact ⟨⟨f.imm.toNat, rfl, rfl⟩, rfl, rfl⟩

theorem bufOffset_eq_bufferAt (c : Ctx) {a : BufferForm} {imm : Nat} (h : a.off = imm * a.size) :
    c.bufOffset a.g imm a.size = c.bufferAt a := by
  funext l
  rw [Ctx.bufOffset, Ctx.bufferAt, h]

/-- An access that R212 accepts goes on past every check. -/
theorem bufferChecks_of_accepts {c : Ctx} {a : BufferForm} (h : c.bufferAccepts a) (f : Out) :
    c.bufferChecks a.size a.wbuf a.peer (c.bufferAt a) f = f := by
  obtain ⟨hpeer, hlanes⟩ := h
  have haligned : (c.lanes.any fun l => c.bufferAt a l % a.size != 0) = false :=
    List.any_eq_false.mpr fun l hl => by simp [(hlanes l hl).1]
  have hinside : (c.lanes.any fun l => decide (c.bufferLength a < c.bufferAt a l + a.size)) = false :=
    List.any_eq_false.mpr fun l hl => by simpa using (hlanes l hl).2
  unfold Ctx.bufferLength at hinside
  unfold Ctx.bufferChecks
  cases hp : a.peer with
  | none =>
    rw [hp] at hinside
    simp only [haligned, hinside, Bool.false_eq_true, if_false]
  | some p =>
    have hthere : decide (c.g.cores.length ≤ p) = false := decide_eq_false (Nat.not_le.mpr (hpeer p hp))
    rw [hp] at hinside
    simp only [hthere, haligned, hinside, Bool.false_eq_true, if_false]

/-- An operation that an instruction starts after its reads, and that changes nothing else. -/
theorem start_reads_leaves {s : State} {i : Instr} {g : Option Guard} {c : Ctx} (h : Runs s i g c) (gs : List (Nat × Bool))
    (ss : List Nat) (cl : CounterClass) (q : Option EngineQueue) (body : OpBody) :
    ∃ t, (({ c with w := c.afterReads gs ss } : Ctx).start (some cl) q body).retire = .next t ∧
      c.LeavesFrom (c.begun c.s q body) t (c.afterReads gs ss) (c.counted c.s.nextId cl) :=
  start_leaves h _ (afterReads_frame c gs ss).1 (afterReads_frame c gs ss).2 c.s rfl rfl cl q body

/-- Settles O36: a buffer access is its read, the waits of R126 and the checks of R212, none of which stops it here, and then
its operation. -/
theorem bufferAccessesIssue : Obligations.BufferAccessesIssue := by
  refine ⟨?load, ?store⟩
  case load =>
    intro i a ha s c h hr hld hok
    obtain ⟨-, -, -, -, hw, -⟩ := focusCtx_some h
    obtain ⟨imm, hoff, hexec⟩ := exec_bufferLoad ha s
    have hgrant := grantWait_ld (c := { c with w := c.afterReads [(a.g, false)] [] }) hld
    have hchecks := bufferChecks_of_accepts (c := { c with w := c.afterReads [(a.g, false)] [] }) hok
    rw [hexec, withStrand_of_runs h, Ctx.bufLoad, access_of_readable hr hw]
    simp only [hgrant, bufOffset_eq_bufferAt _ hoff, hchecks]
    exact start_reads_leaves h [(a.g, false)] [] .ld none _
  case store =>
    intro i a ha s c h hr hst hq hok
    obtain ⟨-, -, -, -, hw, -⟩ := focusCtx_some h
    obtain ⟨⟨imm, hoff, hexec⟩, hbuf, hpeer⟩ := exec_bufferStore ha s
    have hgrant := grantWait_st (c := { c with w := c.afterReads [(a.g, false)] [] }) hst hq
    have hchecks := bufferChecks_of_accepts (c := { c with w := c.afterReads [(a.g, false)] [] }) hok
    rw [hbuf, hpeer] at hchecks
    rw [hexec, withStrand_of_runs h, Ctx.bufStore, access_of_readable hr hw]
    simp only [hgrant, bufOffset_eq_bufferAt _ hoff, hchecks]
    exact start_reads_leaves h [(a.g, false)] [] .st (some .st) _

end Sys2Proof.Proofs
end

section
/-! The rack instructions (07 R217 to R221, R224). -/

namespace Sys2Proof.Proofs
open Sys2Proof Sys2Proof.Machine

theorem notInKernel_of_ne {c : Ctx} (h : c.ref.no ≠ kernelNo) (f : Out) : c.notInKernel f = f := by
  have hc : c.handler = false := beq_eq_false_iff_ne.mpr h
  rw [Ctx.notInKernel, hc]
  rfl

/-! ## An instruction that changes its rack -/

/-- An instruction that retires with its strand changed, over a state whose warps and clock are as it found them. -/
theorem retire_over {s : State} {i : Instr} {g : Option Guard} {c : Ctx} (h : Runs s i g c) (b : State)
    (hb : b.warps = c.s.warps) (k : Strand) (hn : k.no = c.k0.no) :
    ∃ t, ({ c with s := b, k } : Ctx).retire = .next t ∧ c.LeavesFrom b t c.w0 ({ c with s := b, k } : Ctx).passed := by
  obtain ⟨-, -, -, -, hw, -⟩ := focusCtx_some h
  have hl := leavesFrom_of h b c.w ({ c with s := b, k } : Ctx).passed hb (congrArg Warp.uid hw)
    (fun n => congrArg (·.strandAt n) hw) hn
  exact ⟨_, rfl, hw ▸ hl⟩

theorem setRack_retire {s : State} {i : Instr} {g : Option Guard} {c : Ctx} (h : Runs s i g c) (q : Nat) (r : Rack) :
    ∃ t, (c.setRack q r).retire = .next t ∧ c.LeavesFrom (c.withRackSet q r) t c.w0 c.past := by
  obtain ⟨-, -, -, -, -, hk, -⟩ := focusCtx_some h
  have hp : (c.setRack q r).passed = c.past := by
    simp only [Ctx.passed, Ctx.setRack, hk]
    rfl
  exact hp ▸ retire_over h (c.withRackSet q r) rfl c.k (congrArg Strand.no hk)

theorem setRack_setPair_retire {s : State} {i : Instr} {g : Option Guard} {c : Ctx} (h : Runs s i g c) (q : Nat) (r : Rack)
    (d : Nat) (v : Nat → DWord) :
    ∃ t, ((c.setRack q r).setPair d v).retire = .next t ∧ c.LeavesFrom (c.withRackSet q r) t c.w0 (c.wrotePair d v) := by
  obtain ⟨-, -, -, -, -, hk, -⟩ := focusCtx_some h
  have hp : ((c.setRack q r).setPair d v).passed = c.wrotePair d v := by
    simp only [Ctx.passed, Ctx.setPair, Ctx.setSlot, Ctx.setRack, Strand.setSlotIn, hk]
    rfl
  exact hp ▸ retire_over h (c.withRackSet q r) rfl ((c.setRack q r).setPair d v).k
    (show c.k.no = c.k0.no from congrArg Strand.no hk)

/-! ## Racks -/

/-- The status word, written with its fields' weights first (R221). -/
theorem status_eq (r : Rack) (seq : BitVec 16) (j : Nat) : r.status seq j =
    BitVec.ofNat 32 (65536 * seq.toNat + 4096 * j + 32 * r.countOf .filled + r.countOf .free) := by
  simp only [Rack.status, Nat.mul_comm]

theorem canAcquire_iff (r : Rack) : r.canAcquire = true ↔ (r.slot r.pcur).1 = .free := by
  simp [Rack.canAcquire]
theorem canAwait_iff (r : Rack) : r.canAwait = true ↔ 0 < r.ahead ∧ (r.slot r.ccur).1 = .filled := by
  simp [Rack.canAwait]

/-- A rack whose first slots are all free holds no slot that forbids RKINIT (R224). -/
theorem any_not_free_eq_false {r : Rack} (h : ∀ j < r.n, ∀ x, r.slots[j]? = some x → x.1 = .free) :
    ((r.slots.take r.n).any fun x => x.1 != .free) = false := by
  refine List.any_eq_false.mpr fun x hx => ?_
  obtain ⟨j, hj⟩ := List.mem_iff_getElem?.mp hx
  rw [List.getElem?_take] at hj
  split at hj
  case isTrue hlt => simp [h j hlt x hj]
  case isFalse => cases hj

/-- The rack with the slot at its consumer cursor given up, as RKREL.skip does: a filled one is free at once, and one held or
pending is dropped (R219). -/
def passedOver (r : Rack) : Rack :=
  match (r.slot r.ccur).1 with
  | .filled => r.setSlot r.ccur .free 0
  | .held => r.setSlot r.ccur .droppedHeld (r.slot r.ccur).2
  | .pending => r.setSlot r.ccur .droppedPending (r.slot r.ccur).2
  | _ => r

theorem passedOver_frame (r : Rack) : passedOver r = { r with slots := (passedOver r).slots } := by
  unfold passedOver
  split <;> rfl

theorem withRack_of_hasRack {c : Ctx} {q : Nat} {r : Rack} (h : c.HasRack q r) (hi : r.init = true) (f : Rack → Out) :
    c.withRack q true (fun _ => f) = f r := by
  obtain ⟨t, ht, hr⟩ := h
  simp only [Ctx.withRack, ht, hr, hi, Bool.not_true, Bool.and_false, Bool.false_eq_true, if_false]

theorem withIndex_of_lt {c : Ctx} {q a : Nat} {r : Rack} (h : field (c.slot a (c.leader.getD 0)) 15 12 < r.n)
    (f : Nat → Out) : c.withIndex q a r f = f (field (c.slot a (c.leader.getD 0)) 15 12) := by
  rw [Ctx.withIndex, if_neg (Nat.not_le.mpr h)]

/-! ## The instructions on a rack of the team -/

section OnRack
variable {s : State} {c : Ctx} {f : RackF} {r : Rack}

theorem exec_rkacq (h : Runs s (.rkacq f) none c) (hk : c.ref.no ≠ kernelNo) (hr : c.HasRack f.rack.toNat r)
    (hi : r.init = true) :
    let r' := { r.setSlot r.pcur .held c.owner with pcur := (r.pcur + 1) % r.n, ahead := r.ahead + 1, pseq := r.pseq + 1 }
    exec (.rkacq f) s = if !r.canAcquire then c.stall (.rackAcquire f.rack.toNat) else
      ((c.setRack f.rack.toNat r').rackPair f.d.toNat (r.offset r.pcur) (r'.status r.pseq r.pcur)).retire := by
  change execRkacq f s = _
  rw [execRkacq, withStrand_of_runs h, notInKernel_of_ne hk]
  exact withRack_of_hasRack hr hi _

theorem exec_rkawait (h : Runs s (.rkawait f) none c) (hk : c.ref.no ≠ kernelNo) (hr : c.HasRack f.rack.toNat r)
    (hi : r.init = true) :
    let r' := { r.setSlot r.ccur .taken c.owner with ccur := (r.ccur + 1) % r.n, ahead := r.ahead - 1, cseq := r.cseq + 1 }
    exec (.rkawait f) s = if !r.canAwait then c.stall (.rackAwait f.rack.toNat) else
      ((c.setRack f.rack.toNat r').rackPair f.d.toNat (r.offset r.ccur) (r'.status r.cseq r.ccur)).retire := by
  change execRkawait f s = _
  rw [execRkawait, withStrand_of_runs h, notInKernel_of_ne hk]
  exact withRack_of_hasRack hr hi _

theorem exec_rkpub_waits (h : Runs s (.rkpub f) none c) (hk : c.ref.no ≠ kernelNo) (hst : c.k0.st ≠ []) :
    exec (.rkpub f) s = c.stall (.counters 63 0 15 7) := by
  change execRkpub f s = _
  rw [execRkpub, withStrand_of_runs h, notInKernel_of_ne hk]
  simp [hst]

/-- RKREL and RKREL.skip wait alike while LD or ST is not 0 (R220). -/
theorem exec_rkrel_waits {i : Instr} (hi : i = .rkrel f ∨ i = .rkrelSkip f) (h : Runs s i none c)
    (hk : c.ref.no ≠ kernelNo) (hc : ¬(c.k0.ld = [] ∧ c.k0.st = [])) :
    exec i s = c.stall (.counters 0 0 15 7) := by
  have hb : (!(c.k0.ld.isEmpty && c.k0.st.isEmpty)) = true := by
    rw [Bool.not_eq_true', Bool.eq_false_iff, Ne, Bool.and_eq_true, List.isEmpty_iff, List.isEmpty_iff]
    exact hc
  rcases hi with rfl | rfl
  · change execRkrel f s = _
    rw [execRkrel, withStrand_of_runs h, notInKernel_of_ne hk, if_pos hb]
  · change execRkrelSkip f s = _
    rw [execRkrelSkip, withStrand_of_runs h, notInKernel_of_ne hk, if_pos hb]

theorem exec_rkpub (h : Runs s (.rkpub f) none c) (hk : c.ref.no ≠ kernelNo) (hr : c.HasRack f.rack.toNat r)
    (hi : r.init = true) (hst : c.k0.st = []) {j : Nat} (hj : field (c.slot f.a.toNat (c.leader.getD 0)) 15 12 = j)
    (hlt : j < r.n) {x : RackSlot}
    (hx : r.slot j = (.held, c.owner) ∧ x = .filled ∨ r.slot j = (.droppedHeld, c.owner) ∧ x = .free) :
    exec (.rkpub f) s = (c.setRack f.rack.toNat (r.setSlot j x 0)).retire := by
  subst hj
  change execRkpub f s = _
  rw [execRkpub, withStrand_of_runs h, notInKernel_of_ne hk]
  simp only [hst, List.isEmpty_nil, Bool.not_true, Bool.false_eq_true, if_false, withRack_of_hasRack hr hi, withIndex_of_lt hlt]
  rcases hx with ⟨hslot, rfl⟩ | ⟨hslot, rfl⟩ <;> simp [hslot]

theorem exec_rkrel (h : Runs s (.rkrel f) none c) (hk : c.ref.no ≠ kernelNo) (hr : c.HasRack f.rack.toNat r)
    (hi : r.init = true) (hld : c.k0.ld = []) (hst : c.k0.st = []) {j : Nat}
    (hj : field (c.slot f.a.toNat (c.leader.getD 0)) 15 12 = j) (hlt : j < r.n) (hslot : r.slot j = (.taken, c.owner)) :
    exec (.rkrel f) s = (c.setRack f.rack.toNat (r.setSlot j .free 0)).retire := by
  subst hj
  change execRkrel f s = _
  rw [execRkrel, withStrand_of_runs h, notInKernel_of_ne hk]
  simp only [hld, hst, List.isEmpty_nil, Bool.and_self, Bool.not_true, Bool.false_eq_true, if_false,
    withRack_of_hasRack hr hi, withIndex_of_lt hlt, hslot, and_self, if_true]

theorem exec_rkrelSkip (h : Runs s (.rkrelSkip f) none c) (hk : c.ref.no ≠ kernelNo) (hr : c.HasRack f.rack.toNat r)
    (hi : r.init = true) (hld : c.k0.ld = []) (hst : c.k0.st = []) (ha : 0 < r.ahead) :
    exec (.rkrelSkip f) s = (c.setRack f.rack.toNat { r with
      ccur := (r.ccur + 1) % r.n, ahead := r.ahead - 1, cseq := r.cseq + 1, slots := (passedOver r).slots }).retire := by
  have hexec : execRkrelSkip f s = (c.setRack f.rack.toNat { passedOver r with
      ccur := (r.ccur + 1) % (passedOver r).n, ahead := (passedOver r).ahead - 1, cseq := (passedOver r).cseq + 1 }).retire := by
    rw [execRkrelSkip, withStrand_of_runs h, notInKernel_of_ne hk]
    simp only [hld, hst, List.isEmpty_nil, Bool.and_self, Bool.not_true, Bool.false_eq_true, if_false,
      withRack_of_hasRack hr hi, Nat.ne_of_gt ha]
    rfl
  rw [passedOver_frame] at hexec
  exact hexec

end OnRack

theorem exec_rkinit {s : State} {c : Ctx} {f : RackInitF} {r : Rack} (h : Runs s (.rkinit f) none c)
    (hk : c.ref.no ≠ kernelNo) (hr : c.HasRack f.rack.toNat r)
    (hfits : 64 * f.base.toNat + (f.count.toNat + 1) * (64 * (f.size.toNat + 1)) ≤ c.bufLimit false)
    (hfree : r.init = true → ∀ j < r.n, ∀ x, r.slots[j]? = some x → x.1 = .free) :
    exec (.rkinit f) s = (c.setRack f.rack.toNat
      { init := true, base := f.base, size := f.size, count := f.count, pcur := 0, ccur := 0, ahead := 0, pseq := 0,
        cseq := 0, slots := List.replicate 16 (.free, 0) }).retire := by
  obtain ⟨t, ht, hq⟩ := hr
  have hlimit : c.bufLimit false = t.a.limit := by
    rw [Ctx.bufLimit, ht]
    rfl
  have hroom : ¬ t.a.limit < 64 * f.base.toNat + (f.count.toNat + 1) * 64 * (f.size.toNat + 1) := by
    rw [← hlimit, Nat.mul_assoc]
    exact Nat.not_lt.mpr hfits
  have hunused : (r.init && (r.slots.take r.n).any fun x => x.1 != .free) = false := by
    cases hi : r.init with
    | false => rfl
    | true => exact any_not_free_eq_false (hfree hi)
  change execRkinit f s = _
  rw [execRkinit, withStrand_of_runs h, notInKernel_of_ne hk]
  simp only [Ctx.withRack, ht, hq, Bool.false_and, Bool.false_eq_true, if_false, hroom, hunused]

/-! ## The obligation -/

/-- Settles O45, instruction by instruction: each is its equation above, and then a wait, or the rack set with the strand past
its instruction or its pair written. -/
theorem rackInstructions : Obligations.RackInstructions := by
  intro q r s c hk hr
  refine ⟨?init, fun hi f hq => ?onRack⟩
  case init =>
    intro f hq h hfits hfree
    subst hq
    rw [exec_rkinit h hk hr hfits hfree]
    exact setRack_retire h _ _
  case onRack =>
    subst hq
    intro status took named passed holds
    refine ⟨?acquire, ?await, ?publishWaits, ?releaseWaits, ?publish, ?release, ?skip⟩
    case acquire =>
      intro h r'
      rw [exec_rkacq h hk hr hi]
      split
      case isTrue hfree =>
        rw [(canAcquire_iff r).mpr hfree, status_eq]
        exact setRack_setPair_retire h _ r' _ _
      case isFalse hfree =>
        rw [Bool.eq_false_iff.mpr (mt (canAcquire_iff r).mp hfree)]
        exact waits_of h c.w _
    case await =>
      intro h r'
      rw [exec_rkawait h hk hr hi]
      split
      case isTrue hfilled =>
        rw [(canAwait_iff r).mpr hfilled, status_eq]
        exact setRack_setPair_retire h _ r' _ _
      case isFalse hfilled =>
        rw [Bool.eq_false_iff.mpr (mt (canAwait_iff r).mp hfilled)]
        exact waits_of h c.w _
    case publishWaits =>
      intro h hst
      rw [exec_rkpub_waits h hk hst]
      exact waits_of h c.w _
    case releaseWaits =>
      intro i hi' h hc
      rw [exec_rkrel_waits hi' h hk hc]
      exact waits_of h c.w _
    case publish =>
      intro h hst hlt x hx
      rw [exec_rkpub h hk hr hi hst rfl hlt hx]
      exact setRack_retire h _ _
    case release =>
      intro h hld hst hlt hslot
      rw [exec_rkrel h hk hr hi hld hst rfl hlt hslot]
      exact setRack_retire h _ _
    case skip =>
      intro h hld hst ha
      rw [exec_rkrelSkip h hk hr hi hld hst ha]
      exact setRack_retire h _ _

end Sys2Proof.Proofs
end

section
/-! The synchronous tile instructions (08 R231, R239, R240, R244 to R248, R250). -/

namespace Sys2Proof.Proofs
open Sys2Proof Sys2Proof.Machine

/-! ## A strand's tile -/

theorem withTile_of_bound {c : Ctx} {b : TileBind} {allows : Bool → Bool} (hb : c.k0.bind = some b)
    (ha : allows b.int = true) (f : TileBind → Out) : c.withTile allows f = f b := by
  rw [Ctx.withTile, hb]
  exact if_pos ha

theorem withTile_of_unbound {c : Ctx} (hb : c.k0.bind = none) (allows : Bool → Bool) (f : TileBind → Out) :
    c.withTile allows f = c.tileTrap 0 := by
  rw [Ctx.withTile, hb]

theorem countFrom_eq_map (a n : Nat) : countFrom a n = (List.range n).map (a + ·) := by
  have hrange : countFrom a n = List.range' a n := by
    induction n generalizing a with
    | zero => rfl
    | succ n ih => rw [countFrom, ih, List.range'_succ]
  rw [hrange, List.range'_eq_map_range]

theorem tileCols_eq_columnsOf (f : TileF) : tileCols f = columnsOf f := countFrom_eq_map _ _

/-- Tiles and their marks written. -/
theorem clearTile_setTile_frame (w : Warp) (cluster p : Nat) (t : Tile) (rows cols : List Nat) :
    { (w.setTile cluster p t).clearTile cluster p rows cols with tiles := w.tiles, tilePoison := w.tilePoison } = w := by
  unfold Warp.clearTile
  split <;> rfl

/-- A warp that differs from another in its tiles alone has its number and its strands. -/
theorem strands_of_tiles {u w : Warp} (h : { u with tiles := w.tiles, tilePoison := w.tilePoison } = w) :
    u.uid = w.uid ∧ ∀ n, u.strandAt n = w.strandAt n := by
  have hu := congrArg Warp.uid h
  have hs (n : Nat) := congrArg (·.strandAt n) h
  exact ⟨hu, hs⟩

/-! ## What a read of the tile sees (R239) -/

theorem valuesOf_ne_nil (elem : Nat) (as : List EngineAct) (v : Nat) : valuesOf elem as v ≠ [] := by
  cases as <;> simp [valuesOf]

theorem getElem?_mod_mem {α : Type} {xs : List α} (h : xs ≠ []) (n : Nat) (d : α) :
    (xs[n % xs.length]?).getD d ∈ xs := by
  rw [List.getElem?_eq_getElem (Nat.mod_lt _ (List.length_pos_iff.mpr h))]
  exact List.getElem_mem _

theorem seesTile_element (c : Ctx) (b : TileBind) : c.SeesTile b (c.element b) := by
  intro r j
  by_cases hacts : c.k0.acts = []
  · rw [if_pos hacts, Ctx.element, hacts]
    rfl
  · rw [if_neg hacts, Ctx.element, if_neg (mt List.isEmpty_iff.mp hacts)]
    exact getElem?_mod_mem (valuesOf_ne_nil _ _ _) _ _

/-! ## A change of the elements of a tile (R240) -/

theorem mapped_frame (c : Ctx) (w : Warp) (b : TileBind) (f : TileF) (v : Nat → Nat → Nat) :
    { c.mapped w b f v with tiles := w.tiles, tilePoison := w.tilePoison } = w :=
  clearTile_setTile_frame ..

/-- With no engine operation outstanding, the elements are there at once. -/
theorem mapTile_idle {c : Ctx} (hacts : c.k0.acts = []) (w : Warp) (b : TileBind) (f : TileF)
    (op : Nat → Nat → Nat → Nat) :
    ({ c with w } : Ctx).mapTile b f op = { c with w := c.mapped w b f fun r j => op r j (c.element b r j) } := by
  have hempty : c.k0.acts.isEmpty = true := List.isEmpty_iff.mpr hacts
  simp only [Ctx.mapTile, Ctx.writeTile, hempty, if_true, tileCols_eq_columnsOf]
  rfl

/-- Else the tile, its marks and the sequence on it change, and nothing else. -/
theorem mapTile_busy {c : Ctx} (hacts : c.k0.acts ≠ []) (w : Warp) (b : TileBind) (f : TileF)
    (op : Nat → Nat → Nat → Nat) : ∃ u acts, { u with tiles := w.tiles, tilePoison := w.tilePoison } = w ∧
      ({ c with w } : Ctx).mapTile b f op = { c with w := u, k := { c.k with acts } } := by
  have hempty : ¬ c.k0.acts.isEmpty = true := mt List.isEmpty_iff.mp hacts
  simp only [Ctx.mapTile, Ctx.writeTile, hempty, if_false, Bool.false_eq_true]
  exact ⟨_, _, clearTile_setTile_frame .., rfl⟩

/-- An instruction that maps its tile, after reads that leave w of its warp. -/
theorem mapTile_retire {s : State} {i : Instr} {g : Option Guard} {c : Ctx} (h : Runs s i g c) {w : Warp}
    (hu : w.uid = c.w0.uid) (hs : ∀ n, w.strandAt n = c.w0.strandAt n) (b : TileBind) (f : TileF)
    (op : Nat → Nat → Nat → Nat) :
    ∃ t, (({ c with w } : Ctx).mapTile b f op).retire = .next t ∧ c.MapsTile t w b f op := by
  obtain ⟨-, -, -, -, -, hk, -⟩ := focusCtx_some h
  by_cases hacts : c.k0.acts = []
  · obtain ⟨mu, ms⟩ := strands_of_tiles (mapped_frame c w b f fun r j => op r j (c.element b r j))
    obtain ⟨t, ht, hl⟩ := retire_warp h _ (mu.trans hu) fun n => (ms n).trans (hs n)
    exact ⟨t, mapTile_idle hacts .. ▸ ht, _, seesTile_element c b, (if_pos hacts).mpr hl⟩
  · obtain ⟨u, acts, hframe, heq⟩ := mapTile_busy hacts w b f op
    obtain ⟨mu, ms⟩ := strands_of_tiles hframe
    obtain ⟨t, ht, hl⟩ := retire_leaves (c' := { c with w := u, k := { c.k with acts } }) h rfl (mu.trans hu)
      (fun n => (ms n).trans (hs n)) (show c.k.no = c.k0.no from congrArg Strand.no hk)
    have hp : ({ c with w := u, k := { c.k with acts } } : Ctx).passed = { c.past with acts } := by
      simp only [Ctx.passed, Ctx.past, hk]
    exact ⟨t, heq ▸ ht, _, seesTile_element c b, (if_neg hacts).mpr ⟨u, acts, hframe, hp ▸ hl⟩⟩

/-- The same with no reads. -/
theorem mapTile_retire_noReads {s : State} {i : Instr} {g : Option Guard} {c : Ctx} (h : Runs s i g c) (b : TileBind)
    (f : TileF) (op : Nat → Nat → Nat → Nat) :
    ∃ t, (c.mapTile b f op).retire = .next t ∧ c.MapsTile t c.w0 b f op := by
  obtain ⟨-, -, -, -, hw, -⟩ := focusCtx_some h
  obtain ⟨t, ht, hm⟩ := mapTile_retire h (w := c.w) (congrArg Warp.uid hw) (fun n => congrArg (·.strandAt n) hw) b f op
  exact ⟨t, ht, hw ▸ hm⟩

/-! ## The instructions, each past the checks that it passes here -/

/-- The instructions that need a tile before they look at anything else. -/
theorem exec_onTile {f : TileF} {i : Instr} (hi : (∃ p ∈ tileMaps, i = p.1 f) ∨ i = .tfree f ∨ i = .tget f ∨
    i = .trowred f ∨ i = .tqnt f ∨ i = .taddc f) (s : State) :
    ∃ (allows : Bool → Bool) (body : Ctx → TileBind → Out), exec i s = withStrand i none s fun c =>
      c.notInKernel (c.withTile allows (body c)) := by
  rcases hi with ⟨p, hp, rfl⟩ | rfl | rfl | rfl | rfl | rfl
  case inl =>
    simp only [tileMaps, List.mem_cons, List.not_mem_nil, or_false] at hp
    rcases hp with rfl | rfl | rfl | rfl <;> exact ⟨_, _, rfl⟩
  all_goals exact ⟨_, _, rfl⟩

theorem exec_tileMap : ∀ p ∈ tileMaps, ∀ (f : TileF) (s : State), exec (p.1 f) s = withStrand (p.1 f) none s fun c =>
    c.notInKernel <| c.withTile (p.2.1 f) fun b => (c.mapTile b f (p.2.2 c f b.int)).retire := by
  intro p hp f s
  simp only [tileMaps, List.mem_cons, List.not_mem_nil, or_false] at hp
  rcases hp with rfl | rfl | rfl | rfl
  case inr.inr.inr =>
    have hallows : (if f.code = 0 then both else onlyFp) = fun int => f.code == 0 || !int := by
      funext int
      split
      case isTrue h => rw [beq_iff_eq.mpr h, both, Bool.true_or]
      case isFalse h => rw [beq_eq_false_iff_ne.mpr h, onlyFp, Bool.false_or]
    change execTact f s = _
    rw [execTact, hallows]
  all_goals rfl

section OnTile
variable {s : State} {c : Ctx} {f : TileF} {b : TileBind}

theorem exec_tbind_bound (h : Runs s (.tbind f) none c) (hk : c.ref.no ≠ kernelNo) (hb : c.k0.bind ≠ none) :
    exec (.tbind f) s = c.tileTrap 3 := by
  change execTbind f s = _
  rw [execTbind, withStrand_of_runs h, notInKernel_of_ne hk, if_pos (Option.isSome_iff_ne_none.mpr hb)]

theorem exec_tbind_noFrame (h : Runs s (.tbind f) none c) (hk : c.ref.no ≠ kernelNo) (hb : c.k0.bind = none)
    (hf : c.freeFrames = []) : exec (.tbind f) s = c.trap causeBUFBOUNDS 3 0 c.exec := by
  change execTbind f s = _
  rw [execTbind, withStrand_of_runs h, notInKernel_of_ne hk]
  simp only [hb, Option.isSome_none, Bool.false_eq_true, if_false, hf]

theorem exec_tbind_free (h : Runs s (.tbind f) none c) (hk : c.ref.no ≠ kernelNo) (hb : c.k0.bind = none) {i : Nat}
    {is : List Nat} (hf : c.freeFrames = i :: is) : exec (.tbind f) s = ({ c with
      w := if f.code.getLsbD 1 then
          (c.w.setTile c.cluster i []).clearTile c.cluster i (List.range 64) (List.range 64) else c.w
      k := { c.k with bind := some { frame := i, int := f.code.getLsbD 0 } } } : Ctx).retire := by
  change execTbind f s = _
  rw [execTbind, withStrand_of_runs h, notInKernel_of_ne hk]
  simp only [hb, Option.isSome_none, Bool.false_eq_true, if_false, hf]
  split <;> rfl

theorem exec_tfree (h : Runs s (.tfree f) none c) (hk : c.ref.no ≠ kernelNo) (hb : c.k0.bind = some b) :
    exec (.tfree f) s = if c.k0.mx = [] then
      ({ c with k := { c.k with bind := none, acts := [], tileBase := [] } } : Ctx).retire
    else c.stall (.counters 63 63 15 0) := by
  change execTfree f s = _
  rw [execTfree, withStrand_of_runs h, notInKernel_of_ne hk, withTile_of_bound hb rfl]
  by_cases hmx : c.k0.mx = [] <;> simp [hmx]

theorem exec_tileMap_bound {p : (TileF → Instr) × (TileF → Bool → Bool) × (Ctx → TileF → Bool → Nat → Nat → Nat → Nat)}
    (hp : p ∈ tileMaps) (h : Runs s (p.1 f) none c) (hk : c.ref.no ≠ kernelNo) (hb : c.k0.bind = some b)
    (ha : p.2.1 f b.int = true) : exec (p.1 f) s = (c.mapTile b f (p.2.2 c f b.int)).retire := by
  rw [exec_tileMap p hp, withStrand_of_runs h, notInKernel_of_ne hk, withTile_of_bound hb ha]

theorem exec_taddc (h : Runs s (.taddc f) none c) (hk : c.ref.no ≠ kernelNo) (hb : c.k0.bind = some b)
    (hin : 64 * f.woff.toNat + 4 * (f.c0.toNat + f.ncm1.toNat + 1) ≤ c.bufLimit true) :
    exec (.taddc f) s = (c.mapTile b f fun _ j e =>
      if b.int then (e + c.wWord (64 * f.woff.toNat + 4 * j)) % 2 ^ 32
      else add32 e (c.wWord (64 * f.woff.toNat + 4 * j))).retire := by
  change execTaddc f s = _
  rw [execTaddc, withStrand_of_runs h, notInKernel_of_ne hk, withTile_of_bound hb rfl]
  exact if_neg (Nat.not_lt.mpr hin)

theorem exec_tscl (h : Runs s (.tscl f) none c) (hk : c.ref.no ≠ kernelNo) (hr : c.Readable [] [f.s.toNat])
    (hb : c.k0.bind = some b) (hi : b.int = false) : exec (.tscl f) s =
      (({ c with w := c.afterReads [] [f.s.toNat] } : Ctx).mapTile b f fun _ _ e =>
        mul32 e (c.sReg f.s.toNat).toNat).retire := by
  obtain ⟨-, -, -, -, hw, -⟩ := focusCtx_some h
  change execTscl f s = _
  rw [execTscl, withStrand_of_runs h, notInKernel_of_ne hk, access_of_readable (gs := []) hr hw]
  exact withTile_of_bound (c := { c with w := c.afterReads [] [f.s.toNat] }) hb (by rw [onlyFp, hi]; rfl) _

theorem exec_tget (h : Runs s (.tget f) none c) (hk : c.ref.no ≠ kernelNo) (hb : c.k0.bind = some b) :
    exec (.tget f) s = (c.setSlot f.d.toNat fun r => BitVec.ofNat 32 (c.element b r f.c0.toNat)).retire := by
  change execTget f s = _
  rw [execTget, withStrand_of_runs h, notInKernel_of_ne hk, withTile_of_bound hb rfl]

theorem exec_trowred (h : Runs s (.trowred f) none c) (hk : c.ref.no ≠ kernelNo) (hb : c.k0.bind = some b)
    (hi : b.int = decide (3 ≤ f.code.toNat)) : exec (.trowred f) s = (c.setSlot f.d.toNat fun r => BitVec.ofNat 32
      ((columnsOf f).tail.foldl (fun a j => reduceStep f.code.toNat a (c.element b r j))
        (c.element b r f.c0.toNat))).retire := by
  have hallows : (if f.code.toNat < 3 then onlyFp else onlyInt) b.int = true := by
    rw [hi]
    split
    case isTrue hlt => simp [onlyFp, hlt]
    case isFalse hge => simpa [onlyInt] using hge
  change execTrowred f s = _
  rw [execTrowred, withStrand_of_runs h, notInKernel_of_ne hk, withTile_of_bound hb hallows, tileCols_eq_columnsOf,
    List.drop_one]

/-- TQNT of rows that start on lines and lie in A: the strand's own buffer accesses take effect, then the rows. -/
theorem exec_tqnt (h : Runs s (.tqnt f) none c) (hk : c.ref.no ≠ kernelNo) (hb : c.k0.bind = some b) (hi : b.int = false)
    {tm : Team} (htm : (gangOf (performBuffers c.s c.ref) c.g.uid).bind (fun g => teamOf g c.w0) = some tm)
    (hrows : ∀ r ∈ c.lanes, (c.slot f.a.toNat r).toNat % 64 = 0 ∧
      (c.slot f.a.toNat r).toNat + (if f.code.toNat < 2 then 128 else 64) ≤ c.bufLimit false) :
    let q := tqntRows f.code.toNat (c.rounding f.rm.toNat) (c.element b) (fun r => (c.slot f.a.toNat r).toNat) c.lanes tm.a
      c.k0.rseed
    exec (.tqnt f) s = ({ c with s := updTeam (performBuffers c.s c.ref) c.g.uid c.w0.team fun x => { x with a := q.1 }
                                 k := { c.k with rseed := q.2 } } : Ctx).retire := by
  have haligned : (c.lanes.filter fun r => (c.slot f.a.toNat r).toNat % 64 != 0) = [] :=
    List.filter_eq_nil_iff.mpr fun r hr => by simp [(hrows r hr).1]
  have hinside : (c.lanes.filter fun r => decide (c.bufLimit false <
      (c.slot f.a.toNat r).toNat + (if f.code.toNat < 2 then 128 else 64))) = [] :=
    List.filter_eq_nil_iff.mpr fun r hr => by simpa using (hrows r hr).2
  change execTqnt f s = _
  rw [execTqnt, withStrand_of_runs h, notInKernel_of_ne hk, withTile_of_bound hb (by rw [onlyFp, hi]; rfl)]
  simp only [haligned, hinside, htm]

end OnTile

/-! ## The strand's own buffer accesses (07 R214) -/

theorem performBuffer_frame (s : State) (o : Op) :
    (performBuffer s o).warps = s.warps ∧ (performBuffer s o).cycles = s.cycles := by
  unfold performBuffer
  split
  · exact ⟨rfl, rfl⟩
  · split <;> exact ⟨rfl, rfl⟩
  · exact ⟨rfl, rfl⟩

theorem performBuffers_frame (s : State) (r : StrandRef) :
    (performBuffers s r).warps = s.warps ∧ (performBuffers s r).cycles = s.cycles := by
  unfold performBuffers
  generalize (s.ops.filter (·.owner == r)).map (·.id) = ids
  induction ids generalizing s with
  | nil => exact ⟨rfl, rfl⟩
  | cons id ids ih =>
    rw [List.foldl_cons]
    split
    · next o _ =>
      obtain ⟨hw, hc⟩ := performBuffer_frame s o
      exact ⟨(ih _).1.trans hw, (ih _).2.trans hc⟩
    · exact ih s

/-! ## The obligation -/

theorem tileTrap_trapped {s : State} {i : Instr} {c : Ctx} (h : Runs s i none c) (hk : c.w0.kernel = none) (sub : Nat) :
    ∃ t, c.tileTrap sub = .next t ∧ c.Trapped t causeMMAFORMAT sub 0 c.exec :=
  trap_trapped h _ _ _ _ hk (by decide)

/-- Settles O39, instruction by instruction: each is its equation above, and then a trap, a wait, or the strand past its
instruction with its binding, its tile, a slot or a row of A changed. -/
theorem tileInstructions : Obligations.TileInstructions := by
  intro f s c hno
  refine ⟨?traps, ?bind, fun b hb => ⟨?free, ?maps, ?addColumns, ?scale, ?get, ?reduce, ?quantise⟩⟩
  case traps =>
    rintro i cause sub hk h (⟨rfl, hb, rfl, rfl⟩ | ⟨rfl, hb, hf, rfl, rfl⟩ | ⟨hi, hb, rfl, rfl⟩)
    · rw [exec_tbind_bound h hno hb]
      exact tileTrap_trapped h hk 3
    · rw [exec_tbind_noFrame h hno hb hf]
      exact trap_trapped h _ _ _ _ hk (by decide)
    · obtain ⟨allows, body, hexec⟩ := exec_onTile hi s
      rw [hexec, withStrand_of_runs h, notInKernel_of_ne hno, withTile_of_unbound hb]
      exact tileTrap_trapped h hk 0
  case bind =>
    intro h hb i is hf
    obtain ⟨-, -, -, -, hw, hk, -⟩ := focusCtx_some h
    rw [exec_tbind_free h hno hb hf, hw, hk]
    by_cases hzero : f.code.getLsbD 1 = true
    · obtain ⟨hu, hs⟩ := strands_of_tiles
        (clearTile_setTile_frame c.w0 c.cluster i [] (List.range 64) (List.range 64))
      simp only [hzero, if_true]
      exact retire_leaves h rfl hu hs rfl
    · simp only [hzero]
      exact retire_leaves h rfl rfl (fun _ => rfl) rfl
  case free =>
    intro h
    obtain ⟨-, -, -, -, -, hk, -⟩ := focusCtx_some h
    rw [exec_tfree h hno hb]
    split
    · rw [hk]
      exact retire_strand h _ rfl
    · exact waits_of h c.w _
  case maps =>
    intro p hp h ha
    rw [exec_tileMap_bound hp h hno hb ha]
    exact mapTile_retire_noReads h b f _
  case addColumns =>
    intro h hin
    rw [exec_taddc h hno hb hin]
    exact mapTile_retire_noReads h b f _
  case scale =>
    intro h hr hi
    obtain ⟨hu, hs⟩ := afterReads_frame c [] [f.s.toNat]
    rw [exec_tscl h hno hr hb hi]
    exact mapTile_retire h hu hs b f _
  case get =>
    intro h
    obtain ⟨t, ht, hl⟩ := setSlot_retire' h f.d.toNat fun r => BitVec.ofNat 32 (c.element b r f.c0.toNat)
    exact ⟨t, _, (exec_tget h hno hb).trans ht, seesTile_element c b, hl⟩
  case reduce =>
    intro h hi
    obtain ⟨t, ht, hl⟩ := setSlot_retire' h f.d.toNat _
    exact ⟨t, _, (exec_trowred h hno hb hi).trans ht, seesTile_element c b, hl⟩
  case quantise =>
    intro h hi s1 tm htm hrows
    obtain ⟨-, -, -, -, -, hk, -⟩ := focusCtx_some h
    obtain ⟨hwarps, hcycles⟩ := performBuffers_frame c.s c.ref
    let q := tqntRows f.code.toNat (c.rounding f.rm.toNat) (c.element b) (fun r => (c.slot f.a.toNat r).toNat) c.lanes tm.a
      c.k0.rseed
    obtain ⟨t, ht, hl⟩ := retire_over h (updTeam s1 c.g.uid c.w0.team fun x => { x with a := q.1 }) hwarps
      { c.k with rseed := q.2 } (congrArg Strand.no hk :)
    have hp : ({ c with s := updTeam s1 c.g.uid c.w0.team fun x => { x with a := q.1 }
                        k := { c.k with rseed := q.2 } } : Ctx).passed = { c.past with rseed := q.2 } := by
      simp only [Ctx.passed, Ctx.past, updTeam_cycles, hk, s1, hcycles]
    rw [hp] at hl
    exact ⟨t, _, (exec_tqnt h hno hb hi htm hrows).trans ht, seesTile_element c b, hl⟩

end Sys2Proof.Proofs
end

section
/-! The operations of the matrix engine (08 R236, R237, R242, R243, R249). -/

namespace Sys2Proof.Proofs
open Sys2Proof Sys2Proof.Machine

/-! ## An engine operation starts (04 R133, R136; 08 R239) -/

theorem grantWait_mx {c : Ctx} (h : c.k0.mx.length < 7) (hq : queueGrants c.s c.w0.core .mx = true) :
    c.grantWait (some .mx) (some .mx) = none := by
  have hroom : ¬ CounterClass.mx.max ≤ c.k0.count .mx := Nat.not_le.mpr h
  simp [Ctx.grantWait, hroom, hq]

/-- A place in the sequence on the tile and what retiring changes are different parts of the strand. -/
theorem passed_outstanding (c : Ctx) (id : Nat) (t : Tile) :
    ({ c with k := c.k.outstanding id t } : Ctx).passed = c.passed.outstanding id t := by
  by_cases hacts : c.k.acts.isEmpty = true <;> simp only [Strand.outstanding, Ctx.passed, hacts] <;> rfl

theorem outstanding_no (k : Strand) (id : Nat) (t : Tile) : (k.outstanding id t).no = k.no := by
  unfold Strand.outstanding
  split <;> rfl

/-- An engine operation that retires as it starts, after reads and checks that left w of its warp and s1 of the state. -/
theorem startEngine_leaves {s : State} {i : Instr} {g : Option Guard} {c : Ctx} (h : Runs s i g c) {b : TileBind}
    (hb : c.k0.bind = some b) {w : Warp} (hu : w.uid = c.w0.uid) (hs : ∀ n, w.strandAt n = c.w0.strandAt n) {s1 : State}
    (hws : s1.warps = c.s.warps) (hcy : s1.cycles = c.s.cycles) (body : OpBody) :
    let d := ({ c with w, s := s1 } : Ctx).startEngine body
    c.LeavesFrom (c.begun s1 (some .mx) body) ({ d with k := d.passed } : Ctx).commit w (c.engaged b s1.nextId) := by
  obtain ⟨-, -, -, -, -, hk, -⟩ := focusCtx_some h
  have hstart : ({ c with w, s := s1 } : Ctx).startEngine body = { c with
      w, s := c.begun s1 (some .mx) body
      k := (c.k.setCounter .mx (c.k.mx ++ [{ op := s1.nextId, done := false }])).outstanding s1.nextId
        (c.w0.tile c.cluster b.frame) } := by
    simp only [Ctx.startEngine, hb]
    rfl
  have hpassed : (({ c with w, s := s1 } : Ctx).startEngine body).passed = c.engaged b s1.nextId := by
    rw [hstart]
    refine (passed_outstanding { c with s := c.begun s1 (some .mx) body, k := c.k.setCounter .mx _ } _ _).trans ?_
    simp only [Ctx.engaged, Ctx.counted, Ctx.passed, Ctx.past, Ctx.begun, Strand.setCounter, Strand.counter, hk, hcy]
  intro d
  have hd : ({ d with k := d.passed } : Ctx) =
      { c with w, s := c.begun s1 (some .mx) body, k := c.engaged b s1.nextId } := by
    simp only [d, hpassed]
    rw [hstart]
  rw [hd]
  exact leavesFrom_of h _ w _ hws hu hs (outstanding_no _ _ _)

theorem startEngine_tenant (c : Ctx) (body : OpBody) : (c.startEngine body).tenant = c.tenant := by
  unfold Ctx.startEngine
  split <;> rfl

/-! ## The tag and rotation checks (08 R236, R243) -/

theorem lowestLine_eq_none {p : TaggedLine → Bool} {ls : List TaggedLine} (h : ∀ x ∈ ls, p x = false) :
    lowestLine p ls = none :=
  (leastBy_eq_none _ _).mpr (List.filter_eq_nil_iff.mpr fun x hx => ne_true_of_eq_false (h x hx))

theorem tagChecks_of_sound {c : Ctx} {fa fb : Nat} {rows : List (Nat × List TaggedLine)} {cols : List TaggedLine}
    (ha : ∀ x ∈ rows.flatMap (·.2), tagFault fa x.tag = none) (hw : ∀ x ∈ cols, tagFault fb x.tag = none)
    (hturned : ∃ q, ∀ x ∈ rows.flatMap (·.2) ++ cols, x.tag.rotated = q) (f : Out) :
    c.tagChecks fa fb rows cols f = f := by
  obtain ⟨q, hq⟩ := hturned
  have hrotated : ((rows.flatMap (·.2) ++ cols).all (·.tag.rotated) ||
      (rows.flatMap (·.2) ++ cols).all (!·.tag.rotated)) = true := by
    rw [Bool.or_eq_true, List.all_eq_true, List.all_eq_true]
    cases q
    case false => exact .inr fun x hx => by rw [hq x hx]; rfl
    case true => exact .inl hq
  have hrows : lowestLine (fun x => (tagFault fa x.tag).isSome) (rows.flatMap (·.2)) = none :=
    lowestLine_eq_none fun x hx => by rw [ha x hx]; rfl
  have hcols : lowestLine (fun x => (tagFault fb x.tag).isSome) cols = none :=
    lowestLine_eq_none fun x hx => by rw [hw x hx]; rfl
  simp only [Ctx.tagChecks, hrows, hcols, hrotated, if_true]

/-! ## MMA and MMAG (08 R242, R243) -/

/-- The operation of an MMA with these row indices on this team's buffers. -/
def mmaBody (c : Ctx) (f : MmaF) (idx : Nat → Nat) (t : Team) : OpBody :=
  .mma f (c.lanes.map fun r => (r, 64 * (descOff (c.sReg f.s.toNat) + descPitch (c.sReg f.s.toNat) * idx r)))
    (pairsOfLines (columnLines f t)) (pairsOfLines (c.lanes.flatMap (c.rowLines f idx t))) t.a t.w

/-- An MMA whose waits are over and whose checks pass starts its operation. -/
theorem mma_of_passes {c : Ctx} {f : MmaF} {idx : Nat → Nat} (hw : c.w = c.w0) (hmx : c.k0.mx.length < 7)
    (hq : queueGrants c.s c.w0.core .mx = true) (hr : c.Readable [] [f.s.toNat]) {b : TileBind} {tm : Team}
    (hb : c.k0.bind = some b) (hi : b.int = decide (f.fa.toNat = 7)) (htm : c.team = some tm) (hp : c.MmaPasses f idx tm) :
    c.mma f idx =
      (({ c with w := c.afterReads [] [f.s.toNat] } : Ctx).startEngine (mmaBody c f idx tm)).retire := by
  have hp' : ({ c with w := c.afterReads [] [f.s.toNat] } : Ctx).MmaPasses f idx tm :=
    ⟨hp.rows, hp.cols, hp.aTags, hp.wTags, hp.turned⟩
  rw [Ctx.mma, grantWait_mx hmx hq]
  -- The checks look at nothing that the read of the descriptor changes: from here on they are those of one context d.
  refine (access_of_readable (gs := []) hr hw _).trans ?_
  change _ = (Ctx.startEngine _ (mmaBody { c with w := c.afterReads [] [f.s.toNat] } f idx tm)).retire
  replace hb : ({ c with w := c.afterReads [] [f.s.toNat] } : Ctx).k0.bind = some b := hb
  replace htm : ({ c with w := c.afterReads [] [f.s.toNat] } : Ctx).team = some tm := htm
  generalize ({ c with w := c.afterReads [] [f.s.toNat] } : Ctx) = d at *
  obtain ⟨hrows, hcols, hatags, hwtags, hturned⟩ := hp'
  have hinside : (d.lanes.filter fun r => decide (d.bufLimit false <
      64 * (descOff (d.sReg f.s.toNat) + descPitch (d.sReg f.s.toNat) * idx r) + spanOf f.fa.toNat (kOf f))) = [] :=
    List.filter_eq_nil_iff.mpr fun r hr => ne_true_of_eq_false (decide_eq_false (Nat.not_lt.mpr (hrows r hr)))
  have hlines : (d.lanes.map fun r => (r, d.rowLines f idx tm r)).flatMap (·.2) = d.lanes.flatMap (d.rowLines f idx tm) :=
    List.flatMap_map ..
  have hchecks := tagChecks_of_sound (c := d) (rows := d.lanes.map fun r => (r, d.rowLines f idx tm r))
    (by rw [hlines]; exact List.forall_mem_flatMap.mpr hatags) hwtags (by rw [hlines]; exact hturned)
    (d.startEngine (mmaBody d f idx tm)).retire
  have hallows : (fun int => int == decide (f.fa.toNat = 7)) b.int = true := beq_iff_eq.mpr hi
  rw [withTile_of_bound hb hallows]
  simp only [hinside, if_neg (Nat.not_lt.mpr hcols), htm]
  rw [mmaBody, ← hlines] at hchecks ⊢
  exact hchecks

theorem exec_mma {f : MmaF} {i : Instr} {c : Ctx} {idx : Nat → Nat}
    (hi : (i = .mma f ∧ idx = id) ∨ (i = .mmag f ∧ idx = fun r => (c.slot f.a.toNat r).toNat)) {s : State}
    (h : Runs s i none c) (hk : c.ref.no ≠ kernelNo) : exec i s = c.mma f idx := by
  rcases hi with ⟨rfl, rfl⟩ | ⟨rfl, rfl⟩
  · change execMma f s = _
    rw [execMma, withStrand_of_runs h, notInKernel_of_ne hk]
  · change execMmag f s = _
    rw [execMmag, withStrand_of_runs h, notInKernel_of_ne hk]

/-! ## TLD and TST (08 R249) -/

theorem checkedBy_of_reaches {c : Ctx} {byAddr : Bool} {size : Nat} {write tagOk : Bool} {ls : List (Nat × DWord)}
    {s1 : State} {ps : List (Nat × DWord × Target)} (h : c.Reaches byAddr size write tagOk ls s1 ps) (kind : Nat)
    (f : Ctx → List (Nat × DWord × Target) → Out) :
    c.checkedBy byAddr kind size write tagOk ls f = f { c with s := s1 } ps := by
  obtain ⟨rfl, hfail, rfl⟩ := h
  simp only [Ctx.checkedBy, hfail]

/-- Checks change cached translations and range entries alone, whichever failure they look for first. -/
theorem reachesBy_frame {c : Ctx} {byAddr : Bool} {size : Nat} {write tagOk : Bool} {ls : List (Nat × DWord)} {s1 : State}
    {ps : List (Nat × DWord × Target)} (h : c.Reaches byAddr size write tagOk ls s1 ps) :
    { s1 with cores := c.s.cores, yards := c.s.yards } = c.s := by
  obtain ⟨rfl, -, -⟩ := h
  exact checkLanes_frame ..

/-- TLD and TST are one tile move, on a tile of a type that they allow. -/
theorem exec_tileMove {f : TileF} {i : Instr} {write : Bool} {size : Nat} {b : TileBind}
    (hi : (i = .tld f ∧ write = false ∧ size = 4) ∨
      (i = .tst f ∧ write = true ∧ size = (if f.code = 0 then 4 else 2) ∧ (f.code = 0 ∨ b.int = false)))
    (s : State) : ∃ allows : Bool → Bool, allows b.int = true ∧
      exec i s = withStrand i none s fun c => c.notInKernel (c.tileMove f allows write size fun ls =>
        if write then .tileStore f.c0.toNat size f.code.toNat ls else .tileLoad f.c0.toNat ls) := by
  rcases hi with ⟨rfl, rfl, rfl⟩ | ⟨rfl, rfl, rfl, htype⟩
  · exact ⟨both, rfl, rfl⟩
  · refine ⟨if f.code = 0 then both else onlyFp, ?_, rfl⟩
    split
    case isTrue => rfl
    case isFalse hcode => rw [onlyFp, htype.resolve_left hcode]; rfl

theorem tileMove_of_reaches {c : Ctx} {f : TileF} {allows : Bool → Bool} {write : Bool} {size : Nat} {b : TileBind}
    (hmx : c.k0.mx.length < 7) (hq : queueGrants c.s c.w0.core .mx = true) (hb : c.k0.bind = some b)
    (ha : allows b.int = true) {s1 : State} {ps : List (Nat × DWord × Target)}
    (hr : c.Reaches true size write false (c.tileAddresses f size) s1 ps) (body : List LaneAccess → OpBody) :
    let ls := tileLanes f.c0.toNat (f.ncm1.toNat + 1) ps
    c.tileMove f allows write size body = (({ c with s := s1 } : Ctx).startEngine (body ls)).retireSending s1.nextId false
      (fun x => c.asks s1.nextId .read size [] x) (if write then [] else ls) := by
  rw [Ctx.tileMove, grantWait_mx hmx hq]
  exact (withTile_of_bound hb ha _).trans (checkedBy_of_reaches hr _ _)

/-- TST sends nothing as it issues; TLD asks for what lies outside the part, if anything does. -/
theorem sendLanes_of_tileMove (u : State) (tenant id : Nat) (mk : LaneAccess → Sent) (write : Bool) (ls : List LaneAccess) :
    sendLanes u tenant id false mk (if write then [] else ls) =
      if write ∨ ls.all (fun a => !isRemote a.target) then u else sendLanes u tenant id false mk ls := by
  cases write
  case true => exact sendLanes_local u tenant id false mk [] rfl
  case false =>
    simp only [Bool.false_eq_true, if_false, false_or]
    split
    case isTrue hlocal => exact sendLanes_local u tenant id false mk ls hlocal
    case isFalse => rfl

/-! ## The obligation -/

/-- Settles O40: past its waits and checks each instruction starts one operation; a tile move then asks for what lies outside
the part. -/
theorem engineOperations : Obligations.EngineOperations := by
  refine ⟨?mma, ?move⟩
  case mma =>
    intro f i s c idx hi h hno hmx hq hr b tm hb hint htm hp
    obtain ⟨-, -, -, -, hw, -⟩ := focusCtx_some h
    obtain ⟨hu, hs⟩ := afterReads_frame c [] [f.s.toNat]
    exact ⟨_, (exec_mma hi h hno).trans (mma_of_passes hw hmx hq hr hb hint htm hp),
      startEngine_leaves h hb hu hs rfl rfl (mmaBody c f idx tm)⟩
  case move =>
    intro f i write size s c b hi h hno hmx hq hb s1 ps hr ls
    obtain ⟨-, -, -, -, hw, -⟩ := focusCtx_some h
    obtain ⟨allows, hallows, hexec⟩ := exec_tileMove hi s
    have hframe := reachesBy_frame hr
    have hl := startEngine_leaves h hb (congrArg Warp.uid hw) (fun n => congrArg (·.strandAt n) hw)
      (show s1.warps = c.s.warps by rw [← hframe]) (show s1.cycles = c.s.cycles by rw [← hframe])
      (if write then .tileStore f.c0.toNat size f.code.toNat ls else .tileLoad f.c0.toNat ls)
    rw [hexec, withStrand_of_runs h, notInKernel_of_ne hno, tileMove_of_reaches hmx hq hb hallows hr,
      Ctx.retireSending, startEngine_tenant]
    exact ⟨_, _, rfl, hw ▸ hl, sendLanes_of_tileMove ..⟩

end Sys2Proof.Proofs
end

section
/-! The copies up to their queue entry (09 R251, R252, R254, R271). -/

namespace Sys2Proof.Proofs
open Sys2Proof Sys2Proof.Machine

/-! ## The checks at issue (04 R126, R136; 09 R271) -/

theorem grantWait_cp {c : Ctx} (h : c.k0.cp.length < 15) (hq : queueGrants c.s c.w0.core .cp = true) :
    c.grantWait (some .cp) (some .cp) = none := by
  have hroom : ¬ CounterClass.cp.max ≤ c.k0.count .cp := Nat.not_le.mpr h
  simp [Ctx.grantWait, hroom, hq]

/-- Step 2 of R271: a copy that may take its slot goes on with the slot and its offset, and with the move that it makes as it
issues. -/
theorem takeSlot_of_takesSlot {c : Ctx} {f : CopyF} {lead : Nat} (hlead : c.leader = some lead) {s1 : State} {j off : Nat}
    (h : c.TakesSlot f lead s1 j off) :
    ∃ move : Ctx → Ctx, move c = { c with s := s1 } ∧ ∀ body, c.takeSlot f body = body j off move := by
  unfold Ctx.TakesSlot at h
  split at h
  case isTrue hrk =>
    obtain ⟨r, hr, hi, rfl, hlt, rfl, hslot⟩ := h
    have hroom : ¬ r.n ≤ field (c.gLane f.rg.toNat lead) 15 12 := Nat.not_le.mpr hlt
    have hrack (f' : Rack → Out) : c.leading.withRack f.rack.toNat true (fun _ => f') = f' r :=
      withRack_of_hasRack (c := c.leading) hr hi f'
    rcases hslot with ⟨hheld, rfl⟩ | ⟨hdropped, rfl⟩
    · refine ⟨(·.setRack f.rack.toNat (r.setSlot _ .pending c.owner)), rfl, fun body => ?_⟩
      simp [Ctx.takeSlot, hrk, hrack, hlead, hroom, hheld]
    · refine ⟨(·.setRack f.rack.toNat (r.setSlot _ .droppedPending c.owner)), rfl, fun body => ?_⟩
      simp [Ctx.takeSlot, hrk, hrack, hlead, hroom, hdropped]
  case isFalse hrk =>
    obtain ⟨rfl, rfl, rfl⟩ := h
    refine ⟨id, rfl, fun body => ?_⟩
    simp [Ctx.takeSlot, hrk]

/-- Taking a slot changes a rack of the gang's, and nothing else. -/
theorem takesSlot_frame {c : Ctx} {f : CopyF} {lead : Nat} {s1 : State} {j off : Nat} (h : c.TakesSlot f lead s1 j off) :
    { s1 with gangs := c.s.gangs } = c.s := by
  unfold Ctx.TakesSlot at h
  split at h
  case isTrue =>
    obtain ⟨r, -, -, -, -, -, ⟨-, rfl⟩ | ⟨-, rfl⟩⟩ := h <;> rfl
  case isFalse =>
    obtain ⟨-, -, rfl⟩ := h
    rfl

/-- The warp after the reads of a copy, none of them a register's last. -/
def copyWarp (c : Ctx) (f : CopyF) (kind : Nat) : Warp :=
  c.afterReads ((copyReads f kind).map fun r => (r, false)) (copyUniforms f kind)

/-- Step 1 of R271: the registers, as the model lists them, are those that a copy reads. -/
theorem access_of_copyReads {c : Ctx} {f : CopyF} {kind : Nat} (hw : c.w = c.w0)
    (hr : c.Readable (copyReads f kind) (copyUniforms f kind)) (body : Ctx → Out) :
    c.leading.access ((if kind = 2 ∨ kind = 3 ∨ kind = 4 then [(f.g.toNat, false)] else []) ++
        if f.rk then [(f.rg.toNat, false)] else []) (copyUniforms f kind) body =
      body { c.leading with w := copyWarp c f kind } := by
  have hlisted : (copyReads f kind).map (fun r => (r, false)) =
      (if kind = 2 ∨ kind = 3 ∨ kind = 4 then [(f.g.toNat, false)] else []) ++
        if f.rk then [(f.rg.toNat, false)] else [] := by
    rw [copyReads, List.map_append]
    congr 1 <;> split <;> rfl
  have hregs : ((copyReads f kind).map fun r => (r, false)).map (·.1) = copyReads f kind := by simp [Function.comp_def]
  rw [← hlisted]
  exact access_of_readable (c := c.leading) (by rw [hregs]; exact hr) hw body

/-- A copy to a rack slot stands outside the trap kernel, where it may issue (15 R403). -/
theorem notInKernel_of_rack {c : Ctx} {f : CopyF} (hno : f.rk = true → c.ref.no ≠ kernelNo) (body : Out) :
    (if f.rk then c.notInKernel body else body) = body := by
  split
  case isTrue hrk => exact notInKernel_of_ne (hno hrk) body
  case isFalse => rfl

/-- What a copy needs beside its registers and its slot, which lies at off in A: the waits of R126 over, and steps 3 and 4 of
R271. -/
structure CopyFits (c : Ctx) (f : CopyF) (kind lead off : Nat) : Prop where
  outside : f.rk = true → c.ref.no ≠ kernelNo
  counter : c.k0.cp.length < 15
  granted : queueGrants c.s c.w0.core .cp = true
  aligned : f.cw = true → (c.sPair f.cb.toNat).toNat % 8 = 0
  inside : kind = 0 → f.dir ≠ 2 → (c.slot (if f.dir = 0 then 2 else 0) lead).toNat + off + (c.sReg (2 * f.sb.toNat)).toNat ≤
    c.bufLimit (!f.buf)

theorem CopyFits.not_misaligned {c : Ctx} {f : CopyF} {kind lead off : Nat} (h : CopyFits c f kind lead off) :
    ¬(f.cw && (if f.cw then c.sPair f.cb.toNat else 0).toNat % 8 != 0) = true := by
  cases hcw : f.cw
  case false => simp
  case true => simp [h.aligned hcw]

theorem CopyFits.not_beyond {c : Ctx} {f : CopyF} {kind lead off : Nat} (h : CopyFits c f kind lead off) :
    ¬(kind = 0 ∧ f.dir ≠ 2 ∧ c.bufLimit (!f.buf) <
      (c.slot (if f.dir = 0 then 2 else 0) lead).toNat + off + (c.sReg (2 * f.sb.toNat)).toNat) :=
  fun ⟨hkind, hdir, hover⟩ => Nat.not_lt.mpr (h.inside hkind hdir) hover

/-! ## Issue (09 R251, R252) -/

/-- The generator of a strand once a copy of its has issued: one that rounds stochastically draws (03 R96). -/
def copySeed (c : Ctx) (f : CopyF) (kind : Nat) : DWord := if c.copyDraws f kind then rngStep c.k0.rseed else c.k0.rseed

theorem exec_copyForm {p : (CopyF → Instr) × Nat} (hp : p ∈ copyForms) (f : CopyF) (s : State) :
    exec (p.1 f) s = withStrand (p.1 f) none s fun c => c.copy f p.2 := by
  simp only [copyForms, List.mem_cons, List.not_mem_nil, or_false] at hp
  rcases hp with rfl | rfl | rfl | rfl | rfl | rfl | rfl <;> rfl

/-- The model's choice whether to step the generator is the generator that the copy leaves. -/
theorem ite_copyDraws {c : Ctx} (hk : c.k = c.k0) (f : CopyF) (kind : Nat) (w : Warp) (s1 : State) :
    (if decide ((kind = 5 ∨ kind = 6) ∧ Rm.ofCode (c.copyMode f) = .rs) = true then
        ({ c with w, s := s1, k := { c.k with rseed := rngStep c.k0.rseed } } : Ctx)
      else { c with w, s := s1 }) = { c with w, s := s1, k := { c.k0 with rseed := copySeed c f kind } } := by
  have hdraws : c.copyDraws f kind = decide ((kind = 5 ∨ kind = 6) ∧ Rm.ofCode (c.copyMode f) = .rs) := by
    rw [Bool.decide_and]
    rfl
  rw [copySeed, hdraws, hk]
  split <;> rfl

/-- A copy whose waits are over and whose checks pass moves its slot on, draws, and starts its operation. -/
theorem copy_of_fits {c : Ctx} {f : CopyF} {kind lead : Nat} (hw : c.w = c.w0) (hk : c.k = c.k0) (hlead : c.leader = some lead)
    (hr : c.Readable (copyReads f kind) (copyUniforms f kind)) {s1 : State} {j off : Nat}
    (hslot : c.TakesSlot f lead s1 j off) (hfits : CopyFits c f kind lead off) :
    c.copy f kind =
      (({ c with w := copyWarp c f kind, s := s1, k := { c.k0 with rseed := copySeed c f kind } } : Ctx).start (some .cp)
        (some .cp) (.copy (c.copyJob f kind lead j))).retire := by
  obtain ⟨move, hmove, htake⟩ := takeSlot_of_takesSlot (c := { c with w := copyWarp c f kind }) hlead hslot
  have hlane : c.leader.getD 0 = lead := by rw [hlead]; rfl
  rw [Ctx.copy, notInKernel_of_rack hfits.outside, grantWait_cp hfits.counter hfits.granted, hlane]
  -- The four checks of R271, in its order.
  refine (access_of_copyReads hw hr _).trans ((htake _).trans ((if_neg hfits.not_misaligned).trans
    ((if_neg hfits.not_beyond).trans ?_)))
  rw [hmove]
  exact congrArg (fun d : Ctx => (d.start (some .cp) (some .cp) (.copy (c.copyJob f kind lead j))).retire)
    (ite_copyDraws hk f kind (copyWarp c f kind) s1)

/-- A copy that starts and retires leaves its operation, counted in CP, beside its slot's move, its reads and its draw. -/
theorem startCopy_leaves {s : State} {i : Instr} {g : Option Guard} {c : Ctx} (h : Runs s i g c) {w : Warp}
    (hu : w.uid = c.w0.uid) (hs : ∀ n, w.strandAt n = c.w0.strandAt n) {s1 : State} (hws : s1.warps = c.s.warps)
    (hcy : s1.cycles = c.s.cycles) (seed : DWord) (body : OpBody) :
    ∃ t, (({ c with w, s := s1, k := { c.k0 with rseed := seed } } : Ctx).start (some .cp) (some .cp) body).retire = .next t ∧
      c.LeavesFrom (c.begun s1 (some .cp) body) t w { c.counted s1.nextId .cp with rseed := seed } := by
  have hl := leavesFrom_of h (c.begun s1 (some .cp) body) w { c.counted s1.nextId .cp with rseed := seed } hws hu hs rfl
  have hpassed : (({ c with w, s := s1, k := { c.k0 with rseed := seed } } : Ctx).start (some .cp) (some .cp) body).passed =
      { c.counted s1.nextId .cp with rseed := seed } := by
    simp only [Ctx.start, Ctx.passed, Ctx.counted, Ctx.past, Strand.setCounter, Strand.counter, hcy]
  refine ⟨_, rfl, ?_⟩
  rw [hpassed]
  exact hl

/-! ## The obligation -/

/-- Settles O41: past its waits and its checks at issue a copy starts one operation, its slot moved on and its draw made. -/
theorem copiesIssue : Obligations.CopiesIssue := by
  intro p hp f s c lead h hlead hno hcp hq hr s1 j off hslot hword hroom
  obtain ⟨-, -, -, -, hw, hk, -⟩ := focusCtx_some h
  obtain ⟨hu, hs⟩ := afterReads_frame c ((copyReads f p.2).map fun r => (r, false)) (copyUniforms f p.2)
  have hfits : CopyFits c f p.2 lead off := ⟨hno, hcp, hq, hword, hroom⟩
  have hframe := takesSlot_frame hslot
  have hid : s1.nextId = c.s.nextId := by rw [← hframe]
  rw [exec_copyForm hp, withStrand_of_runs h, copy_of_fits hw hk hlead hr hslot hfits, ← hid]
  exact startCopy_leaves h hu hs (by rw [← hframe]) (by rw [← hframe]) (copySeed c f p.2) _

end Sys2Proof.Proofs
end

section
/-! Memory after reset, the accesses to global memory and to a lane's own up to their issue, and the prefetch (04 R126, R133; 07
R216; 10 R276, R284, R288 to R291, R294, R295). -/

namespace Sys2Proof.Proofs
open Sys2Proof Sys2Proof.Machine

/-! ## Memory after reset (10 R276) -/

/-- Settles O6: reset memory holds no cell, no tag and no poisoned line. -/
theorem resetMemory : Obligations.ResetMemory :=
  ⟨(Memory.wf_iff _).mpr ⟨rfl, rfl, rfl⟩, fun _ => rfl⟩

/-! ## Loads and stores past their reads (10 R284, R290, R291) -/

theorem load_waits {s : State} {i : Instr} {g : Option Guard} {c : Ctx} (h : Runs s i g c) (w : Warp)
    (hld : 63 ≤ c.k0.ld.length) (size d : Nat) (signed tagOk watch : Bool) (scope : Nat) (va : Nat → DWord) :
    ∃ t, ({ c with w } : Ctx).load size d signed tagOk watch scope va = .next t ∧ c.Waits t .counterMax := by
  have hgrant : ({ c with w } : Ctx).grantWait (some .ld) none = some .counterMax := if_pos (decide_eq_true hld)
  have hload : ({ c with w } : Ctx).load size d signed tagOk watch scope va = ({ c with w } : Ctx).stall .counterMax := by
    rw [Ctx.load, Ctx.memory, loadShape, hgrant]
  rw [hload]
  exact waits_of h w .counterMax

theorem load_begins {s : State} {i : Instr} {g : Option Guard} {c : Ctx} (h : Runs s i g c) (gs : List (Nat × Bool))
    (ss : List Nat) (hld : c.k0.ld.length < 63) {size : Nat} {tagOk watch : Bool} {va : Nat → DWord} {s1 : State}
    {ps : List (Nat × DWord × Target)} (hr : c.LanesReach size false tagOk va s1 ps)
    (hw : watch = true → c.Unwatched s1 0 size va) (d : Nat) (signed : Bool) (scope : Nat) :
    ∃ t, ({ c with w := c.afterReads gs ss } : Ctx).load size d signed tagOk watch scope va = .next t ∧
      c.Begins t s1 (c.afterReads gs ss) .ld none (.load size (destOf d size signed) scope (lanesWith ps fun _ => [])) false
        (fun x => c.asks s1.nextId (if scopeCORE < scopeOf scope then .acquire else .read) size x.data x)
        (lanesWith ps fun _ => []) := by
  have hasks : (loadShape size tagOk watch (decide (scopeCORE < scopeOf scope))).asks =
      if scopeCORE < scopeOf scope then .acquire else .read := by
    simp [AccessShape.asks, loadShape]
  rw [← hasks]
  exact memory_begins h gs ss (loadShape size tagOk watch (decide (scopeCORE < scopeOf scope))) false va (fun _ => [])
    (.load size (destOf d size signed) scope) s1 ps (grantWait_ld hld) hr hw

theorem store_begins {s : State} {i : Instr} {g : Option Guard} {c : Ctx} (h : Runs s i g c) (gs : List (Nat × Bool))
    (ss : List Nat) (hst : c.k0.st.length < 63) (hq : queueGrants c.s c.w0.core .st = true) {size : Nat} {tagOk watch : Bool}
    {va : Nat → DWord} {s1 : State} {ps : List (Nat × DWord × Target)} (hr : c.LanesReach size true tagOk va s1 ps)
    (hw : watch = true → c.Unwatched s1 1 size va) (a scope : Nat) :
    ∃ t, ({ c with w := c.afterReads gs ss } : Ctx).store size a tagOk watch scope va = .next t ∧
      c.Begins t s1 (c.afterReads gs ss) .st (some .st) (.store size scope false (lanesWith ps (c.bytesOf a size)))
        (scopeOf scope = 0) (fun x => c.asks s1.nextId .write x.data.length x.data x) (lanesWith ps (c.bytesOf a size)) :=
  memory_begins h gs ss (storeShape size tagOk watch) (scopeOf scope = 0) va (c.bytesOf a size) (.store size scope false) s1 ps
    (grantWait_st hst hq) hr hw

/-! ## LD, ST, LDS, STS and the short forms (10 R290, R291, R294; 07 R216) -/

theorem exec_load {i : Instr} {a : AccessForm} (ha : loadForm i = some a) (s : State) :
    exec i s = withStrand i none s fun c => c.withAddress a.sb a.g fun c =>
      c.load a.size a.slot a.signed a.tagOk true a.scope (c.at_ a) := by
  unfold loadForm at ha
  split at ha <;> cases ha <;> rfl

theorem exec_store {i : Instr} {a : AccessForm} (ha : storeForm i = some a) (s : State) :
    exec i s = withStrand i none s fun c => c.withAddress a.sb a.g fun c =>
      c.store a.size a.slot a.tagOk true a.scope (c.at_ a) := by
  unfold storeForm at ha
  split at ha <;> cases ha <;> rfl

/-- Settles O31: a load is its reads, and then a wait for LD or the operation that the checks let pass. -/
theorem loadsIssue : Obligations.LoadsIssue := by
  intro i a ha s c h hr
  obtain ⟨-, -, -, -, hw, -⟩ := focusCtx_some h
  rw [exec_load ha, withStrand_of_runs h, Ctx.withAddress, access_of_readable hr hw]
  exact ⟨fun hld => load_waits h _ hld .., fun hld s1 ps hreach hwatch => load_begins h _ _ hld hreach (fun _ => hwatch) ..⟩

/-- Settles O32: a store is its reads and then the operation, with its lanes' bytes, that the checks let pass. -/
theorem storesIssue : Obligations.StoresIssue := by
  intro i a ha s c h hr hst hq s1 ps hreach hwatch
  obtain ⟨-, -, -, -, hw, -⟩ := focusCtx_some h
  rw [exec_store ha, withStrand_of_runs h, Ctx.withAddress, access_of_readable hr hw]
  exact store_begins h _ _ hst hq hreach (fun _ => hwatch) ..

/-! ## LDL and STL (10 R288, R289) -/

/-- A lane's offset into its own memory. -/
def privateOffset (c : Ctx) (f : LM) (size l : Nat) : Nat := (c.gLane f.g.toNat l).toNat + f.imm.toNat * size

/-- The address that the offset names. -/
def privateAddress (c : Ctx) (f : LM) (size l : Nat) : DWord := stackOf c.l c.w0 l + BitVec.ofNat 64 (privateOffset c f size l)

theorem privateOffsets_of_inside {c : Ctx} {f : LM} {size : Nat}
    (h : ∀ l ∈ c.lanes, privateOffset c f size l + size ≤ c.l.privBytes) (body : (Nat → DWord) → Out) :
    c.privateOffsets f size body = body (privateAddress c f size) := by
  have hnone : (c.lanes.filter fun l => decide (c.l.privBytes < privateOffset c f size l + size)) = [] :=
    List.filter_eq_nil_iff.mpr fun l hl => by simpa using h l hl
  unfold privateOffset at hnone
  simp only [Ctx.privateOffsets, hnone]
  rfl

theorem privateOffsets_of_past_end {c : Ctx} {f : LM} {size l : Nat} {bad : List Nat}
    (h : (c.lanes.filter fun l => decide (c.l.privBytes < privateOffset c f size l + size)) = l :: bad)
    (body : (Nat → DWord) → Out) : c.privateOffsets f size body =
      c.trap causeSTACK 3 (BitVec.ofNat 64 (privateOffset c f size l)) (maskOfList (l :: bad)) := by
  unfold privateOffset at h
  simp only [Ctx.privateOffsets, h]
  rfl

theorem exec_local {i : Instr} {f : LM} {size : Nat} {write : Bool} (hi : localForm i = some (f, size, write)) (s : State) :
    exec i s = localOp i f size write s ∧ max 1 (size / 4) = size / 4 := by
  unfold localForm at hi
  split at hi <;> cases hi <;> exact ⟨rfl, rfl⟩

/-- What LDL and STL do once they may issue: the check of their offsets, and the access. -/
theorem localOp_of_granted {s : State} {i : Instr} {c : Ctx} {f : LM} {size : Nat} {write : Bool} (h : Runs s i none c)
    (hr : c.Readable [f.g.toNat] [])
    (hq : c.grantWait (some (if write then .st else .ld)) (if write then some .st else none) = none) :
    let d : Ctx := { c with w := c.afterReads [(f.g.toNat, false)] [] }
    localOp i f size write s = c.privateOffsets f size fun va =>
      if write then d.store size f.a.toNat false false 0 va else d.load size f.d.toNat false false false 0 va := by
  obtain ⟨-, -, -, -, hw, -⟩ := focusCtx_some h
  have hgrant : ({ c with w := c.afterReads [(f.g.toNat, false)] [] } : Ctx).grantWait
      (some (if write then .st else .ld)) (if write then some .st else none) = none := hq
  rw [localOp, withStrand_of_runs h, access_of_readable hr hw]
  simp only [hgrant]
  rfl

/-- The room that LDL and STL need is what R126 waits for. -/
theorem grantWait_local {c : Ctx} {write : Bool}
    (h : if write then c.k0.st.length < 63 ∧ queueGrants c.s c.w0.core .st = true else c.k0.ld.length < 63) :
    c.grantWait (some (if write then .st else .ld)) (if write then some .st else none) = none := by
  cases write with
  | true => exact grantWait_st h.1 h.2
  | false => exact grantWait_ld h

/-- Settles O33: past its read and its wait, an access whose offsets lie inside is a store or load at the lanes' own addresses,
and any other is the trap. -/
theorem privateAccesses : Obligations.PrivateAccesses := by
  intro i f size write hi s c h hr hroom off va w
  obtain ⟨hexec, hcount⟩ := exec_local hi s
  rw [hexec, localOp_of_granted h hr (grantWait_local hroom)]
  refine ⟨fun hin s1 ps hreach => ?inside, fun l bad hbad => ?past⟩
  case inside =>
    rw [privateOffsets_of_inside hin]
    cases write with
    | true => exact store_begins (watch := false) h _ _ hroom.1 hroom.2 hreach nofun ..
    | false =>
      rw [← hcount]
      exact load_begins (watch := false) h _ _ hroom hreach nofun ..
  case past =>
    rw [privateOffsets_of_past_end hbad]
    exact trap_traps h causeSTACK 3 _ _ (by decide)

/-! ## PREF (10 R295) -/

/-- A strand that stands in the state after a change of the whole part goes on as it is found there. -/
theorem through_of_standsIn {c : Ctx} (hu : c.w.uid = c.ref.warp) {f : State → State} {w1 : Warp} {k1 : Strand}
    (h : c.StandsIn (f c.commit) w1 k1) : c.through f = c.found (f c.commit) w1 k1 := by
  obtain ⟨hw, hk⟩ := h
  simp only [Ctx.through, hu, hw, hk]
  rfl

/-- An instruction that ends with such a change retires, and leaves the strand past itself as it is found. -/
theorem through_retire {c : Ctx} (hu : c.w.uid = c.ref.warp) (f : State → State) :
    ∃ t, (c.through f).retire = .next t ∧ ∀ w1 k1, c.StandsIn (f c.commit) w1 k1 →
      (c.found (f c.commit) w1 k1).Leaves t w1 (c.found (f c.commit) w1 k1).past := by
  refine ⟨_, rfl, fun w1 k1 hstands => ?_⟩
  rw [through_of_standsIn hu hstands]
  obtain ⟨hw, hk⟩ := hstands
  have hl := commit_leaves (c := { c.found (f c.commit) w1 k1 with k := (c.found (f c.commit) w1 k1).past }) hw hk rfl
    (fun _ => rfl) rfl
  exact ⟨hl.memory, hl.rest, hl.others, hl.warp⟩

/-- Settles O35: PREF is its reads, the prefetch of each lane in turn, and its end. -/
theorem prefetchCompletes : Obligations.PrefetchCompletes := by
  intro f s c h hr w s1
  obtain ⟨hs, -, hwarp, -, hw, -⟩ := focusCtx_some h
  have hu : w.uid = c.ref.warp := ((afterReads_frame c _ _).1).trans (warpOf_uid hwarp)
  have hexec : exec (.pref f) s = (({ c with w } : Ctx).through fun s => c.lanes.foldl (fun s l => prefetch c s
      (c.sPair f.sb.toNat + (c.gLane f.g.toNat l).setWidth 64 + BitVec.ofNat 64 (f.imm.toNat * 64))) s).retire := by
    change execPref f s = _
    rw [execPref, withLM, withStrand_of_runs h, Ctx.withAddress, access_of_readable hr hw]
    rfl
  rw [hexec]
  exact through_retire hu _

end Sys2Proof.Proofs
end

section
/-! Fences, acquires and releases (11 R300, R301, R303, R306, R310). -/

namespace Sys2Proof.Proofs
open Sys2Proof Sys2Proof.Machine

/-! ## A context that has only read: where it retires or waits -/

theorem hasOnlyRead_start {s : State} {i : Instr} {g : Option Guard} {c : Ctx} (h : Runs s i g c) : HasOnlyRead c := by
  obtain ⟨hs, -, hw, hk, hcw, hck, -⟩ := focusCtx_some h
  exact ⟨hs ▸ hw, hk, congrArg Warp.uid hcw, fun n => congrArg (·.strandAt n) hcw, hck⟩

theorem hasOnlyRead_of_warps {c : Ctx} (hc : HasOnlyRead c) {s : State} (hs : s.warps = c.s.warps) :
    HasOnlyRead { c with s } := by
  obtain ⟨hw, hk, hu, hn, hck⟩ := hc
  exact ⟨by rw [← hw, warpOf, hs, warpOf], hk, hu, hn, hck⟩

/-- What its commit leaves with the strand k, over a state with the same warps. -/
theorem hasOnlyRead_leaves {c : Ctx} (hc : HasOnlyRead c) {b : State} (hb : b.warps = c.s.warps) {k : Strand}
    (hn : k.no = c.k0.no) : c.LeavesFrom b ({ c with s := b, k } : Ctx).commit c.w k := by
  have hwarp : warpOf b c.ref.warp = some c.w0 := by rw [← hc.warp, warpOf, hb, warpOf]
  have hl := commit_leaves (c := { c with s := b, k }) hwarp hc.strand hc.uid hc.strands hn
  exact ⟨hl.memory, hl.rest, hl.others, hl.warp⟩

theorem passed_of_hasOnlyRead {c : Ctx} (hc : HasOnlyRead c) {b : State} (hcy : b.cycles = c.s.cycles) :
    ({ c with s := b } : Ctx).passed = c.past := by
  simp only [Ctx.passed, Ctx.past, hc.unchanged, hcy]

theorem retire_of_hasOnlyRead {c : Ctx} (hc : HasOnlyRead c) {b : State} (hb : b.warps = c.s.warps)
    (hcy : b.cycles = c.s.cycles) :
    ∃ t, ({ c with s := b } : Ctx).retire = .next t ∧ c.LeavesFrom b t c.w c.past := by
  rw [Ctx.retire, passed_of_hasOnlyRead hc hcy]
  exact ⟨_, rfl, hasOnlyRead_leaves hc hb rfl⟩

theorem stall_of_hasOnlyRead {c : Ctx} (hc : HasOnlyRead c) (x : Wait) : ∃ t, c.stall x = .next t ∧ c.Waits t x := by
  have hl := commit_leaves (c := { c with w := c.w0, k := { c.k0 with wait := some x, waitSince := c.k0.waitsFrom x c.s.cycles } })
    hc.warp hc.strand rfl (fun _ => rfl) rfl
  exact ⟨_, rfl, hl.memory, hl.rest, hl.others, hl.warp⟩

/-! ## An acquire that ends its instruction (R301) -/

/-- It waits, or retires with the core's leased copies dropped where its scope is wider than CORE. -/
theorem acquire_leaves {c : Ctx} (hc : HasOnlyRead c) (n : Nat) :
    if acquireHolds c.s c.w0.core c.ref c.k0 n = true then
      ∃ t, c.acquire n (fun c => c.retire) = .next t ∧ c.LeavesFrom (c.afterAcquire n) t c.w c.past
    else ∃ t, c.acquire n (fun c => c.retire) = .next t ∧ c.Waits t (.acquired n) := by
  have hsame : (c.afterAcquire n).warps = c.s.warps ∧ (c.afterAcquire n).cycles = c.s.cycles := by
    unfold Ctx.afterAcquire
    split <;> exact ⟨rfl, rfl⟩
  have hafter : (if scopeYARD ≤ n then { c with s := dropLeases c.s c.w0.core } else c) = { c with s := c.afterAcquire n } := by
    unfold Ctx.afterAcquire
    split <;> rfl
  split
  case isTrue hholds =>
    rw [Ctx.acquire, hholds, hafter]
    exact retire_of_hasOnlyRead hc hsame.1 hsame.2
  case isFalse hwait =>
    rw [Ctx.acquire, Bool.eq_false_iff.mpr hwait]
    exact stall_of_hasOnlyRead hc _

/-! ## Pins published (R306): the end of a pin at its home changes no warp -/

theorem runActions_unpin_warps (s b : State) (line : Nat) (w : Word) :
    (runActions s line (partEvent b evUN) w false).warps = s.warps := by
  have hperform (s : State) : perform s line (partEvent b evUN) = s := rfl
  unfold runActions
  extract_lets serves s1 s2 s3 s4 s5 s6 s7 s8 s9 s10 s11
  have h1 : s1.warps = s.warps := warps_ite rfl
  have h2 : s2.warps = s1.warps := warps_ite rfl
  have h3 : s3.warps = s2.warps := warps_ite (backInvalidate_warps ..)
  have h4 : s4.warps = s3.warps := warps_ite (congrArg State.warps (hperform s3))
  have h5 : s5.warps = s4.warps := warps_ite rfl
  have h6 : s6.warps = s5.warps := warps_ite rfl
  have h7 : s7.warps = s6.warps := rfl
  have h8 : s8.warps = s7.warps := by simp [s8]
  have h9 : s9.warps = s8.warps := warps_ite (congrArg State.warps (hperform s8))
  have h10 : s10.warps = s9.warps := warps_ite (by simp [answerHere, answerOnly, partEvent, evUN, evHS])
  have h11 : s11.warps = s10.warps := warps_ite rfl
  rw [takeNext_warps, h11, h10, h9, h8, h7, h6, h5, h4, h3, h2, h1]

theorem publishPin_warps (s : State) (line : Nat) : (publishPin s line).warps = s.warps := by
  have hgathers : (meetsWord s line (partEvent s evUN)).2 = false := by simp [meetsWord, partEvent, evUN, evRE]
  unfold publishPin dispatchEvent
  generalize meetsWord s line (partEvent s evUN) = m at hgathers ⊢
  obtain ⟨w, g⟩ := m
  subst hgathers
  extract_lets h st s1 held
  have h1 : s1.warps = s.warps := by
    simp only [s1]
    split <;> rfl
  change (ite (wordHas w bitWT = true) _ _ : State × HomeResult).1.warps = _
  by_cases hwait : wordHas w bitWT = true
  · rw [if_pos hwait]
    extract_lets waiting until_ s2
    split <;> exact h1
  by_cases herror : wordHas w bitER = true
  · rw [if_neg hwait, if_pos herror]
    exact (takeNext_warps ..).trans h1
  · rw [if_neg hwait, if_neg herror]
    exact (runActions_unpin_warps ..).trans h1

theorem publishPins_warps (s : State) (p : L1Copy → Bool) : (publishPins s p).warps = s.warps := by
  unfold publishPins
  generalize (s.l1.filter fun c => isPin c.kind && p c) = pins
  induction pins generalizing s with
  | nil => rfl
  | cons x xs ih => rw [List.foldl_cons, ih, publishPin_warps]

/-! ## A release (R301, R310) -/

theorem release_of_not_holds {c : Ctx} {n : Nat} (h : releaseHolds c.s c.w0.core c.ref c.k0 n = false) (f : Ctx → Out) :
    c.release n f = c.stall (.released n) := by
  simp [Ctx.release, h]

theorem release_of_failure {c : Ctx} {n : Nat} (h : releaseHolds c.s c.w0.core c.ref c.k0 n = true) (hn : scopeNEAR ≤ n)
    (hv : rerrV c.k0.rerr = true) (f : Ctx → Out) : c.release n f = c.remoteTrap := by
  simp [Ctx.release, h, hn, hv]

theorem release_of_canRelease {c : Ctx} {n : Nat} (h : c.CanRelease n) (f : Ctx → Out) :
    c.release n f = f (c.afterRelease n) := by
  obtain ⟨hholds, hclear⟩ := h
  have hsound : (decide (scopeNEAR ≤ n) && rerrV c.k0.rerr) = false := by
    rcases hclear with hlt | hv
    · rw [decide_eq_false (Nat.not_le.mpr hlt), Bool.false_and]
    · rw [hv, Bool.and_false]
  simp [Ctx.release, Ctx.afterRelease, hholds, hsound]

/-- A change of the whole part that changes no warp only puts the reads so far in place. -/
theorem through_of_hasOnlyRead {c : Ctx} (hc : HasOnlyRead c) {f : State → State} (hf : ∀ s, (f s).warps = s.warps) :
    HasOnlyRead (c.through f) ∧ ∃ s w, c.through f = { c with s, w0 := w, w } := by
  obtain ⟨w, hw, -, hk, -⟩ := (commit_leaves hc.warp hc.strand hc.uid hc.strands (congrArg Strand.no hc.unchanged)).warp
  rw [hc.unchanged] at hk
  have hstands : c.StandsIn (f c.commit) w c.k0 := ⟨by rw [← hw, warpOf, hf, warpOf], hk⟩
  have hfound : c.through f = { c with s := f c.commit, w0 := w, w } := by
    rw [through_of_standsIn (hc.uid.trans (warpOf_uid hc.warp)) hstands, Ctx.found, hc.unchanged]
  rw [hfound]
  exact ⟨⟨hstands.1, hk, rfl, fun _ => rfl, hc.unchanged⟩, _, w, rfl⟩

/-- A release that goes through changes its warp only by putting the reads so far in place, and its strand not at all. -/
theorem afterRelease_frame {c : Ctx} (hc : HasOnlyRead c) (n : Nat) :
    HasOnlyRead (c.afterRelease n) ∧ (∃ s w0 w, c.afterRelease n = { c with s, w0, w }) ∧
      (c.w = c.w0 → (c.afterRelease n).w = (c.afterRelease n).w0) := by
  unfold Ctx.afterRelease
  split
  case isTrue =>
    obtain ⟨hd, s, w, hframe⟩ := through_of_hasOnlyRead hc (publishPins_warps · _)
    exact ⟨hd, ⟨s, w, w, hframe⟩, fun _ => by rw [show c.publishOwnPins = _ from hframe]⟩
  case isFalse => exact ⟨hc, ⟨c.s, c.w0, c.w, rfl⟩, id⟩

/-! ## The trap of a remote failure that a release finds (R310) -/

/-- The strand with V and MULT of the failure that it has recorded cleared. -/
def clearedFailure (k : Strand) : Strand := { k with rerr := k.rerr &&& 0x3FFFFFFF#32 }

theorem strandAt_updStrand {w : Warp} {no : Nat} {f : Strand → Strand} (hf : ∀ k, (f k).no = k.no) :
    (w.updStrand no f).strandAt no = (w.strandAt no).map f := by
  unfold Warp.strandAt Warp.updStrand
  split
  · rfl
  · exact updFirst_find?_self _ _ _ fun k hk => by rwa [hf]

theorem stopped_keeps (s : State) (k : Strand) : (k.stopped s).no = k.no ∧ (k.stopped s).rerr = k.rerr := by
  have hundone : k.undone.no = k.no ∧ k.undone.rerr = k.rerr := by
    unfold Strand.undone
    split <;> exact ⟨rfl, rfl⟩
  unfold Strand.stopped
  split
  · exact ⟨rfl, rfl⟩
  · split
    · exact ⟨rfl, rfl⟩
    · exact hundone

/-- A strand of a warp that stops with a trap (15 R397). -/
def stoppedFor (s : State) (r : TrapRec) (k : Strand) : Strand :=
  if (k.stopped s).no = r.strand ∧ r.issued then { k.stopped s with skipWatch := false, lastIssue := s.cycles } else k.stopped s

theorem stopFor_strands (s : State) (w : Warp) (r : TrapRec) : (w.stopFor s r).strands = w.strands.map (stoppedFor s r) := rfl

theorem stoppedFor_keeps (s : State) (r : TrapRec) (k : Strand) :
    (stoppedFor s r k).no = k.no ∧ (stoppedFor s r k).rerr = k.rerr := by
  unfold stoppedFor
  split <;> exact stopped_keeps s k

theorem strandAt_stopFor {w : Warp} {no : Nat} (hno : no ≠ kernelNo) (s : State) (r : TrapRec) :
    (w.stopFor s r).strandAt no = (w.strandAt no).map (stoppedFor s r) := by
  have hsame : ((·.no == no) ∘ stoppedFor s r) = fun k : Strand => k.no == no := by
    funext k
    simp [(stoppedFor_keeps s r k).1]
  rw [Warp.strandAt, Warp.strandAt, if_neg hno, if_neg hno, stopFor_strands, List.find?_map, hsame]

theorem ne_kernelNo_of_strandAt {w : Warp} {no : Nat} {k : Strand} (hk : w.kernel = none) (h : w.strandAt no = some k) :
    no ≠ kernelNo := by
  rintro rfl
  rw [Warp.strandAt, if_pos rfl, hk] at h
  cases h

theorem updStrand_kernel_none {w : Warp} (hk : w.kernel = none) (no : Nat) (f : Strand → Strand) :
    (w.updStrand no f).kernel = none := by
  unfold Warp.updStrand
  split
  · rw [hk]
    rfl
  · exact hk

/-- The failure that the strand has recorded, as a trap of the instruction that finds it. -/
def failureTrap (c : Ctx) : TrapRec :=
  { strand := c.no, cause := causeREMOTE, sub := field c.k0.rerr 15 8, addr := c.k0.rerrAddr, lanes := c.exec,
    value := c.value, remote := true, name := c.k0.rerrName }

/-- The warp that takes the trap: its strand's record of the failure is cleared first. -/
def clearedWarp (c : Ctx) : Warp := c.w0.updStrand c.ref.no clearedFailure

theorem clearedWarp_stands {c : Ctx} (hc : HasOnlyRead c) :
    warpOf (updStrand c.s c.ref clearedFailure) c.ref.warp = some (clearedWarp c) ∧
      (clearedWarp c).strandAt c.ref.no = some (clearedFailure c.k0) := by
  have hwarp := warpOf_updWarp_self c.s c.ref.warp (·.updStrand c.ref.no clearedFailure) fun w h =>
    (Warp.updStrand_uid ..).trans h
  have hstrand := strandAt_updStrand (w := c.w0) (no := c.ref.no) (f := clearedFailure) fun _ => rfl
  rw [hc.warp] at hwarp
  rw [hc.strand] at hstrand
  exact ⟨hwarp, hstrand⟩

theorem remoteTrap_takes {c : Ctx} (hc : HasOnlyRead c) :
    c.remoteTrap = .next (takeTrap (updStrand c.s c.ref clearedFailure) c.l c.g (clearedWarp c) (failureTrap c)) := by
  have hwarp : warpOf (updStrand c.s c.ref fun k => { k with rerr := k.rerr &&& 0x3FFFFFFF#32 }) c.ref.warp =
      some (clearedWarp c) := (clearedWarp_stands hc).1
  simp only [Ctx.remoteTrap, warpOf_uid hc.warp, hwarp]
  rfl

/-- Outside a trap kernel the warp stops with the failure as its trap, and the strand's record of it is cleared. -/
theorem remoteTrap_stops {c : Ctx} (hc : HasOnlyRead c) (hk : c.w0.kernel = none) :
    ∃ t w r k, c.remoteTrap = .next t ∧ warpOf t c.ref.warp = some w ∧ w.mode = .stopping r ∧ r.cause = causeREMOTE ∧
      r.sub = field c.k0.rerr 15 8 ∧ r.addr = c.k0.rerrAddr ∧ r.name = c.k0.rerrName ∧ r.lanes = c.exec ∧
      w.strandAt c.ref.no = some k ∧ k.rerr = c.k0.rerr &&& 0x3FFFFFFF#32 := by
  obtain ⟨hwarp, hstrand⟩ := clearedWarp_stands hc
  obtain ⟨s1, ⟨hws, -⟩, hstops⟩ := takeTrap_stops (updStrand c.s c.ref clearedFailure) c.l c.g (r := failureTrap c)
    (w := clearedWarp c) (updStrand_kernel_none hk _ _) (show causeREMOTE ≠ causePOISON by decide)
  have hsaved : warpOf (dropAsked s1 c.ref.warp) c.ref.warp = some (clearedWarp c) := by
    rw [warpOf, (dropAsked_frame ..).1, hws, ← warpOf, hwarp]
  have hstopped := warpOf_updWarp_self (dropAsked s1 c.ref.warp) c.ref.warp (·.stopFor s1 (failureTrap c)) fun w h => h
  rw [hsaved] at hstopped
  rw [warpOf_uid hwarp] at hstops
  have hstrand' := strandAt_stopFor (w := clearedWarp c) (ne_kernelNo_of_strandAt hk hc.strand) s1 (failureTrap c)
  rw [hstrand] at hstrand'
  exact ⟨_, _, failureTrap c, _, (remoteTrap_takes hc).trans (congrArg _ hstops), hstopped, rfl, rfl, rfl, rfl, rfl, rfl,
    hstrand', (stoppedFor_keeps ..).2⟩

/-! ## The obligation -/

/-- Settles O42: a release waits, traps, or goes on; an acquire waits, or retires; FENCE is the one and then the other. -/
theorem fenceResults : Obligations.FenceResults := by
  intro sp scope s c n d
  have exec_rel (h : Runs s (.rel sp scope) none c) : exec (.rel sp scope) s = c.release n fun c => c.retire :=
    withStrand_of_runs h _
  have exec_fence (h : Runs s (.fence sp scope) none c) :
      exec (.fence sp scope) s = c.release n fun c => c.acquire n fun c => c.retire := withStrand_of_runs h _
  refine ⟨?release, ?rel, ?acq, ?fence⟩
  case release =>
    intro i hi h
    have hc := hasOnlyRead_start h
    obtain ⟨f, hexec⟩ : ∃ f, exec i s = c.release n f := by
      rcases hi with rfl | rfl
      · exact ⟨_, exec_rel h⟩
      · exact ⟨_, exec_fence h⟩
    refine ⟨fun hwait => ?_, fun hholds hn hv hk => ?_⟩
    · rw [hexec, release_of_not_holds hwait]
      exact stall_of_hasOnlyRead hc _
    · rw [hexec, release_of_failure hholds hn hv]
      exact remoteTrap_stops hc hk
  case rel =>
    intro h hcan
    obtain ⟨-, -, -, -, hw, -⟩ := focusCtx_some h
    obtain ⟨hd, -, hdw⟩ := afterRelease_frame (hasOnlyRead_start h) n
    obtain ⟨t, ht, hl⟩ := retire_of_hasOnlyRead hd rfl rfl
    rw [exec_rel h, release_of_canRelease hcan]
    exact ⟨t, ht, fun _ => hdw hw ▸ hl⟩
  case acq =>
    intro h
    obtain ⟨-, -, -, -, hw, -⟩ := focusCtx_some h
    have hexec : exec (.acq sp scope) s = c.acquire n fun c => c.retire := withStrand_of_runs h _
    rw [hexec]
    exact hw ▸ acquire_leaves (hasOnlyRead_start h) n
  case fence =>
    intro h hcan
    obtain ⟨-, -, -, -, hw, -⟩ := focusCtx_some h
    obtain ⟨hd, -, hdw⟩ := afterRelease_frame (hasOnlyRead_start h) n
    have hacquire := acquire_leaves hd n
    rw [hdw hw] at hacquire
    rw [exec_fence h, release_of_canRelease hcan]
    split at hacquire
    case isTrue hholds =>
      obtain ⟨t, ht, hl⟩ := hacquire
      exact ⟨t, ht, fun _ => (if_pos hholds).mpr hl⟩
    case isFalse hwait =>
      obtain ⟨t, ht, hl⟩ := hacquire
      exact ⟨t, ht, fun _ => (if_neg hwait).mpr hl⟩

end Sys2Proof.Proofs
end

section
/-! REL and ACQ of a word, FLUSH and INV (11 R303, R304, R311, R312). -/

namespace Sys2Proof.Proofs
open Sys2Proof Sys2Proof.Machine

/-- Reads, and checks that pass, leave such a context. -/
theorem hasOnlyRead_of_reaches {s : State} {i : Instr} {g : Option Guard} {c : Ctx} (h : Runs s i g c) (gs : List (Nat × Bool))
    (ss : List Nat) {size : Nat} {write tagOk : Bool} {ls : List (Nat × DWord)} {s1 : State}
    {ps : List (Nat × DWord × Target)} (hr : c.Reaches false size write tagOk ls s1 ps) :
    HasOnlyRead { c with s := s1, w := c.afterReads gs ss } :=
  hasOnlyRead_of_warps (hasOnlyRead_of_runs h gs ss) (show s1.warps = c.s.warps by rw [← reaches_frame hr])

/-! ## Word forms past their reads (R303) -/

section Word
variable {f : SyncF} {s s1 : State} {c : Ctx} {ps : List (Nat × DWord × Target)}

/-- The warp after the reads of an address. -/
def wordReads (c : Ctx) (f : SyncF) : Warp := c.afterReads [(f.g.toNat, false)] [2 * f.sb.toNat, 2 * f.sb.toNat + 1]

/-- What REL of a word does once its release holds: a store of every lane's bytes. -/
def releasingStore (f : SyncF) (ps : List (Nat × DWord × Target)) (c : Ctx) : Out :=
  (c.start (some .st) (some .st)
    (.store (syncSize f) f.scope.toNat true (lanesWith ps (c.bytesOf f.slot.toNat (syncSize f))))).retireSending c.s.nextId false
    (fun x => c.asks c.s.nextId .release (syncSize f) x.data x) (lanesWith ps (c.bytesOf f.slot.toNat (syncSize f)))

theorem exec_relWord (h : Runs s (.relWord f) none c) (hr : c.Readable [f.g.toNat] [2 * f.sb.toNat, 2 * f.sb.toNat + 1])
    (hst : c.k0.st.length < 63) (hq : queueGrants c.s c.w0.core .st = true)
    (hreach : c.LanesReach (syncSize f) true false (c.address f.sb.toNat f.g.toNat f.off.toNat) s1 ps)
    (hwatch : c.Unwatched s1 1 (syncSize f) (c.address f.sb.toNat f.g.toNat f.off.toNat)) :
    exec (.relWord f) s =
      ({ c with s := s1, w := wordReads c f } : Ctx).release f.scope.toNat (releasingStore f ps) := by
  obtain ⟨-, -, -, -, hw, -⟩ := focusCtx_some h
  change execRelWord f s = _
  rw [execRelWord, withStrand_of_runs h, Ctx.withAddress, access_of_readable hr hw, ← wordReads,
    grantWait_st (c := { c with w := wordReads c f }) hst hq]
  exact (checked_of_reaches (c := { c with w := wordReads c f }) hreach 1 _).trans
    (watched_of (c := c) (c' := { c with s := s1, w := wordReads c f }) rfl rfl rfl rfl hwatch _ rfl)

/-- What ACQ of a word does once an earlier acquire would hold: a load that its strand waits for. -/
def acquiringLoad (f : SyncF) (ps : List (Nat × DWord × Target)) (c : Ctx) : Out :=
  (c.start none none (.load (syncSize f) (destOf f.slot.toNat (syncSize f) false) (acqCode f.scope.toNat)
    (lanesWith ps fun _ => []))).awaitOp c.s.nextId f.slot.toNat (max 1 (syncSize f / 4))
    (fun x => c.asks c.s.nextId (if scopeCORE < f.scope.toNat then .acquire else .read) (syncSize f) [] x)
    (lanesWith ps fun _ => [])

theorem exec_acqWord_first (h : Runs s (.acqWord f) none c) (hwait : ∀ id slot old, c.k0.wait ≠ some (.values id slot old))
    (hr : c.Readable [f.g.toNat] [2 * f.sb.toNat, 2 * f.sb.toNat + 1])
    (hholds : acquireHolds c.s c.w0.core c.ref c.k0 f.scope.toNat = true)
    (hreach : c.LanesReach (syncSize f) false false (c.address f.sb.toNat f.g.toNat f.off.toNat) s1 ps)
    (hwatch : c.Unwatched s1 0 (syncSize f) (c.address f.sb.toNat f.g.toNat f.off.toNat)) :
    exec (.acqWord f) s = acquiringLoad f ps { c with s := s1, w := wordReads c f } := by
  obtain ⟨-, -, -, -, hw, -⟩ := focusCtx_some h
  change execAcqWord f s = _
  rw [execAcqWord, withStrand_of_runs h]
  dsimp only
  split
  · next id slot old hvalues => exact absurd hvalues (hwait id slot old)
  · rw [Ctx.withAddress, access_of_readable hr hw, ← wordReads]
    simp only [hholds, Bool.not_true, Bool.false_eq_true, if_false]
    exact (checked_of_reaches (c := { c with w := wordReads c f }) hreach 0 _).trans
      (watched_of (c := c) (c' := { c with s := s1, w := wordReads c f }) rfl rfl rfl rfl hwatch _ rfl)

theorem exec_acqWord_came (h : Runs s (.acqWord f) none c) {id slot : Nat} {old : List (Lanes Word)}
    (hwait : c.k0.wait = some (.values id slot old)) : exec (.acqWord f) s =
      if acquireHolds c.s c.w0.core c.ref c.k0 f.scope.toNat then c.acquire f.scope.toNat fun c => c.retire
      else c.stall (.values id slot old) := by
  change execAcqWord f s = _
  rw [execAcqWord, withStrand_of_runs h]
  simp only [hwait]

/-! ## What they leave -/

theorem releasingStore_begins (hc : HasOnlyRead c) : ∃ t, releasingStore f ps c = .next t ∧
    c.Begins t c.s c.w .st (some .st)
      (.store (syncSize f) f.scope.toNat true (lanesWith ps (c.bytesOf f.slot.toNat (syncSize f)))) false
      (fun x => c.asks c.s.nextId .release (syncSize f) x.data x) (lanesWith ps (c.bytesOf f.slot.toNat (syncSize f))) :=
  ⟨_, rfl, retireSending_begins hc rfl rfl⟩

/-- An ACQ of a word writes one slot or a pair. -/
theorem max_one_syncSize (f : SyncF) : max 1 (syncSize f / 4) = syncSize f / 4 := by
  unfold syncSize
  split <;> rfl

/-- The strand that waits for the values of operation id, with the slots that they go to kept as they are. -/
def awaiting (f : SyncF) (c : Ctx) : Strand :=
  { c.k0 with wait := some (.values c.s.nextId f.slot.toNat ((c.k0.slots.drop f.slot.toNat).take (syncSize f / 4)))
              waitSince := c.s.cycles }

theorem sendLanes_eq_ite (s : State) (tenant id : Nat) (posted : Bool) (mk : LaneAccess → Sent) (ls : List LaneAccess) :
    sendLanes s tenant id posted mk ls =
      if ls.all fun a => !isRemote a.target then s else sendLanes s tenant id posted mk ls := by
  split
  case isTrue hlocal => exact sendLanes_local _ _ _ _ _ _ hlocal
  case isFalse => rfl

theorem acquiringLoad_waits (hc : HasOnlyRead c) : ∃ t u, acquiringLoad f ps c = .next t ∧
    c.LeavesFrom (c.begun c.s none (.load (syncSize f) { slot := f.slot.toNat, count := syncSize f / 4, signed := false }
        (8 + f.scope.toNat) (lanesWith ps fun _ => []))) u c.w (awaiting f c) ∧
    t = if (lanesWith ps fun _ => []).all fun a => !isRemote a.target then u
      else sendLanes u c.tenant c.s.nextId false
        (fun x => c.asks c.s.nextId (if scopeCORE < f.scope.toNat then .acquire else .read) (syncSize f) [] x)
        (lanesWith ps fun _ => []) := by
  let b := c.begun c.s none (.load (syncSize f) { slot := f.slot.toNat, count := syncSize f / 4, signed := false }
    (8 + f.scope.toNat) (lanesWith ps fun _ => []))
  have hload : acquiringLoad f ps c = .next (sendLanes ({ c with s := b, k := awaiting f c } : Ctx).commit c.tenant c.s.nextId
      false (fun x => c.asks c.s.nextId (if scopeCORE < f.scope.toNat then .acquire else .read) (syncSize f) [] x)
      (lanesWith ps fun _ => [])) := by
    simp only [acquiringLoad, Ctx.start, Ctx.awaitOp, hc.unchanged, destOf, max_one_syncSize]
    rfl
  exact ⟨_, _, hload, hasOnlyRead_leaves hc (b := b) (k := awaiting f c) rfl rfl, sendLanes_eq_ite ..⟩

end Word

/-! ## FLUSH and INV up to their walk over the lines (R311, R312) -/

/-- The accesses by which the pages of the range are checked. -/
def walkRead (c : Ctx) : AccessReq := { size := 64, write := false, tagOk := false, priv := c.l.privileged }

section Walk
variable {f : FlushF} {drop : Bool} {c : Ctx} {lines : List Target}

theorem flush_first (hw : c.w = c.w0) (hwait : ∀ held left all base, c.k0.wait ≠ some (.walk held left all base))
    (hr : c.Readable [] [2 * f.sb.toNat, 2 * f.sb.toNat + 1, f.s.toNat]) {s1 : State}
    (hpages : checkPages c.s c.w0.core c.tenant (walkRead c)
      (pageStarts (c.sPair f.sb.toNat).toNat (c.sReg f.s.toNat).toNat) = (s1, none))
    (hholds : releaseHolds s1 c.w0.core c.ref c.k0 (max f.scope.toNat scopeYARD) = true) (hposted : ownPosted s1 c.ref = false)
    (hlines : lines = linePlaces s1 c.tenant (walkRead c) (c.sPair f.sb.toNat).toNat (c.sReg f.s.toNat).toNat) :
    c.flush f drop = ({ c with s := s1, w := c.afterReads [] [2 * f.sb.toNat, 2 * f.sb.toNat + 1, f.s.toNat] } : Ctx).walk
      f.scope.toNat drop lines lines (c.sPair f.sb.toNat).toNat := by
  unfold Ctx.flush
  dsimp only
  split
  next held left all base hwalk => exact absurd hwalk (hwait held left all base)
  next =>
    refine (access_of_readable (gs := []) hr hw _).trans ?_
    -- The checks look at nothing that the reads change: from here on they are those of one context d.
    generalize hd : ({ c with w := c.afterReads [] [2 * f.sb.toNat, 2 * f.sb.toNat + 1, f.s.toNat] } : Ctx) = d
    have hsame : { d with w := c.w } = c := by rw [← hd]
    rw [← hsame] at hpages hholds hposted hlines
    replace hpages : checkPages d.s d.w0.core d.tenant
      { size := 64, write := false, tagOk := false, priv := d.l.privileged }
      (pageStarts (d.sPair f.sb.toNat).toNat (d.sReg f.s.toNat).toNat) = (s1, none) := hpages
    simp only [hpages]
    rw [if_neg (by simp [hholds, hposted]), hlines, ← hd]
    rfl

/-- A walk whose line its home has served goes on after the line, the answer taken. -/
theorem flush_answered {left : List Target} {base : Nat} (hwait : c.k0.wait = some (.walk true left lines base))
    (hfree : walkHeld c.s (readCode c.ref) left = false) {a : LineAnswer}
    (ha : walkAnswer c.s c.w0.core (readCode c.ref) left = some a) (herror : a.error = none) :
    c.flush f drop = ({ c with s := dropAnswers c.s (some c.w0.core) (readCode c.ref) [a.line] } : Ctx).walk f.scope.toNat drop
      (left.drop 1) lines base := by
  unfold Ctx.flush
  simp only [hwait, hfree, ha, herror, Bool.and_false, Bool.false_eq_true, if_false, if_true]

/-- Any other walk that no home holds goes on at the line where it stopped. -/
theorem flush_unanswered {held : Bool} {left : List Target} {base : Nat} (hwait : c.k0.wait = some (.walk held left lines base))
    (hfree : held = true → walkHeld c.s (readCode c.ref) left = false ∧ walkAnswer c.s c.w0.core (readCode c.ref) left = none) :
    c.flush f drop = c.walk f.scope.toNat drop left lines base := by
  unfold Ctx.flush
  simp only [hwait]
  cases held with
  | false => rfl
  | true =>
    obtain ⟨hfree, hnone⟩ := hfree rfl
    simp only [hfree, hnone, Bool.and_false, Bool.false_eq_true, if_false, if_true]

/-! ## The walk to its end -/

theorem onTo_of_standsIn (hu : c.w.uid = c.ref.warp) {s : State} {w1 : Warp} {k1 : Strand} (h : c.StandsIn s w1 k1) :
    c.onTo s = { c.found s w1 k1 with w := { w1 with full := c.w.full, seen := c.w.seen } } := by
  obtain ⟨hw, hk⟩ := h
  simp only [Ctx.onTo, hu, hw, hk]
  rfl

theorem walk_retires (hu : c.w.uid = c.ref.warp) {n : Nat} {todo : List Target} {base : Nat} {s2 : State} {w2 : Warp} {k2 : Strand}
    (hflush : flushLines c.s c.w0.core c.tenant (readCode c.ref) n todo = (s2, .done, [])) (hstands : c.StandsIn s2 w2 k2) :
    let s3 := ({ c.found s2 w2 k2 with w := { w2 with full := c.w.full, seen := c.w.seen } } : Ctx).commit
    let s3 := if drop then lines.foldl (fun s t => invLine s c.w0.core n t) s3 else s3
    ∃ t, c.walk n drop todo lines base = .next t ∧
      ∀ w1 k1, c.StandsIn s3 w1 k1 → (c.found s3 w1 k1).Leaves t w1 (c.found s3 w1 k1).past := by
  rw [Ctx.walk, hflush]
  simp only [onTo_of_standsIn hu hstands]
  exact through_retire (c := { c.found s2 w2 k2 with w := { w2 with full := c.w.full, seen := c.w.seen } })
    (show w2.uid = c.ref.warp from warpOf_uid hstands.1) _

end Walk

/-! ## The obligation -/

/-- Settles O43: the word forms are their reads and checks, and then a release and a store, or a load and an acquire; FLUSH and
INV are their checks, the walk over the lines, and its end. -/
theorem wordsAndLines : Obligations.WordsAndLines := by
  refine ⟨?words, ?lines⟩
  case' words =>
    intro f s c size n va w read
    refine ⟨?release, ?load, ?came⟩
  case release =>
    intro h hr hst hq s1 ps hreach hwatch hcan d ls
    have hc : HasOnlyRead { c with s := s1, w } := hasOnlyRead_of_reaches h _ _ hreach
    obtain ⟨hd, ⟨s', w0', w', hframe⟩, -⟩ := afterRelease_frame hc n
    have hbytes : (({ c with s := s1, w } : Ctx).afterRelease n).bytesOf = c.bytesOf := by
      rw [hframe]
      rfl
    obtain ⟨t, ht, hbegins⟩ := releasingStore_begins (f := f) (ps := ps) hd
    rw [hbytes] at hbegins
    exact ⟨t, (exec_relWord h hr hst hq hreach hwatch).trans ((release_of_canRelease hcan _).trans ht), fun _ => hbegins⟩
  case load =>
    intro h hwait hr hholds s1 ps hreach hwatch ls
    have hc : HasOnlyRead { c with s := s1, w } := hasOnlyRead_of_reaches h _ _ hreach
    obtain ⟨t, u, ht, hl, hsent⟩ := acquiringLoad_waits (f := f) (ps := ps) hc
    have hcycles : s1.cycles = c.s.cycles := by rw [← reaches_frame hreach]
    simp only [awaiting, hcycles] at hl
    exact ⟨t, u, (exec_acqWord_first h hwait hr hholds hreach hwatch).trans ht,
      ⟨hl.memory, hl.rest, hl.others, hl.warp⟩, hsent⟩
  case came =>
    intro id slot old h hwait
    obtain ⟨-, -, -, -, hw, -⟩ := focusCtx_some h
    have hacquire := acquire_leaves (hasOnlyRead_start h) n
    rw [exec_acqWord_came h hwait]
    split
    case isTrue hholds =>
      rw [if_pos hholds, hw] at hacquire
      exact hacquire
    case isFalse => exact stall_of_hasOnlyRead (hasOnlyRead_start h) _
  case lines =>
    intro f i drop s c hi h n base size r w s1 todo lines hbegins s2 w2 k2 hflush hstands
    obtain ⟨-, -, -, -, hw, -⟩ := focusCtx_some h
    have hu : c.w0.uid = c.ref.warp := warpOf_uid (hasOnlyRead_start h).warp
    have hexec : exec i s = c.flush f drop := by
      rcases hi with ⟨rfl, rfl⟩ | ⟨rfl, rfl⟩
      · exact withStrand_of_runs h _
      · exact withStrand_of_runs h _
    -- However the walk begins, it is one over the lines todo from a context that has read w and stands in s1.
    obtain ⟨hflushes, hstart⟩ : (∃ base, c.flush f drop = ({ c with s := s1, w } : Ctx).walk n drop todo lines base) ∧
        w.uid = c.ref.warp := by
      rcases hbegins with ⟨hwait, hr, rfl, hpages, hholds, hposted, hlines, rfl⟩ | ⟨rfl, held, left, base, hwait, hgoes⟩
      · exact ⟨⟨_, flush_first hw hwait hr hpages hholds hposted hlines⟩, (afterReads_frame c _ _).1.trans hu⟩
      · have hc (s1 : State) : ({ c with s := s1 } : Ctx) = { c with s := s1, w := c.w0 } :=
          congrArg (fun w => ({ c with s := s1, w } : Ctx)) hw
        refine ⟨⟨base, ?_⟩, hu⟩
        rw [← hc]
        cases held with
        | false =>
          obtain ⟨rfl, rfl⟩ := hgoes
          exact flush_unanswered hwait nofun
        | true =>
          obtain ⟨hfree, hanswer⟩ := hgoes
          cases ha : walkAnswer c.s c.w0.core (readCode c.ref) left with
          | none =>
            rw [ha] at hanswer
            obtain ⟨rfl, rfl⟩ := hanswer
            exact flush_unanswered hwait fun _ => ⟨hfree, ha⟩
          | some a =>
            rw [ha] at hanswer
            obtain ⟨herror, rfl, rfl⟩ := hanswer
            exact flush_answered hwait hfree ha herror
    obtain ⟨base', hwalk⟩ := hflushes
    obtain ⟨t, ht, hl⟩ := walk_retires (c := { c with s := s1, w }) (drop := drop) (lines := lines) (base := base') hstart hflush
      hstands
    exact ⟨t, hexec.trans (hwalk.trans ht), hl⟩

end Sys2Proof.Proofs
end

section
/-! ATOM, ATOMC and RED up to their issue (11 R313, R314, R318). -/

namespace Sys2Proof.Proofs
open Sys2Proof Sys2Proof.Machine

/-! ## The operation of an atomic -/

/-- The counter of an atomic: LD where it returns values, else ST. -/
def atomicCounter (returns : Bool) : CounterClass := if returns then .ld else .st

/-- The strand past an atomic that has issued: an acquiring one has it wait for its end. -/
def issuedAtomic (f : AtomF) (returns : Bool) (c : Ctx) : Strand :=
  if f.sem.getLsbD 0 then
    { c.counted c.s.nextId (atomicCounter returns) with wait := some (.acquired f.scope.toNat), waitSince := c.s.cycles }
  else c.counted c.s.nextId (atomicCounter returns)

/-- The state in which it has issued, before its requests go out. -/
def afterAtomic (f : AtomF) (returns : Bool) (ls : List (LaneAccess × DWord × DWord)) (c : Ctx) : State :=
  ({ c with s := c.begun c.s (some .st) (.atomic f returns ls), k := issuedAtomic f returns c } : Ctx).commit

section Issue
variable {f : AtomF} {returns : Bool} {ls : List (LaneAccess × DWord × DWord)} {c : Ctx}

theorem afterAtomic_leaves (hc : HasOnlyRead c) :
    c.LeavesFrom (c.begun c.s (some .st) (.atomic f returns ls)) (afterAtomic f returns ls c) c.w (issuedAtomic f returns c) := by
  refine hasOnlyRead_leaves hc (b := c.begun c.s (some .st) (.atomic f returns ls)) (k := issuedAtomic f returns c) rfl ?_
  unfold issuedAtomic atomicCounter
  cases returns <;> split <;> rfl

/-- The operation that has just begun, where its number is that of no other. -/
theorem opOf_afterAtomic (hfresh : ∀ o ∈ c.s.ops, o.id ≠ c.s.nextId) :
    ∃ o, opOf (afterAtomic f returns ls c) c.s.nextId = some o ∧ o.body = .atomic f returns ls := by
  have hnone : c.s.ops.find? (·.id == c.s.nextId) = none := List.find?_eq_none.mpr fun o ho => by simpa using hfresh o ho
  refine ⟨{ id := c.s.nextId, owner := c.ref, value := c.value, exec := c.exec, queued := some .st, cancelled := none,
            steps := [], body := .atomic f returns ls }, ?_, rfl⟩
  change (c.s.ops ++ [_]).find? _ = _
  rw [List.find?_append, hnone]
  simp

theorem remoteGroups_local (h : ∀ x ∈ ls, isRemote x.1.target = false) : remoteGroups ls = [] := by
  have hnone : (ls.filter fun x => isRemote x.1.target) = [] := List.filter_eq_nil_iff.mpr fun x hx => by simp [h x hx]
  simp [remoteGroups, hnone]

/-- An atomic whose lanes lie in the part asks for nothing. -/
theorem sendGroups_local (h : ∀ x ∈ ls, isRemote x.1.target = false) (hfresh : ∀ o ∈ c.s.ops, o.id ≠ c.s.nextId) (tenant : Nat) :
    sendGroups (afterAtomic f returns ls c) tenant c.s.nextId = afterAtomic f returns ls c := by
  obtain ⟨o, ho, hbody⟩ := opOf_afterAtomic (f := f) (returns := returns) (ls := ls) hfresh
  have hlanes : groupLanes [] = [] := by simp [groupLanes]
  simp only [sendGroups, ho, hbody, remoteGroups_local h, List.filter_nil, List.foldl_nil, hlanes, failLanes]

end Issue

/-! ## An atomic past its reads, waits and checks -/

theorem exec_atomForm {p : (AtomF → Instr) × Bool} (hp : p ∈ atomForms) (f : AtomF) (s : State) :
    exec (p.1 f) s = withStrand (p.1 f) none s fun c => c.atomic f p.2 := by
  simp only [atomForms, List.mem_cons, List.not_mem_nil, or_false] at hp
  rcases hp with rfl | rfl | rfl <;> rfl

theorem grantWait_atomic {c : Ctx} {returns : Bool} (h : (c.k0.counter (atomicCounter returns)).length < 63)
    (hq : queueGrants c.s c.w0.core .st = true) : c.grantWait (some (atomicCounter returns)) (some .st) = none := by
  have hmax : (atomicCounter returns).max = 63 := by cases returns <;> rfl
  have hroom : ¬ (atomicCounter returns).max ≤ c.k0.count (atomicCounter returns) := hmax ▸ Nat.not_le.mpr h
  simp [Ctx.grantWait, hroom, hq]

/-- An atomic that has started: its operation counted, its strand past it, and its requests sent. -/
def issueAtomic (f : AtomF) (returns : Bool) (ls : List (LaneAccess × DWord × DWord)) (c : Ctx) : Out :=
  .next (sendGroups (afterAtomic f returns ls c) c.tenant c.s.nextId)

/-- The context in which an atomic issues: after its release, where it is a releasing one. -/
def atomicReleased (f : AtomF) (c : Ctx) : Ctx := if f.sem.getLsbD 1 then c.afterRelease f.scope.toNat else c

theorem hasOnlyRead_atomicReleased {f : AtomF} {c : Ctx} (hc : HasOnlyRead c) :
    HasOnlyRead (atomicReleased f c) ∧ (atomicReleased f c).tenant = c.tenant := by
  unfold atomicReleased
  split
  · obtain ⟨hd, ⟨s, w0, w, hframe⟩, -⟩ := afterRelease_frame hc f.scope.toNat
    exact ⟨hd, by rw [hframe]; rfl⟩
  · exact ⟨hc, rfl⟩

/-- The model's last step, from a context whose strand stands as it found it. -/
theorem start_issueAtomic {c : Ctx} (hk : c.k = c.k0) (f : AtomF) (returns : Bool)
    (ls : List (LaneAccess × DWord × DWord)) :
    let d := c.start (some (atomicCounter returns)) (some .st) (.atomic f returns ls)
    let k := if semAcq f then { d.passed with wait := some (.acquired f.scope.toNat), waitSince := d.s.cycles } else d.passed
    Host.Outcome.next (sendGroups ({ d with k } : Ctx).commit d.tenant c.s.nextId) = issueAtomic f returns ls c := by
  have hpassed : (c.start (some (atomicCounter returns)) (some .st) (.atomic f returns ls)).passed =
      c.counted c.s.nextId (atomicCounter returns) := by
    cases returns <;> simp only [atomicCounter, Ctx.start, Ctx.passed, Ctx.counted, Ctx.past, Strand.setCounter, Strand.counter,
      hk] <;> rfl
  simp only [hpassed]
  rfl

theorem exec_atomic {p : (AtomF → Instr) × Bool} (hp : p ∈ atomForms) {f : AtomF} {s : State} {c : Ctx}
    (h : Runs s (p.1 f) none c) (hr : c.Readable [f.g.toNat] [2 * f.sb.toNat, 2 * f.sb.toNat + 1])
    (hcount : (c.k0.counter (atomicCounter p.2)).length < 63) (hq : queueGrants c.s c.w0.core .st = true) {s1 : State}
    {ps : List (Nat × DWord × Target)}
    (hreach : c.LanesReach (atomBytes f.ty.toNat) true false (c.address f.sb.toNat f.g.toNat f.off.toNat) s1 ps)
    (hwatch : c.Unwatched s1 2 (atomBytes f.ty.toNat) (c.address f.sb.toNat f.g.toNat f.off.toNat))
    {c1 : Ctx} (hc1 : c1 = { c with s := s1, w := c.afterReads [(f.g.toNat, false)] [2 * f.sb.toNat, 2 * f.sb.toNat + 1] })
    (hcan : f.sem.getLsbD 1 = true → c1.CanRelease f.scope.toNat) :
    exec (p.1 f) s = issueAtomic f p.2 (c.atomicLanes f ps) (atomicReleased f c1) := by
  obtain ⟨-, -, -, -, hw, -⟩ := focusCtx_some h
  subst hc1
  have hc := hasOnlyRead_of_reaches h [(f.g.toNat, false)] [2 * f.sb.toNat, 2 * f.sb.toNat + 1] hreach
  have hissue := fun d (hd : HasOnlyRead d) => start_issueAtomic hd.unchanged f p.2 (c.atomicLanes f ps)
  rw [exec_atomForm hp, withStrand_of_runs h, Ctx.atomic, Ctx.withAddress, access_of_readable hr hw]
  generalize hw1 : c.afterReads [(f.g.toNat, false)] [2 * f.sb.toNat, 2 * f.sb.toNat + 1] = w at *
  have hgrant : ({ c with w } : Ctx).grantWait (some (if p.2 then .ld else .st)) (some .st) = none := grantWait_atomic hcount hq
  simp only [hgrant]
  refine (checked_of_reaches (c := { c with w }) hreach 2 _).trans
    ((watched_of (c := c) (c' := { c with s := s1, w }) rfl rfl rfl rfl hwatch _ rfl).trans ?_)
  unfold atomicReleased
  by_cases hrel : f.sem.getLsbD 1 = true
  · rw [if_pos hrel]
    refine (if_pos hrel).trans ((release_of_canRelease (hcan hrel) _).trans ?_)
    exact hissue _ (afterRelease_frame hc _).1
  · rw [if_neg hrel]
    exact (if_neg hrel).trans (hissue _ hc)

/-! ## The obligation -/

/-- Settles O44: past its reads, its waits, its checks and its release, an atomic is one operation and its requests. -/
theorem atomicsIssue : Obligations.AtomicsIssue := by
  intro p hp f s c h hr cl hcount hq n va s1 ps hreach hwatch c1 hcan d k
  obtain ⟨hd, htenant⟩ := hasOnlyRead_atomicReleased (f := f) (hasOnlyRead_of_reaches h [(f.g.toNat, false)]
    [2 * f.sb.toNat, 2 * f.sb.toNat + 1] hreach)
  have hexec := exec_atomic hp h hr hcount hq hreach hwatch (c1 := c1) rfl hcan
  refine ⟨_, afterAtomic f p.2 (c.atomicLanes f ps) d, hexec, fun _ => afterAtomic_leaves hd, ?sent, fun hlocal hfresh => ?none⟩
  case sent => rw [htenant]; rfl
  case none =>
    refine sendGroups_local (fun x hx => ?_) hfresh _
    obtain ⟨y, hy, rfl⟩ := List.mem_map.mp hx
    exact hlocal y hy

end Sys2Proof.Proofs
end

section
/-! A rendezvous wait whose phase has passed, and the stores that an earlier load read (11 R301, R320). -/

namespace Sys2Proof.Proofs
open Sys2Proof Sys2Proof.Machine

/-! ## RVWAIT past its phase is an acquire -/

theorem exec_rvwait_passed {f : RvF} {s : State} {c : Ctx} (h : Runs s (.rvwait f) none c) (hno : c.ref.no ≠ kernelNo)
    {p : Point} (hp : c.HasPoint f.pt.toNat p) (hi : p.init = true) (hpassed : pointPassed c.k0 f.pt.toNat p = true) :
    exec (.rvwait f) s = c.acquire scopeCORE fun c => c.retire := by
  obtain ⟨t, ht, hpt⟩ := hp
  change execRvwait f s = _
  rw [execRvwait, withStrand_of_runs h, notInKernel_of_ne hno]
  simp [Ctx.withPoint, ht, hpt, hi, Ctx.pointWait, hpassed]

theorem acquireHolds_of_readsOwn {s : State} {r : StrandRef} (h : readsOwn s r = true) (core : Nat) (k : Strand) (n : Nat) :
    acquireHolds s core r k n = false := by
  simp [acquireHolds, h]

/-- A strand that waits is not past its instruction. -/
theorem not_leaves_past_of_waits {c : Ctx} {t : State} {x : Wait} (hwaits : c.Waits t x) (w : Warp) :
    ¬ c.Leaves t w c.past := by
  intro hl
  obtain ⟨w1, hw1, -, hk1, -⟩ := hwaits.warp
  obtain ⟨w2, hw2, -, hk2, -⟩ := hl.warp
  cases hw1.symm.trans hw2
  cases congrArg (Option.map Strand.wait) (hk1.symm.trans hk2)

/-! ## A strand that has read a store of its own -/

/-- Point 15, of one arrival. -/
def waitAt15 : RvF := { sp := none, pt := 15, cnt := 0, d := 0, wd := false }

/-- The strand arrived in phase 0 and then stored a word, which its core does not see yet, and read it back. -/
def storeReadBack : Op :=
  { id := 4, owner := ⟨3, 0⟩, value := 0, exec := 1, queued := some .st, cancelled := none, steps := []
    body := .store 4 0 false [{ lane := 0, va := 0, target := .mem 0, data := [1, 0, 0, 0], back := some [] }] }

/-- The one strand of the part at its RVWAIT: the point's phase is 1, LD is 0, and the store is counted in ST. -/
def afterReadBack : State :=
  let s := placeCode State.reset (encode (.rvwait waitAt15))
  let s := updTeam s 2 0 fun t => { t with points := t.points.set 15 { init := true, expected := 1, pending := 1, phase := 1 } }
  let s := updStrand s ⟨3, 0⟩ fun k => { k with st := [{ op := 4, done := false }], arrivals := [{ pt := 15, phase := 0 }] }
  { s with focus := some ⟨3, 0⟩, nextId := 5, ops := [storeReadBack] }

/-- What the refuted clause asks of a context, and a store of the strand that a load of it has read. -/
def passedWithReadBack (c : Ctx) : Bool :=
  decide (c.ref.no ≠ kernelNo) && decide (c.k0.ld = []) && readsOwn c.s c.ref &&
    c.team.any fun t => t.points[15]?.any fun p => p.init && pointPassed c.k0 15 p

theorem afterReadBack_runs : ∃ c, Runs afterReadBack (.rvwait waitAt15) none c ∧ passedWithReadBack c = true :=
  (Option.any_eq_true _ _).mp (by decide +kernel)

/-- Refutes O46: RVWAIT acquires at CORE once the phase has passed, and an acquire waits for every store that an earlier load
read (11 R301), not for LD alone. In `afterReadBack` the phase has passed and LD is 0, and RVWAIT waits for the strand's store. -/
theorem not_rendezvousInstructions : ¬ Obligations.RendezvousInstructions := by
  intro h
  obtain ⟨hpoints, -⟩ := h
  obtain ⟨c, hruns, hc⟩ := afterReadBack_runs
  simp only [passedWithReadBack, Bool.and_eq_true, decide_eq_true_eq, Option.any_eq_true] at hc
  obtain ⟨⟨⟨hno, hld⟩, hread⟩, tm, htm, p, hp, hinit, hpassed⟩ := hc
  have hpoint : c.HasPoint waitAt15.pt.toNat p := ⟨tm, htm, hp⟩
  obtain ⟨-, hinited⟩ := hpoints waitAt15 p afterReadBack c hno hpoint
  obtain ⟨-, hwait, -⟩ := hinited hinit
  obtain ⟨hcompletes, -⟩ := hwait _ (.inl rfl) hruns
  obtain ⟨t, ht, hl⟩ := hcompletes hpassed hld
  have hacquire := acquire_leaves (hasOnlyRead_start hruns) scopeCORE
  rw [if_neg (by simp [acquireHolds_of_readsOwn hread])] at hacquire
  obtain ⟨t', ht', hwaits⟩ := hacquire
  rw [exec_rvwait_passed hruns hno hpoint hinit hpassed, ht'] at ht
  cases ht
  exact not_leaves_past_of_waits hwaits _ hl

end Sys2Proof.Proofs
end

section
/-! The decoder reads every Xbrod instruction back from its word (14 R392). -/

namespace Sys2Proof.Proofs
open Sys2Proof Sys2Proof.Machine

/-! ## The fields of an Xbrod word -/

section Fields
variable (f7 : BitVec 7) (f3 : BitVec 3) (f : XbrodF)

theorem xbrodFields_encodeXbrod : xbrodFields (encodeXbrod f7 f3 f) = f := by
  simp (disch := decide) [-Nat.reduceAdd, xbrodFields, encodeXbrod, extractLsb'_append]
theorem encodeXbrod_opcode : (encodeXbrod f7 f3 f).extractLsb' 0 7 = 0x0B#7 := BitVec.extractLsb'_append_eq_right
theorem encodeXbrod_funct7 : (encodeXbrod f7 f3 f).extractLsb' 25 7 = f7 := by
  simp (disch := decide) [-Nat.reduceAdd, encodeXbrod, extractLsb'_append]
theorem encodeXbrod_funct3 : (encodeXbrod f7 f3 f).extractLsb' 12 3 = f3 := by
  simp (disch := decide) [-Nat.reduceAdd, encodeXbrod, extractLsb'_append]

theorem xbrodForm_encodeXbrod : xbrodForm (encodeXbrod f7 f3 f) = match f7.toNat, f3.toNat with
    | 0, 0 => some 0
    | 1, 0 => some 1
    | 1, 1 => some 2
    | 2, 0 => some 3
    | 3, 0 => if f.rs2 == 0 then some 4 else none
    | 4, 0 => if f.rs2 == 0 then some 5 else none
    | 5, 0 => some 6
    | 6, 0 => some 7
    | 7, 0 => if f.rd == 0 then some 8 else none
    | _, _ => none := by
  simp only [xbrodForm, encodeXbrod_opcode, encodeXbrod_funct7, encodeXbrod_funct3, xbrodFields_encodeXbrod] <;> rfl

end Fields

/-! ## The obligation -/

/-- Settles O2: the two function fields tell the nine forms apart, the other fields are read back, and a field that a form does not
use is 0 where it is well formed. -/
theorem xbrodDecodeOfEncode : Obligations.XbrodDecodeOfEncode := by
  intro i w hi hw
  have hfields := fieldsOk_of_wellFormed hi
  cases i with
  | qfetch f | xbrodBfx f | xbrodBfxS f | xbrodBfi f | qsave f | qload f =>
    cases hw
    simp [decodeXbrod, xbrodForm_encodeXbrod, xbrodFields_encodeXbrod]
  | sigwait f | dispatch f =>
    cases hw
    have hrs2 : f.rs2 = 0 := beq_iff_eq.mp hfields
    simp [decodeXbrod, xbrodForm_encodeXbrod, xbrodFields_encodeXbrod, hrs2]
  | evpost f =>
    cases hw
    have hrd : f.rd = 0 := beq_iff_eq.mp hfields
    simp [decodeXbrod, xbrodForm_encodeXbrod, xbrodFields_encodeXbrod, hrd]
  | _ => cases hw

end Sys2Proof.Proofs
end

section
/-! The range table's commands, a change that meets nothing, protocol tables and quotas (12 R325, R326, R346 to R349). -/

namespace Sys2Proof.Proofs
open Sys2Proof Sys2Proof.Machine

/-! ## A change of an entry whose lines are all at rest -/

section Change
variable {s : State} (hhomes : ∀ e ∈ s.homes, rangeChanging s e.1 = false) (hl1 : ∀ x ∈ s.l1, rangeChanging s x.line = false)

@[simp] theorem dropEntries_part (s : State) (p : Nat → Bool) : (dropEntries s p).part = s.part := rfl
@[simp] theorem dropEntries_homes (s : State) (p : Nat → Bool) : (dropEntries s p).homes = s.homes := rfl
@[simp] theorem dropEntries_l1 (s : State) (p : Nat → Bool) : (dropEntries s p).l1 = s.l1 := rfl
@[simp] theorem rangeChanging_dropEntries (s : State) (p : Nat → Bool) : rangeChanging (dropEntries s p) = rangeChanging s := rfl

include hhomes in
theorem changedLines_of_atRest : changedLines s = [] := by
  simpa [changedLines] using fun line h hmem => hhomes (line, h) hmem

include hl1 in
/-- No copy of a line that changes: none returns, none is published, none is dropped. -/
theorem beginChange_of_noCopies (i : Nat) : beginChange s i = dropEntries s (· == i) := by
  have hown : (s.l1.filter fun c => rangeChanging s c.line && c.kind == .own) = [] :=
    List.filter_eq_nil_iff.mpr fun c hc => by simp [hl1 c hc]
  have hpin : (s.l1.filter fun c => isPin c.kind && rangeChanging s c.line) = [] :=
    List.filter_eq_nil_iff.mpr fun c hc => by simp [hl1 c hc]
  simp only [beginChange, publishPins, dropEntries_l1, rangeChanging_dropEntries, hown, hpin, List.foldl_nil]

include hhomes hl1 in
theorem evictChanged_of_atRest : evictChanged s = s := by
  have hkeep : (s.l1.filter fun c => !(rangeChanging s c.line && c.kind == .lease .never)) = s.l1 :=
    List.filter_eq_self.mpr fun c hc => by simp [hl1 c hc]
  simp only [evictChanged, changedLines_of_atRest hhomes, List.foldl_nil, hkeep]

end Change

/-! ## The obligation -/

/-- A quota register's field is its low eleven bits. -/
theorem quotaField (v : DWord) : field v 10 0 = v.toNat % 2048 := by simp [field]

/-- Settles O55: each command by its first check, and a change that meets no line away from rest by its last step. -/
theorem rangeEvents : Obligations.RangeEvents := by
  refine ⟨?commands, ?change, ?protocol, ?quota⟩
  case commands =>
    intro s index hchange i r
    refine ⟨fun hok => ?_, fun hbad => ?_, fun e he => ⟨?_, ?_⟩⟩
    · change execRangeWrite index s = _
      simp [execRangeWrite, hchange, i, r, show rangeCode s index.toNat (stagedEntry s.part) = 0 from hok]
    · change execRangeWrite index s = _
      simp [execRangeWrite, hchange, i, r, setRtcode, show rangeCode s index.toNat (stagedEntry s.part) ≠ 0 from hbad]
    · change execRangeRead index s = _
      simp [execRangeRead, hchange, setRtcode, show validEntry s.part index.toNat = some e from he]
    · change execRangeInvalidate index s = _
      simp [execRangeInvalidate, hchange, i, show validEntry s.part index.toNat = some e from he]
  case change =>
    intro s i r hchange hhomes hl1 s1
    have hlines : changedLines s1 = [] := changedLines_of_atRest hhomes
    have hevict : evictChanged s1 = s1 := evictChanged_of_atRest hhomes hl1
    change execRangeChangeComplete s = _
    simp only [execRangeChangeComplete, hchange, beginChange_of_noCopies hl1]
    change (if (changedLines s1).any _ then _ else if (changedLines (evictChanged s1)).any _ then _ else _) = _
    simp [s1, hlines, hevict]
  case protocol =>
    intro s src slot hslot hunused hsize hclean t
    have hused : (s.part.ranges.any fun e => e.2.proto == slot.toNat) = false := by simpa using hunused
    have hread : ¬ (memSize < src.toNat * 1024 + 1024 ∨
        ((List.range 16).any fun i => s.mem.poisoned (lineOf (src.toNat * 1024) + i)) = true) := by
      simp only [not_or, Nat.not_lt, List.any_eq_true, List.mem_range, not_exists, not_and, Bool.not_eq_true]
      exact ⟨hsize, hclean⟩
    have hexec : exec (.protocolLoad src slot) s = match tableFault t with
        | some (c, st, e) => .next (setPtstat s c st e)
        | none => .next { setPtstat s 0 0 0 with part :=
            { (setPtstat s 0 0 0).part with protos := putTable slot.toNat t s.part.protos } } := by
      change execProtocolLoad src slot s = _
      rw [execProtocolLoad, if_neg (Nat.not_lt.mpr hslot), hused, if_neg Bool.false_ne_true,
        if_neg hread] <;> rfl
    exact ⟨fun c st e hfault => by rw [hexec, hfault]; rfl, fun hfault => by rw [hexec, hfault]; rfl⟩
  case quota =>
    intro s t v q qs ht hq hsum
    change execRquotaWrite t v s = _
    rw [execRquotaWrite, quotaField, if_neg]
    simpa [q, qs, ht] using ⟨hq, hsum⟩

end Sys2Proof.Proofs
end

section
/-! Writes of registers that start something, or that a condition refuses (13 R361, 14 R374, R375, 15 R412, R413, 16 R427,
17 R448, 18 R460, R463). -/

namespace Sys2Proof.Proofs
open Sys2Proof Sys2Proof.Machine

/-! ## The record area -/

theorem exec_rpoolWrite (s : State) (t : Nat) (v : DWord) :
    let s1 := updTenant s t fun x => { x with rpool := v &&& 0x0FFFFFFFFFFFFFFF#64 }
    exec (.rpoolWrite t v) s =
      .next (if ∀ d < 4, ((s1.tenants.map fun x => poolQuota x d).foldl (· + ·) 0) ≤ 24576 then s1 else s) := by
  change execRpoolWrite t v s = _
  simp only [execRpoolWrite, List.all_eq_true, List.mem_range, decide_eq_true_eq]
  split <;> rfl

theorem exec_rareaWrite (s : State) (t : Nat) (size : Bool) (v : DWord) :
    exec (.rareaWrite t size v) s = if launchesOf s t = [] then .next (updTenant s t fun x =>
      if size then { x with rareaSize := areaSizeMask v } else { x with rareaBase := areaBaseMask v }) else .next s := by
  change execRareaWrite t size v s = _
  cases h : launchesOf s t <;> simp [execRareaWrite, h]

theorem launchesOf_eq_nil {s : State} {t : Nat} : launchesOf s t = [] ↔ ∀ l ∈ s.launches, l.tenant ≠ t := by
  simp [launchesOf]

/-! ## The debug register -/

theorem holdsHalt_eq (w : Warp) :
    w.holdsHalt = (w.haltPending && match w.mode with | .stopping _ => true | m => m == .handler) := by
  cases hm : w.mode <;> simp [Warp.holdsHalt, hm]

/-! ## The scope table -/

theorem exec_scopeLock (s : State) (v : DWord) :
    exec (.scopeLock v) s = .next { s with part := writeScope s.part v } := rfl

theorem lockable_iff {p : Part} {h5 h6 : BitVec 5} : lockable p h5 h6 = true ↔ h5.toNat ≤ h6.toNat ∧ p.near &&& p.domain = p.near ∧
    p.near.getLsbD p.device.toNat = true ∧ p.domain.getLsbD p.device.toNat = true := by
  simp [lockable, BitVec.ule, and_assoc]

theorem not_lockable {p : Part} {h5 h6 : BitVec 5} (h : h6.toNat < h5.toNat ∨ p.near &&& p.domain ≠ p.near ∨
    p.near.getLsbD p.device.toNat = false ∨ p.domain.getLsbD p.device.toNat = false) : lockable p h5 h6 = false := by
  rw [← Bool.not_eq_true, lockable_iff]
  rintro ⟨hle, hnear, hin, hdomain⟩
  rcases h with h | h | h | h
  · omega
  · exact h hnear
  · exact Bool.false_ne_true (h.symm.trans hin)
  · exact Bool.false_ne_true (h.symm.trans hdomain)

/-- The two horizon fields of SCOPE.CTL. -/
theorem writeScope_eq (p : Part) (v : DWord) (hlock : p.lock = false) :
    let h6 := BitVec.ofNat 5 (v.toNat / 2 ^ 25)
    let h5 := BitVec.ofNat 5 (v.toNat / 2 ^ 20)
    writeScope p v = if v.getLsbD 63 then (if lockable p h5 h6 then { p with h5, h6, lock := true } else p)
      else { p with h5, h6 } := by
  have hfield (n : Nat) : BitVec.ofNat 5 (n % 2 ^ 5) = BitVec.ofNat 5 n := BitVec.eq_of_toNat_eq (by simp)
  have h6 : BitVec.ofNat 5 (field v 29 25) = BitVec.ofNat 5 (v.toNat / 2 ^ 25) := hfield _
  have h5 : BitVec.ofNat 5 (field v 24 20) = BitVec.ofNat 5 (v.toNat / 2 ^ 20) := hfield _
  cases hv : v.getLsbD 63 <;> simp [-BitVec.getLsbD_eq_getElem, writeScope, hlock, hv, h5, h6]

/-! ## Registers by their place -/

theorem exec_registerWrite (at_ : RegPlace) (v : DWord) (s : State) :
    exec (.registerWrite at_ v) s = execRegisterWrite at_ v s := rfl

section Places
variable {s : State} (v : DWord)

theorem registerWrite_closed (h : s.part.pfEnabled = false ∨ servesHost s.part = false) (t off : Nat) :
    exec (.registerWrite (.vf t off) v) s = .next s ∧ exec (.registerWrite (.pf off) v) s = .next s ∧
      exec (.registerWrite (.pf32 off) v) s = .next s := by
  have hopen : (s.part.pfEnabled && servesHost s.part) = false := (Bool.and_eq_false_iff).mpr h
  simp [exec_registerWrite, execRegisterWrite, hopen]

variable (hpf : s.part.pfEnabled = true) (hserves : servesHost s.part = true)
include hpf hserves

theorem registerWrite_pf {off : Nat} (h : off % 8 = 0) : exec (.registerWrite (.pf off) v) s = writePf off v s := by
  simp [exec_registerWrite, execRegisterWrite, hpf, hserves, h]
theorem registerWrite_pf32 {off : Nat} (h : off % 4 = 0) : exec (.registerWrite (.pf32 off) v) s = writePf32 off v s := by
  simp [exec_registerWrite, execRegisterWrite, hpf, hserves, h]
theorem registerWrite_vf {t off : Nat} (ht : t < 64) (h : off % 8 = 0) :
    exec (.registerWrite (.vf t off) v) s = writeVf t off v s := by
  simp [exec_registerWrite, execRegisterWrite, hpf, hserves, h, ht]

/-- A tenant's context block starts with PTROOT. -/
theorem registerWrite_ptroot {t : Nat} (ht : t < 64) : exec (.registerWrite (.pf (0x20000 + 0x1000 * t)) v) s =
    .next (updTenant s t fun x => { x with ptroot := v &&& 0x000FFFFFFFFF0000#64 }) := by
  rw [registerWrite_pf v hpf hserves (by omega), writePf, if_neg (by omega), if_neg (by omega), if_neg (by omega), if_neg (by omega),
    if_pos (by omega), show (0x20000 + 0x1000 * t - 0x20000) / 0x1000 = t by omega,
    show (0x20000 + 0x1000 * t) % 0x1000 = 0 by omega]
  rfl

theorem registerWrite_doorbell {t q : Nat} (ht : t < 64) (hq : q < 1024) (hv : v.getLsbD 63 = false) :
    exec (.registerWrite (.vf t (0x1000 + 8 * q)) v) s = exec (.doorbell t q (v.setWidth 32)) s := by
  rw [registerWrite_vf v hpf hserves ht (by omega), writeVf, if_neg (by omega), if_neg (by omega), if_neg (by omega),
    if_neg (by omega), if_neg (by omega), if_pos (by omega), show (0x1000 + 8 * q - 0x1000) / 8 = q by omega, writeDoorbell, hv]
  rfl

theorem registerWrite_route (hlock : s.part.lock = false) {d : Nat} (hd : d < 512) :
    exec (.registerWrite (.pf32 (0x81000 + 4 * d)) v) s =
      .next { s with part := { s.part with routes := tput 0 s.part.routes d (v.toNat % 2 ^ 18) } } := by
  rw [registerWrite_pf32 v hpf hserves (by omega), writePf32, if_pos (by omega), writeScopeField, hlock,
    show (0x81000 + 4 * d - 0x81000) / 4 = d by omega, show field v 17 0 = v.toNat % 2 ^ 18 by simp [field]]
  rfl

end Places

/-! ## The obligation -/

/-- Settles O56: one equation for each register, by the condition under which it acts. -/
theorem registerEvents : Obligations.RegisterEvents := by
  refine ⟨?area, ?debug, ?attest, ?report, ?scope, ?places⟩
  case area =>
    intro s t v s1
    refine ⟨?_, fun ⟨l, hl, ht⟩ b => ?_, fun hnone => ⟨?_, ?_⟩, rfl⟩
    · rw [exec_rpoolWrite]
      split <;> simp_all [s1]
    · rw [exec_rareaWrite, if_neg fun h => launchesOf_eq_nil.mp h l hl ht]
    · rw [exec_rareaWrite, if_pos (launchesOf_eq_nil.mpr hnone)]
      rfl
    · rw [exec_rareaWrite, if_pos (launchesOf_eq_nil.mpr hnone)]
      rfl
  case debug =>
    intro s t n l hl s1 s2 halts forces
    refine ⟨?_, ?_, ?_⟩
    · change execDbgHalt t n s = _
      rw [execDbgHalt, hl]
      rfl
    · change execDbgResume t n s = _
      rw [execDbgResume, hl]
      rfl
    · change execDbgForce t n s = _
      simp only [execDbgForce, hl, mapWarps, holdsHalt_eq, ← Bool.and_assoc]
      rfl
  case attest =>
    intro s t v a
    refine ⟨fun h => ?_, fun hgo hbusy => ?_⟩ <;> change execAttestGo t v s = _
    · have hidle : (!v.getLsbD 63 || (attestOf s t).busy) = true := by simpa [-BitVec.getLsbD_eq_getElem, a] using h
      simp only [execAttestGo, hidle, if_true]
      rfl
    · have hbegin : (!v.getLsbD 63 || (attestOf s t).busy) = false := by
        simpa [-BitVec.getLsbD_eq_getElem, a] using And.intro hgo hbusy
      simp only [execAttestGo, hbegin, Bool.false_eq_true, if_false]
      rfl
  case report =>
    intro s t hbusy
    refine ⟨fun s1 hjob hwrite => ?_, fun j hjob hdone => ?_⟩ <;> change execAttestReport t s = _
    · simp [execAttestReport, hbusy, hjob, hwrite]
    · simp [execAttestReport, hbusy, hjob, hdone]
  case scope =>
    intro s v p h6 h5
    refine ⟨rfl, fun hlock => ?_, fun hlock hv => ?_, fun hlock hv => ⟨fun hok => ?_, fun hbad => ?_⟩⟩ <;> rw [exec_scopeLock]
    · simp [writeScope, hlock]
    · rw [writeScope_eq _ _ hlock, hv]
      rfl
    · rw [writeScope_eq _ _ hlock, if_pos hv, if_pos (lockable_iff.mpr hok)]
    · rw [writeScope_eq _ _ hlock, if_pos hv, if_neg (Bool.not_eq_true _ ▸ not_lockable hbad)]
  case places =>
    intro s v hpower
    refine ⟨?_, fun hclosed t off => registerWrite_closed v hclosed t off, fun hpf hserves t ht =>
      ⟨registerWrite_ptroot v hpf hserves ht, fun q hq hv => registerWrite_doorbell v hpf hserves ht hq hv,
        fun hlock d hd => registerWrite_route v hpf hserves hlock hd⟩⟩
    simp [exec_registerWrite, execRegisterWrite, hpower, writeMgmt, setPart]

end Sys2Proof.Proofs
end

section
/-! Packets: their start, their work by type, their times, and their completion (14 R382 to R387). -/

namespace Sys2Proof.Proofs
open Sys2Proof Sys2Proof.Machine

/-! ## A packet's work -/

theorem withPacket_started {s : State} {p : Packet} {ns : Nat} (hp : packetOf s p.id = some p) (hphase : p.phase = .started ns)
    (f : Packet → Nat → Out) : withPacket s p.id p.type f = f p ns := by
  simp [withPacket, hp, hphase]

theorem pollWaitval_of_read {s s1 : State} {p : Packet} {bs : List Byte}
    (h : packetRead s p.id p.tenant (packetPriv s p) p.acq (p.quad 0x50).toNat p.waitSize 0x0A = .ok s1 bs) (ns : Nat) :
    pollWaitval s p ns = setPhase s1 p.id (if p.holds (leNat bs) then .ending 0 else .polling ns s1.ns) := by
  rw [pollWaitval, h]

/-- A copy whose source lines are all read writes its destination. -/
theorem runPacketCopy_of_read {s : State} {p : Packet} {src dst : List (Nat × Target)}
    (hsrc : packetLines s p false (linearPlan (packetJob p) 0).src = .ok src)
    (hdst : packetLines s p true (linearPlan (packetJob p) 0).dst = .ok dst)
    (hup : ∀ x ∈ src ++ dst, linkDown s p.tenant x.2 = false) (hgot : ∀ x ∈ src, ∃ y ∈ p.got, y.1 = x.1) :
    runPacketCopy s p = landPacket s p (linearPlan (packetJob p) 0) dst := by
  have hread (x : Nat × Target) (hx : x ∈ src) : (p.got.any fun y => y.1 == x.1) = true := by simpa using hgot x hx
  have hdown : ((src ++ dst).any fun t => linkDown s p.tenant t.2) = false := by
    simp only [List.any_eq_false, Bool.not_eq_true]
    exact hup
  have hnext : (src.find? fun t => !(p.got.any fun y => y.1 == t.1) && !isRemote t.2) = none :=
    List.find?_eq_none.mpr fun x hx => by simp [hread x hx]
  have hout : (src.filter fun t => !(p.got.any fun y => y.1 == t.1)) = [] :=
    List.filter_eq_nil_iff.mpr fun x hx => by simp [hread x hx]
  simp only [runPacketCopy, hsrc, hdst, hdown, hnext, hout, Bool.false_eq_true, if_false]

/-! ## A packet that is handed over -/

section Handed
variable {s : State} {p : Packet} {ns : Nat}

theorem launch_started (hp : packetOf s p.id = some p) (hphase : p.phase = .started ns) (ht : p.type = 1) :
    exec (.launch p.id) s = .next (handOver s p) := by
  change execLaunch p.id s = _
  simp [execLaunch, hp, ht, hphase]

theorem indirect_started (hp : packetOf s p.id = some p) (hphase : p.phase = .started ns) (ht : p.type = 6) :
    exec (.indirect p.id) s = .next (handOver s p) := by
  change execIndirect p.id s = _
  simp [execIndirect, hp, ht, hphase]

variable {i : Nat} {e : BufEntry} (hp : packetOf s p.id = some p) (hphase : p.phase = .handed)
  (hfirst : firstEntry s (packetDie s p) = some (i, e)) (he : e.packet = p.id)
include hp hphase hfirst he

theorem launch_handed {s1 : State} {code : Nat} (ht : p.type = 1) (h : dispatchEntry s (packetDie s p) i e = .ok s1 code) :
    exec (.launch p.id) s = .next (takeEntry s1 (packetDie s p)) := by
  change execLaunch p.id s = _
  simp [execLaunch, hp, ht, hphase, hfirst, he, h]

theorem indirect_handed (ht : p.type = 6) :
    exec (.indirect p.id) s = .next (updPacket (setEntry (takeEntry s (packetDie s p)) (packetDie s p) i none) p.id fun x =>
      { x with phase := .running, left := (x.quad 0x58).toNat, next := x.quad 0x50 }) := by
  change execIndirect p.id s = _
  simp [execIndirect, hp, ht, hphase, hfirst, he]

end Handed

/-! ## Completion -/

theorem packetCompletion_ending {s : State} {p : Packet} {code : Nat} (hp : packetOf s p.id = some p)
    (hphase : p.phase = .ending code) : exec (.packetCompletion p.id) s = .next (endPacket s p code) := by
  change execPacketCompletion p.id s = _
  simp [execPacketCompletion, hp, hphase]

/-! ## The obligation -/

/-- Settles O57: one equation for each type and phase of a packet. -/
theorem packetEvents : Obligations.PacketEvents := by
  refine ⟨?fetch, ?start, ?work, ?poll, ?handed, ?timeout, ?completion⟩
  case fetch =>
    intro s s1 t q bs x hfetching hwaiting hindex hroom hread
    change execPacketStart t q s = _
    simp only [x] at hfetching hindex hread
    simp [execPacketStart, hfetching, hwaiting, hindex, Nat.not_le.mpr hroom, hread, x]
  case start =>
    intro s t q p hfetching hwaiting hmay
    change execPacketStart t q s = _
    simp only [execPacketStart, hfetching, hwaiting, tryStart, hmay]
    rfl
  case work =>
    intro s p ns hp hphase
    have hwork := withPacket_started hp hphase
    refine ⟨fun ht => ?_, fun ht => ?_, fun s1 ht hwrite => ?_, fun s1 bs ht hread => ?_, fun src dst ht hsrc hdst hup hgot => ?_,
      fun i _ => ⟨launch_started hp hphase, indirect_started hp hphase⟩⟩
    · change execNopPacket p.id s = _
      rw [execNopPacket, ← ht, hwork]
    · change execEvent p.id s = _
      rw [execEvent, ← ht, hwork]
    · change execTimestamp p.id s = _
      rw [execTimestamp, ← ht, hwork, hwrite]
    · change execWaitval p.id s = _
      rw [execWaitval, ← ht, hwork, pollWaitval_of_read hread]
    · change execCopyPacket p.id s = _
      rw [execCopyPacket, ← ht, hwork, runPacketCopy_of_read hsrc hdst hup hgot]
  case poll =>
    intro s p ns last hp hphase
    refine ⟨fun s1 bs hread => ?_, fun hset hdue => ?_⟩
    · change execWaitvalPoll p.id s = _
      simp only [execWaitvalPoll, hp, hphase, pollWaitval_of_read hread]
    · change execWaitvalTimeout p.id s = _
      simp only [execWaitvalTimeout, hp, hphase]
      rw [if_pos ⟨by unfold Packet.timeoutNs; omega, hdue⟩]
  case handed =>
    intro s p i e hp hphase hfirst he
    exact ⟨fun s1 code ht h => launch_handed hp hphase hfirst he ht h, indirect_handed hp hphase hfirst he⟩
  case timeout =>
    intro s l d hl htimeout hdue hnot
    change execLaunchTimeout l.uid s = _
    simp [execLaunchTimeout, hl, htimeout, hdue, hnot]
  case completion =>
    intro s p hp
    refine ⟨fun code hphase hreleased => ⟨fun hdone => ?_, fun s2 hdone halign hwrite => ?_⟩, fun job code hphase hjob => ?_⟩
    · rw [packetCompletion_ending hp hphase, endPacket, hreleased]
      simp [hdone]
    · rw [packetCompletion_ending hp hphase, endPacket, hreleased, Bool.not_true, if_neg Bool.false_ne_true]
      simp only [hwrite]
      rw [if_neg (not_or.mpr ⟨hdone, not_not.mpr halign⟩)]
    · change execPacketCompletion p.id s = _
      simp [execPacketCompletion, hp, hphase, hjob]

end Sys2Proof.Proofs
end

section
/-! Power, temperature, reset and boot, and soft errors (15 R420, R421, 17 R447, 18 R453 to R458, R463). -/

namespace Sys2Proof.Proofs
open Sys2Proof Sys2Proof.Machine

/-! ## Temperature -/

section Thermal
variable (p : Part) (tdie tmem : List (BitVec 16))

/-- A reading is at or above its throttle point, and all lie 3 °C below theirs (18 R456). -/
def tooHot : Bool := reaches tdie dieThrottle || reaches tmem memThrottle
def coolEnough : Bool := cooler tdie dieThrottle && cooler tmem memThrottle

/-- A step's one equation: its readings, the trip, the target and the count of cool steps. -/
theorem thermalNext_eq : thermalNext p tdie tmem = { p with
    tdie, tmem, trip := p.trip || reaches tdie dieLimit || reaches tmem memLimit
    thermalTarget := if tooHot tdie tmem then stepDown p.thermalTarget
      else if coolEnough tdie tmem && p.coolSteps == 9 then stepUp p p.thermalTarget else p.thermalTarget
    coolSteps := if tooHot tdie tmem || !coolEnough tdie tmem || p.coolSteps == 9 then 0 else p.coolSteps + 1 } := by
  have hstep : thermalNext p tdie tmem =
      let q := { p with tdie, tmem, trip := p.trip || reaches tdie dieLimit || reaches tmem memLimit }
      if tooHot tdie tmem then { q with thermalTarget := stepDown q.thermalTarget, coolSteps := 0 }
      else if coolEnough tdie tmem then
        if q.coolSteps + 1 = 10 then { q with thermalTarget := stepUp q q.thermalTarget, coolSteps := 0 }
        else { q with coolSteps := q.coolSteps + 1 }
      else { q with coolSteps := 0 } := rfl
  rw [hstep]
  cases tooHot tdie tmem with
  | true => rfl
  | false =>
    cases coolEnough tdie tmem with
    | false => rfl
    | true =>
      by_cases hnine : p.coolSteps = 9 <;> simp [hnine, stepUp, ceiling]

variable {tdie tmem}

theorem reaches_iff {xs : List (BitVec 16)} {at_ : Int} : reaches xs at_ = true ↔ ∃ x ∈ xs, at_ ≤ x.toInt := by
  simp [reaches]
theorem cooler_iff {xs : List (BitVec 16)} {at_ : Int} : cooler xs at_ = true ↔ ∀ x ∈ xs, x.toInt ≤ at_ - 30 := by
  simp [cooler]

theorem tooHot_iff : tooHot tdie tmem = true ↔ (∃ x ∈ tdie, 950 ≤ x.toInt) ∨ ∃ x ∈ tmem, 900 ≤ x.toInt := by
  rw [tooHot, Bool.or_eq_true, reaches_iff, reaches_iff]
  exact Iff.rfl
theorem coolEnough_iff : coolEnough tdie tmem = true ↔ (∀ x ∈ tdie, x.toInt ≤ 920) ∧ ∀ x ∈ tmem, x.toInt ≤ 870 := by
  rw [coolEnough, Bool.and_eq_true, cooler_iff, cooler_iff]
  exact Iff.rfl
theorem beyond_iff : (reaches tdie dieLimit || reaches tmem memLimit) = true ↔
    (∃ x ∈ tdie, 1050 ≤ x.toInt) ∨ ∃ x ∈ tmem, 950 ≤ x.toInt := by
  rw [Bool.or_eq_true, reaches_iff, reaches_iff]
  exact Iff.rfl

end Thermal

/-! ## Reset and boot: the scope table and the flits that are sent leave the rest alone -/

/-- The registers that discovery and the scope table keep. -/
def Part.SameBooted (p q : Part) : Prop :=
  q.ranges = p.ranges ∧ q.pcap = p.pcap ∧ q.devnum = p.devnum ∧ q.keyDigest = p.keyDigest ∧ q.rollback = p.rollback ∧
    q.leaf = p.leaf ∧ q.boot = p.boot ∧ q.device = p.device ∧ q.firmware = p.firmware ∧ q.m0 = p.m0 ∧ q.m1 = p.m1

theorem Part.SameBooted.refl (p : Part) : Part.SameBooted p p := ⟨rfl, rfl, rfl, rfl, rfl, rfl, rfl, rfl, rfl, rfl, rfl⟩

theorem noteDevice_sameBooted {p q : Part} (h : Part.SameBooted p q) (device hops ports : Nat) (conflict : Bool) :
    Part.SameBooted p (noteDevice q device hops ports conflict) := by
  unfold noteDevice
  dsimp only
  repeat' split
  all_goals exact h

theorem foundAll_sameBooted (found : List FoundDevice) {p q : Part} (h : Part.SameBooted p q) :
    Part.SameBooted p (found.foldl (fun p f => noteDevice p f.device f.hops f.ports f.conflict) q) := by
  induction found generalizing q with
  | nil => exact h
  | cons f fs ih => exact ih (noteDevice_sameBooted h ..)

theorem writeTable_sameBooted (p : Part) (b : BootFlash) : Part.SameBooted p (writeTable p b) :=
  foundAll_sameBooted b.found (Part.SameBooted.refl p)

/-- The part of a boot that has trained its link, before its scope table is written. -/
def trainedPart (p : Part) (b : BootFlash) (s0 s1 : BootStage) : Part :=
  { p with m0 := extend p.m0 (digestOf s0), m1 := extend p.m1 (digestOf s1), firmware := s1.body, device := p.devnum,
           cxl := b.cxl, linkUp := true, ports := trainPorts b p.ports }

/-- Every boot, whole or stopped, keeps what a reset keeps. -/
theorem bootPart_keeps (p : Part) (b : BootFlash) : (bootPart p b).ranges = p.ranges ∧ (bootPart p b).pcap = p.pcap ∧
    (bootPart p b).devnum = p.devnum ∧ (bootPart p b).keyDigest = p.keyDigest ∧ (bootPart p b).rollback = p.rollback ∧
    (bootPart p b).leaf = p.leaf := by
  unfold bootPart
  split
  case h_1 s0 s1 _ _ =>
    obtain ⟨hranges, hpcap, hdevnum, hkey, hrollback, hleaf, -⟩ := writeTable_sameBooted (trainedPart p b s0 s1) b
    dsimp only
    repeat' split
    case isFalse => exact ⟨hranges, hpcap, hdevnum, hkey, hrollback, hleaf⟩
    all_goals exact ⟨rfl, rfl, rfl, rfl, rfl, rfl⟩
  case h_2 => split <;> exact ⟨rfl, rfl, rfl, rfl, rfl, rfl⟩
  case h_3 => exact ⟨rfl, rfl, rfl, rfl, rfl, rfl⟩

/-- A first stage that may not run stops the boot at its first step. -/
theorem bootPart_of_badStage {p : Part} {b : BootFlash} {s0 : BootStage} (hhead : b.stages.head? = some s0)
    (hbad : stageOk p s0 = false) : bootPart p b = { p with boot := 1 } := by
  unfold bootPart
  split
  case h_1 hstages => simp_all
  case h_2 hstages => simp_all
  case h_3 hstages => simp_all

/-- A boot that comes to its end (18 R457). -/
theorem bootPart_whole {p : Part} {b : BootFlash} {s0 s1 : BootStage} {rest : List BootStage} (hstages : b.stages = s0 :: s1 :: rest)
    (h0 : stageOk p s0 = true) (h1 : stageOk p s1 = true) (hmemory : b.memoryTrains = true) (hlink : b.linkTrains = true) :
    (bootPart p b).boot = p.boot ∧ (bootPart p b).device = p.devnum ∧ (bootPart p b).pfEnabled = true ∧
      (bootPart p b).firmware = s1.body ∧ (bootPart p b).m0 = sha256 (p.m0 ++ sha256 s0.body) ∧
      (bootPart p b).m1 = sha256 (p.m1 ++ sha256 s1.body) := by
  have hagain (m0 : List Byte) : stageOk { p with m0 } s1 = true := h1
  obtain ⟨-, -, -, -, -, -, hboot, hdevice, hfirmware, hm0, hm1⟩ := writeTable_sameBooted (trainedPart p b s0 s1) b
  unfold bootPart
  rw [hstages]
  simp only [h0, hagain, hmemory, hlink, Bool.not_true, Bool.false_eq_true, if_false]
  exact ⟨hboot, hdevice, trivial, hfirmware, hm0, hm1⟩

/-- The flits that a reset part sends change its ports and what leaves it. -/
theorem sendOnAll_frame (s : State) (type : Nat) (payload : List Byte) : ∃ ports outbox,
    sendOnAll s type payload = { s with part := { s.part with ports }, outbox } := by
  have hone (s : State) (i : Nat) : ∃ ports outbox,
      sendFlit s i type payload = { s with part := { s.part with ports }, outbox } := by
    unfold sendFlit
    split
    · split
      · exact ⟨_, _, rfl⟩
      · exact ⟨_, _, rfl⟩
    · exact ⟨_, _, rfl⟩
  unfold sendOnAll
  induction List.range 18 generalizing s with
  | nil => exact ⟨_, _, rfl⟩
  | cons i is ih =>
    rw [List.foldl_cons]
    split
    · obtain ⟨ports, outbox, h⟩ := hone s i
      obtain ⟨ports', outbox', h'⟩ := ih (sendFlit s i type payload)
      rw [h', h]
      exact ⟨_, _, rfl⟩
    · exact ih s

/-- What a reset sends changes ports and outbox alone. -/
theorem exec_reset (s : State) (b : BootFlash) : ∃ ports outbox, exec (.reset b) s = .next { State.reset with
    ns := s.ns, agenda := s.agenda, fresh := s.fresh, part := { bootPart (keptPart s.part) b with ports }, outbox } := by
  change ∃ ports outbox, execReset b s = _
  simp only [execReset]
  split
  · obtain ⟨ports, outbox, h⟩ := sendOnAll_frame { State.reset with
      ns := s.ns, agenda := s.agenda, fresh := s.fresh, part := bootPart (keptPart s.part) b } 4 (discoveryBytes false 0 0)
    exact ⟨ports, outbox, congrArg _ h⟩
  · exact ⟨_, _, rfl⟩

/-! ## Soft errors -/

theorem mem_insertNat {n m : Nat} (xs : List Nat) : m ∈ insertNat n xs ↔ m = n ∨ m ∈ xs := by
  induction xs with
  | nil => simp [insertNat]
  | cons x xs ih =>
    unfold insertNat
    split
    · simp
    · split
      · simp_all
      · simp [ih, or_left_comm]

/-- The gang of a warp's node is the gang of that number. -/
theorem gangOf_of_nodeOf {s : State} {w : Warp} {g : Gang} {l : Launch} {n : NodeEntry} (h : nodeOf s w = some (g, l, n)) :
    gangOf s g.uid = some g := by
  simp only [nodeOf, Option.bind_eq_bind, Option.bind_eq_some_iff, Option.some.injEq, Prod.mk.injEq] at h
  obtain ⟨g', hg, l', -, n', -, rfl, -, -⟩ := h
  have huid : g'.uid = w.gang := by simpa using List.find?_some hg
  rw [huid]
  exact hg

theorem gangOf_updGang_self {s : State} {g : Gang} {u : Nat} (hg : gangOf s u = some g) (f : Gang → Gang)
    (hf : ∀ x, (f x).uid = x.uid) : gangOf (updGang s u f) u = some (f g) := by
  rw [gangOf, updGang, updFirst_find?_self _ _ _ fun x hx => by simpa [hf] using hx]
  exact congrArg (Option.map f) hg

/-- A placed gang that is ended is terminating, with the kind it is ended with. -/
theorem terminate_phase {s : State} {g : Gang} (hg : gangOf s g.uid = some g) (hplaced : g.phase = .placed) (kind warp : Nat)
    (nested : Option TrapRec) :
    (gangOf (terminate s g.uid kind warp nested) g.uid).map Gang.phase = some (.terminating kind warp nested) := by
  have hends := gangOf_updGang_self hg (fun g => { g with phase := .terminating kind warp nested }) fun _ => rfl
  rw [terminate, hg]
  simp only [hplaced]
  rw [gangOf, dropAsked_gangs, ← gangOf, hends]
  rfl

theorem takeTrap_poison {s : State} {l : Launch} {g : Gang} {w : Warp} {r : TrapRec} (hg : gangOf s g.uid = some g)
    (hplaced : g.phase = .placed) (hk : w.kernel = none) (hc : r.cause = causePOISON) :
    (gangOf (takeTrap s l g w r) g.uid).map Gang.phase = some (.terminating 3 w.uid none) := by
  simp only [takeTrap, hk, hc, Option.isSome_none, Bool.false_eq_true, if_false, if_true]
  refine terminate_phase ?_ hplaced _ _ _
  rw [gangOf, updWarp_gangs, (dropAsked_frame _ _).2.1, (crumb_frame ..).2.1]
  exact hg

/-! ## The obligation -/

/-- Settles O60: the equations of a power window and a thermal step, what a reset and each boot keep, and the mark that an
uncorrected error leaves. -/
theorem packageEvents : Obligations.PackageEvents := by
  refine ⟨?power, ?thermal, fun _ => rfl, ?reset, ?loss, ?rollback, ?soft⟩
  case power =>
    intro s mean p cap top
    refine ⟨fun hcap hover => ?_, fun hunder => ?_, fun hcap hle hnear => ?_⟩
    · have hbranch : powerCap p ≠ 0 ∧ powerCap p < mean.toNat := ⟨hcap, hover⟩
      change Host.Outcome.next { s with part := { windowEnd p mean.toNat with power := mean } } = _
      rw [windowEnd, if_pos hbranch]
      rfl
    · have hnot : ¬ (powerCap p ≠ 0 ∧ powerCap p < mean.toNat) := by
        change ¬ (cap ≠ 0 ∧ cap < mean.toNat)
        omega
      have hbranch : powerCap p = 0 ∨ 100 * mean.toNat < 95 * powerCap p := hunder.imp_right And.right
      change Host.Outcome.next { s with part := { windowEnd p mean.toNat with power := mean } } = _
      rw [windowEnd, if_neg hnot, if_pos hbranch]
      by_cases hnine : p.lowWindows = 9
      · simp [hnine, stepUp, ceiling, top]
      · simp [hnine]
    · have hnot : ¬ (powerCap p ≠ 0 ∧ powerCap p < mean.toNat) := fun h => Nat.not_lt.mpr hle h.2
      have hnot' : ¬ (powerCap p = 0 ∨ 100 * mean.toNat < 95 * powerCap p) :=
        not_or.mpr ⟨hcap, Nat.not_lt.mpr hnear⟩
      change Host.Outcome.next { s with part := { windowEnd p mean.toNat with power := mean } } = _
      rw [windowEnd, if_neg hnot, if_neg hnot']
  case thermal =>
    intro s tdie tmem p top hot cool beyond
    have hhot : tooHot tdie tmem = true ↔ hot := tooHot_iff
    have hcool : coolEnough tdie tmem = true ↔ cool := coolEnough_iff
    have hbeyond : (reaches tdie dieLimit || reaches tmem memLimit) = true ↔ beyond := beyond_iff
    refine ⟨thermalNext p tdie tmem, rfl, ?_⟩
    rw [thermalNext_eq]
    refine ⟨?_, rfl, rfl, fun h => ?_, fun h h' => ?_, fun h h' => ?_⟩
    · simp only [Bool.or_assoc, ← hbeyond, Bool.or_eq_true]
    · simp [hhot.mpr h, stepDown, floorSteps]
    · have h0 : tooHot tdie tmem = false := by simpa [← hhot] using h
      by_cases hnine : p.coolSteps = 9 <;> simp [h0, hcool.mpr h', hnine, stepUp, ceiling, top]
    · have h0 : tooHot tdie tmem = false := by simpa [← hhot] using h
      have h1 : coolEnough tdie tmem = false := by simpa [← hcool] using h'
      simp [h0, h1]
  case reset =>
    intro s b
    obtain ⟨ports, outbox, hexec⟩ := exec_reset s b
    obtain ⟨hranges, hpcap, hdevnum, hkey, hrollback, hleaf⟩ := bootPart_keeps (keptPart s.part) b
    refine ⟨_, hexec, rfl, rfl, rfl, rfl, rfl, rfl, rfl, rfl, rfl, rfl, rfl, rfl, rfl, hranges, hpcap, hdevnum, hkey, hrollback,
      hleaf, fun s0 hhead hbad => ?_, fun s0 s1 rest hstages h0 h1 hmemory hlink => ?_⟩
    · simp only [bootPart_of_badStage (p := keptPart s.part) hhead hbad]
      exact ⟨trivial, rfl⟩
    · exact bootPart_whole (p := keptPart s.part) hstages h0 h1 hmemory hlink
  case loss => exact fun s => ⟨_, rfl, rfl, rfl, rfl, rfl, rfl, rfl, rfl⟩
  case rollback =>
    intro s n hpower
    change Host.Outcome.next (setPart s fun p => if p.lost then p else { p with rollback := max p.rollback n }) = _
    simp only [setPart, hpower, Bool.false_eq_true, if_false]
  case soft =>
    intro s
    refine ⟨?harmless, ?line, ?tile, ?buffer, ?register⟩
    case harmless => rintro e (rfl | ⟨d, rfl⟩ | ⟨l, rfl⟩ | rfl) <;> rfl
    case line =>
      intro line
      refine ⟨_, rfl, rfl, fun l => ?_⟩
      rw [Bool.eq_iff_iff]
      simp [Memory.mark, Memory.poisoned, mem_insertNat, or_comm]
    case tile =>
      intro w frame line hw hframe hline
      refine ⟨_, (frame, line) :: w.tilePoison.filter (· != (frame, line)), rfl, ?_, List.mem_cons_self⟩
      rw [warpOf_updWarp_self _ _ _ fun x hx => by split <;> exact hx, hw]
      exact congrArg some (if_pos ⟨hframe, hline⟩)
    case buffer =>
      intro g team tm line hg htm hline
      refine ⟨_, _, { tm with a := tm.a.mark line }, rfl, gangOf_updGang_self hg _ fun _ => rfl, ?_, ?_, rfl⟩
      · simp [htm]
      · simp [Buffer.mark, hline, Buffer.poisoned, mem_insertNat]
    case register =>
      intro w g l n hw hnode hmode hk hplaced
      have hg := gangOf_of_nodeOf hnode
      have hhalt : w.canHalt = true := by simp [Warp.canHalt, hmode]
      refine ⟨_, rfl, ?_⟩
      simp only [poisonWarp, hw, hnode, hhalt, Bool.not_true, Bool.false_eq_true, if_false]
      exact takeTrap_poison hg hplaced hk rfl

end Sys2Proof.Proofs
end

section
/-! Doorbells, resets, enables and disables of queues, and the event vector's registers (14 R375, R377, R378, R388). -/

namespace Sys2Proof.Proofs
open Sys2Proof Sys2Proof.Machine

/-! ## Doorbells -/

section Doorbell
variable {s : State} {t q : Nat} {priv : Bool} (w : Word)

theorem ringDoorbell_of_not (h : ringable s t q priv = false) : ringDoorbell s t q priv w = s := by
  simp [ringDoorbell, h]
theorem ringReset_eq : ringReset s t q priv w =
    if ringable s t q priv then setQueue s t { queueOf s t q with resetTo := some w } else s := rfl

variable {w} (h : ringable s t q priv = true)
include h

theorem ringDoorbell_overrun
    (hover : 2 ^ (queueOf s t q).log2size < (w - (queueOf s t q).windex).toNat + ((queueOf s t q).windex - (queueOf s t q).rindex).toNat) :
    ringDoorbell s t q priv w = firmware (queueFails s t q 1) (queueOf s t q).die := by
  simp only [ringDoorbell, h, Nat.not_le.mpr hover, Bool.not_true, Bool.false_eq_true, if_false]

variable (hroom : (w - (queueOf s t q).windex).toNat + ((queueOf s t q).windex - (queueOf s t q).rindex).toNat ≤
  2 ^ (queueOf s t q).log2size)
include hroom

theorem ringDoorbell_busy (hstate : (queueOf s t q).state ≠ .idle) : ringDoorbell s t q priv w =
    firmware (setQueue s t { queueOf s t q with windex := w }) (queueOf s t q).die := by
  have hidle : ((queueOf s t q).state == .idle) = false := by simpa using hstate
  simp only [ringDoorbell, h, hroom, hidle, Bool.not_true, Bool.false_eq_true, if_true, if_false]

/-- An idle queue is pending from its doorbell on. -/
theorem ringDoorbell_idle (hstate : (queueOf s t q).state = .idle) : ringDoorbell s t q priv w =
    firmware (signal (mirrorQueue (setQueue s t { queueOf s t q with
      windex := w, state := .pending, ptime := s.ns, eprio := (queueOf s t q).base }) t q) (queueOf s t q).die 0)
      (queueOf s t q).die := by
  have hidle : ((queueOf s t q).state == .idle) = true := by simpa using hstate
  simp only [ringDoorbell, h, hroom, hidle, Bool.not_true, Bool.false_eq_true, if_true, if_false]
  rfl

end Doorbell

/-! ## Enables and disables -/

section Control
variable {s : State} {t q : Nat} {priv : Bool}

theorem unlessBusy_free (h : (tenantOf s t).enabling = none) (f : State → State) : unlessBusy s t f = .next (f s) := by
  simp [unlessBusy, h]

theorem disableQueue_open (hstate : (queueOf s t q).state ≠ .disabled) (hpriv : (queueOf s t q).privileged = false) :
    disableQueue s t q priv = setQueue s t { queueOf s t q with disabling := true } := by
  have hopen : ((queueOf s t q).state == .disabled) = false := by simpa using hstate
  simp [disableQueue, hopen, hpriv]

theorem enableQueue_read {s2 : State} {bs : List Byte} {x : Queue} (henabled : (tenantOf s t).enabled = true)
    (hq : q < queueCount (tenantOf s t)) :
    let s1 := updTenant s t fun tn => { tn with enabling := none }
    (queueOf s1 t q).state = .disabled → blockSettled s1 t q = true →
      unitRead s1 t priv scopeSYSTEM (blockAddr (tenantOf s t) q) 256 0 = .ok s2 bs → readBlock bs q priv = some x →
      enableQueue s t q priv = mirrorQueue (setQueue s2 t x) t q := by
  intro s1 hstate hsettled hread hblock
  have hmay : (!(tenantOf s t).enabled || decide (queueCount (tenantOf s t) ≤ q) || (queueOf s1 t q).state != .disabled) = false := by
    simp [henabled, hstate, hq]
  simp only [enableQueue, hmay, hsettled, hread, hblock, Bool.not_true, Bool.false_eq_true, if_false, s1]

end Control

/-! ## The event vector -/

/-- The first element of which p holds is the one that is changed. -/
theorem updFirst_eq_set {α : Type} {p : α → Bool} {xs : List α} {i : Nat} {x : α} (f : α → α) (hx : xs[i]? = some x)
    (hp : p x = true) (hfirst : ∀ y ∈ xs.take i, p y = false) : updFirst p f xs = xs.set i (f x) := by
  induction xs generalizing i with
  | nil => simp at hx
  | cons y ys ih =>
    cases i with
    | zero =>
      cases hx
      simp [updFirst, hp]
    | succ i =>
      simp only [List.take_succ_cons, List.mem_cons, forall_eq_or_imp] at hfirst
      simp [updFirst, hfirst.1, ih hx hfirst.2]

theorem changeEvents_become {s : State} {t : Nat} {tn : Tenant} (htn : s.tenants[t]? = some tn) (hnum : tn.num = t)
    (hfirst : ∀ x ∈ s.tenants.take t, x.num ≠ t) (f : BitVec 256 → BitVec 256) :
    EventsBecome s (changeEvents s t f) t (f tn.events) := by
  have hupd (g : Tenant → Tenant) : updTenant s t g = { s with tenants := s.tenants.set t (g tn) } := by
    rw [updTenant, updFirst_eq_set g htn (by simpa using hnum) (by simpa using hfirst)]
  have hlt : t < s.tenants.length := (List.getElem?_eq_some_iff.mp htn).1
  have hevents : (tenantOf (updTenant s t fun x => { x with events := f x.events }) t).events = f tn.events := by
    simp [hupd, tenantOf, hlt]
  refine ⟨?_, by simp [changeEvents], fun i p hp => ?_⟩
  · rw [hupd]
    simp only [changeEvents, hupd]
  · simp only [changeEvents, hevents, updTenant_packets, List.getElem?_map, hp, Option.map_some, Option.some.injEq]
    by_cases ht : p.tenant = t
    · cases hphase : p.phase with
      | waiting met => cases met <;> simp [ht]
      | _ => simp
    · simp [ht]

/-! ## The obligation -/

/-- Settles O53: a doorbell by the queue's room and state, a command by the state its tenant and queue are in, and the vector by
its one update. -/
theorem queueEvents : Obligations.QueueEvents := by
  refine ⟨?doorbell, ?complete, ?control, ?events⟩
  case doorbell =>
    intro s t q w priv i j hplain hpriv x
    have hi : exec i s = .next (ringDoorbell s t q priv w) := by
      cases priv with
      | false => rw [(hplain rfl).1]; rfl
      | true => rw [(hpriv rfl).1]; rfl
    have hj : exec j s = .next (ringReset s t q priv w) := by
      cases priv with
      | false => rw [(hplain rfl).2]; rfl
      | true => rw [(hpriv rfl).2]; rfl
    rw [hi, hj, ringReset_eq]
    refine ⟨fun h => ⟨by rw [ringDoorbell_of_not w h], by rw [h]; rfl⟩, fun h => ⟨by rw [if_pos h], fun hroom =>
      ⟨fun hbusy => ?_, fun hidle => ?_⟩, fun hover => ?_⟩⟩
    · rw [ringDoorbell_busy h hroom hbusy]
    · rw [ringDoorbell_idle h hroom hidle]
    · rw [ringDoorbell_overrun h hover]
  case complete =>
    intro s t q w hnone x s1
    refine ⟨fun hreset hstate => ?_, fun hdisabling => ?_⟩
    · have hopen : (x.state != .disabled) = true := by simpa using hstate
      change execDoorbellResetComplete t q s = _
      simp only [execDoorbellResetComplete, hreset, hnone, hopen, List.isEmpty_nil, Bool.and_self, if_true, x]
      rfl
    · change execQueueDisableComplete t q s = _
      simp only [execQueueDisableComplete, hdisabling, hnone, List.isEmpty_nil, Bool.and_self, if_true, x]
      rfl
  case control =>
    intro s t q priv i j hfree hmem s1
    have hi : exec i s = .next (enableQueue s t q priv) := by
      rw [← unlessBusy_free hfree fun s => enableQueue s t q priv]
      simp only [List.mem_cons, Prod.mk.injEq, List.not_mem_nil, or_false] at hmem
      rcases hmem with ⟨rfl, -, rfl⟩ | ⟨rfl, -, rfl⟩ | ⟨rfl, -, rfl⟩ <;> rfl
    have hj : ∃ p, exec j s = .next (disableQueue s t q p) := by
      simp only [List.mem_cons, Prod.mk.injEq, List.not_mem_nil, or_false] at hmem
      rcases hmem with ⟨-, rfl, -⟩ | ⟨-, rfl, -⟩ | ⟨-, rfl, -⟩ <;>
        exact ⟨_, unlessBusy_free hfree fun s => disableQueue s t q _⟩
    refine ⟨fun s2 bs x henabled hq hstate hsettled hread hblock => ?_, fun hstate hplain => ?_⟩
    · rw [hi, enableQueue_read henabled hq hstate hsettled hread hblock]
    · obtain ⟨p, hj⟩ := hj
      rw [hj, disableQueue_open hstate hplain]
  case events =>
    intro s t bits tn htn hnum hfirst
    exact ⟨⟨_, rfl, changeEvents_become htn hnum hfirst (· ||| bits)⟩, _, rfl, changeEvents_become htn hnum hfirst (· &&& ~~~bits)⟩

end Sys2Proof.Proofs
end

section
/-! The front-end processors' instructions and CSRs (14 R392 to R394). -/

namespace Sys2Proof.Proofs
open Sys2Proof Sys2Proof.Machine

/-! ## Bit fields -/

section Fields
variable {pos len : Nat} (hlen : len ≠ 0)
include hlen

theorem field_span {w : Nat} (v : BitVec w) : field v (pos + len - 1) pos = v.toNat / 2 ^ pos % 2 ^ len := by
  rw [field, show pos + len - 1 + 1 - pos = len by omega]

/-- A value with a field replaced, from its low bits up. -/
theorem withField_span {w : Nat} (v : BitVec w) (x : Nat) : withField v (pos + len - 1) pos x =
    BitVec.ofNat w (2 ^ pos * (2 ^ len * (v.toNat / 2 ^ pos / 2 ^ len) + x % 2 ^ len) + v.toNat % 2 ^ pos) := by
  rw [withField, show pos + len - 1 + 1 - pos = len by omega]
  congr 1
  have hlow := Nat.div_add_mod v.toNat (2 ^ pos)
  have hhigh := Nat.div_add_mod (v.toNat / 2 ^ pos) (2 ^ len)
  generalize v.toNat % 2 ^ pos = r at *
  generalize v.toNat / 2 ^ pos = b at *
  generalize b / 2 ^ len = c at *
  generalize b % 2 ^ len = d at *
  subst hhigh
  rw [← hlow, Nat.mul_comm d, Nat.mul_comm (x % 2 ^ len), Nat.mul_add, Nat.mul_add]
  omega

theorem getLsbD_withField {w : Nat} (v : BitVec w) (x : Nat) {i : Nat} (hi : i < w) :
    (withField v (pos + len - 1) pos x).getLsbD i =
      if pos ≤ i ∧ i < pos + len then x.testBit (i - pos) else v.getLsbD i := by
  rw [withField_span hlen, BitVec.getLsbD_ofNat, decide_eq_true hi, Bool.true_and,
    Nat.testBit_two_pow_mul_add _ (Nat.mod_lt _ (Nat.two_pow_pos pos)),
    Nat.testBit_two_pow_mul_add _ (Nat.mod_lt _ (Nat.two_pow_pos len)), BitVec.getLsbD]
  by_cases hlow : i < pos
  · rw [if_pos hlow, if_neg (by omega), Nat.testBit_mod_two_pow, decide_eq_true hlow, Bool.true_and]
  · rw [if_neg hlow]
    by_cases hin : i - pos < len
    · rw [if_pos hin, if_pos (by omega), Nat.testBit_mod_two_pow, decide_eq_true hin, Bool.true_and]
    · rw [if_neg hin, if_neg (by omega), Nat.testBit_div_two_pow, Nat.testBit_div_two_pow]
      congr 1
      omega

/-- The top bit of a field is its sign. -/
theorem signedField_eq {v : Nat} (hv : v < 2 ^ len) :
    signedField v len = if v < 2 ^ (len - 1) then BitVec.ofNat 64 v else BitVec.ofInt 64 ((v : Int) - 2 ^ len) := by
  have htop : v.testBit (len - 1) = decide (2 ^ (len - 1) ≤ v) := by
    have h2 : 2 ^ len = 2 * 2 ^ (len - 1) := by rw [← Nat.pow_succ', Nat.succ_eq_add_one, Nat.sub_add_cancel (by omega)]
    rw [Nat.testBit_eq_decide_div_mod_eq]
    by_cases h : 2 ^ (len - 1) ≤ v
    · have : v / 2 ^ (len - 1) = 1 := Nat.div_eq_of_lt_le (by omega) (by omega)
      simp [h, this]
    · simp [h, Nat.div_eq_of_lt (Nat.not_le.mp h)]
  rw [signedField, htop]
  by_cases h : v < 2 ^ (len - 1)
  · simp [h, Nat.not_le.mpr h]
  · simp [h, Nat.not_lt.mp h]

end Fields

theorem fieldAt_eq (v : DWord) : fieldAt v =
    if v.toNat / 256 % 128 = 0 ∨ 64 < v.toNat % 64 + v.toNat / 256 % 128 then none
    else some (v.toNat % 64, v.toNat / 256 % 128) := by
  simp [fieldAt, field]

/-! ## A processor's registers in the state -/

theorem feAt_setFe {s : State} {n : Nat} {x : FrontEnd} (hx : feAt s n = some x) (hdie : feDie n < s.dies.length) (y : FrontEnd) :
    feAt (setFe s n y) n = some y := by
  obtain ⟨hlt, -⟩ := List.getElem?_eq_some_iff.mp hx
  simp only [dieOf, List.getElem?_eq_getElem hdie, Option.getD_some] at hlt
  simp [feAt, setFe, dieOf, setDie, hdie, hlt]

theorem setFe_setFe (s : State) (n : Nat) (y z : FrontEnd) : setFe (setFe s n y) n z = setFe s n z := by
  by_cases hdie : feDie n < s.dies.length
  · simp [setFe, setDie, dieOf, hdie]
  · simp [setFe, setDie, dieOf, List.set_eq_of_length_le (Nat.not_lt.mp hdie)]

/-- Off the part's dies nothing is kept. -/
theorem setFe_of_noDie {s : State} {n : Nat} (hdie : ¬ feDie n < s.dies.length) (y : FrontEnd) : setFe s n y = s := by
  simp [setFe, setDie, List.set_eq_of_length_le (Nat.not_lt.mp hdie)]

/-! ## How an instruction of a processor in machine mode ends -/

section Runs
variable {s : State} {n : Nat} {x : FrontEnd}

theorem withFe_of_runs (h : FeRuns s n x) (f : Nat → FrontEnd → Out) : withFe s f = f n x := by
  obtain ⟨hturn, hx, hmachine⟩ := h
  simp [withFe, hturn, hx, hmachine]

/-- Outside machine mode every Xbrod instruction is illegal. -/
theorem withFe_of_user (hturn : s.feTurn = some n) (hx : feAt s n = some x) (hmachine : x.machine = false)
    (f : Nat → FrontEnd → Out) : withFe s f = .next (setFe s n (x.takeException 2 (Config.freeAddress s.fresh))) := by
  simp [withFe, hturn, hx, hmachine, illegalCause]

theorem feFault_eq (hx : feAt s n = some x) (code : Nat) :
    feFault s n code = .next (setFe s n (x.takeException 24 (BitVec.ofNat 64 code))) := by
  rw [feFault, hx]
  rfl

theorem feDone_eq (hx : feAt s n = some x) (rd : BitVec 5) (v : DWord) : feDone s n rd v = .next (setFe s n (x.past rd v)) := by
  rw [feDone, hx]
  rfl

theorem feDone_feEnds (s : State) (n : Nat) (rd : BitVec 5) (v : DWord) : ∃ t, feDone s n rd v = .next t ∧ FeEnds s n rd v t := by
  cases hx : feAt s n with
  | none => exact ⟨s, by rw [feDone, hx], fun y hy => by cases hx.symm.trans hy⟩
  | some x => exact ⟨_, feDone_eq hx rd v, fun y hy => by cases hx.symm.trans hy; rfl⟩

theorem feDone_setFe (hx : feAt s n = some x) (y : FrontEnd) (rd : BitVec 5) (v : DWord) :
    feDone (setFe s n y) n rd v = .next (setFe s n (y.past rd v)) := by
  by_cases hdie : feDie n < s.dies.length
  · rw [feDone_eq (feAt_setFe hx hdie y), setFe_setFe]
  · rw [setFe_of_noDie hdie, feDone_eq hx, setFe_of_noDie hdie, setFe_of_noDie hdie]

end Runs

/-! ## The instructions -/

section Instructions
variable {f : XbrodF} {s : State} {n : Nat} {x : FrontEnd} (h : FeRuns s n x)
include h

/-- BFX, BFX.S and BFI on a field that is empty, or not within 64 bits. -/
theorem exec_badField (hbad : fieldAt (x.x f.rs2) = none) {i : Instr} (hi : i = .xbrodBfx f ∨ i = .xbrodBfxS f ∨ i = .xbrodBfi f) :
    exec i s = .next (setFe s n (x.takeException 24 (BitVec.ofNat 64 4))) := by
  rcases hi with rfl | rfl | rfl
  · change execXbrodBfx f s = _
    rw [execXbrodBfx, withFe_of_runs h, hbad]
    exact feFault_eq h.2.1 4
  · change execXbrodBfxS f s = _
    rw [execXbrodBfxS, withFe_of_runs h, hbad]
    exact feFault_eq h.2.1 4
  · change execXbrodBfi f s = _
    rw [execXbrodBfi, withFe_of_runs h, hbad]
    exact feFault_eq h.2.1 4

section Field
variable {pos len : Nat} (hfield : fieldAt (x.x f.rs2) = some (pos, len))
include hfield

theorem exec_bfx (hlen : len ≠ 0) : exec (.xbrodBfx f) s = .next (setFe s n (x.past f.rd (BitVec.ofNat 64 (bitsOf (x.x f.rs1) pos len)))) := by
  change execXbrodBfx f s = _
  rw [execXbrodBfx, withFe_of_runs h, hfield]
  dsimp only
  rw [feDone_eq h.2.1, field_span hlen, bitsOf]

theorem exec_bfxS (hlen : len ≠ 0) : exec (.xbrodBfxS f) s = .next (setFe s n (x.past f.rd (if bitsOf (x.x f.rs1) pos len < 2 ^ (len - 1)
    then BitVec.ofNat 64 (bitsOf (x.x f.rs1) pos len) else BitVec.ofInt 64 (bitsOf (x.x f.rs1) pos len - 2 ^ len)))) := by
  change execXbrodBfxS f s = _
  rw [execXbrodBfxS, withFe_of_runs h, hfield]
  dsimp only
  rw [feDone_eq h.2.1, field_span hlen, signedField_eq hlen (Nat.mod_lt _ (Nat.two_pow_pos len)), bitsOf]

theorem exec_bfi : exec (.xbrodBfi f) s = .next (setFe s n (x.past f.rd
    (withField (x.x f.rd) (pos + len - 1) pos (field (x.x f.rs1) (len - 1) 0)))) := by
  change execXbrodBfi f s = _
  rw [execXbrodBfi, withFe_of_runs h, hfield]
  exact feDone_eq h.2.1 _ _

end Field

theorem exec_sigwait (hmask : (x.x f.rs1).toNat < 16) :
    let got := x.signals &&& BitVec.ofNat 4 (x.x f.rs1).toNat
    exec (.sigwait f) s = .next (setFe s n (if got = 0 then { x with waiting := some f }
      else { x.past f.rd (BitVec.ofNat 64 got.toNat) with signals := x.signals &&& ~~~got })) := by
  intro got
  have hfield : ¬ field (x.x f.rs1) 63 4 ≠ 0 := by simp [field, Nat.div_eq_of_lt hmask]
  have hgot : x.signals &&& (x.x f.rs1).setWidth 4 = got := rfl
  change execSigwait f s = _
  rw [execSigwait, withFe_of_runs h]
  simp only [hgot]
  rw [if_neg hfield]
  by_cases hnone : got = 0
  · rw [if_pos hnone, if_pos hnone]
  · rw [if_neg hnone, if_neg hnone, feDone_setFe h.2.1]
    have hvalue : got.setWidth 64 = BitVec.ofNat 64 got.toNat := BitVec.eq_of_toNat_eq (by simp)
    rw [hvalue, FrontEnd.past, FrontEnd.past, FrontEnd.setX, FrontEnd.setX]
    split <;> rfl

theorem exec_qfetch {i : Nat} {s' : State} {bs : List Byte} (halign : (x.x f.rs2).toNat % 128 = 0)
    (hfree : freeEntry s (feDie n) = some i)
    (hread : unitRead s ((x.x f.rs1).toNat % 64) true 7 (x.x f.rs2).toNat 128 1 = .ok s' bs) :
    exec (.qfetch f) s = feDone (setEntry s' (feDie n) i (some
      { packet := 0, tenant := (x.x f.rs1).toNat % 64, privileged := false, bytes := bs })) n f.rd (BitVec.ofNat 64 i) := by
  have htenant : field (x.x f.rs1) 5 0 = (x.x f.rs1).toNat % 64 := by simp [field]
  change execQfetch f s = _
  rw [execQfetch, withFe_of_runs h]
  simp only [htenant, halign, hfree, scopeSYSTEM, hread, ne_eq, not_true, if_false]

theorem exec_dispatch {e : BufEntry} {s' : State} {code : Nat}
    (hentry : (dieOf s (feDie n)).entries[(x.x f.rs1).toNat]? = some (some e)) (htype : sliceNat e.bytes 0 1 = 1)
    (hdispatch : dispatchEntry s (feDie n) (x.x f.rs1).toNat e = .ok s' code) :
    exec (.dispatch f) s = feDone s' n f.rd (BitVec.ofNat 64 code) := by
  change execDispatch f s = _
  rw [execDispatch, withFe_of_runs h]
  simp only [hentry, htype, hdispatch, ne_eq, not_true, if_false]

section Block
variable {t : Nat} (hslot : (x.x f.rs1).toNat < 32) (halign : (x.x f.rs2).toNat % 256 = 0)
  (hfits : (x.x f.rs2).toNat + 256 ≤ memSize)
include hslot halign hfits

theorem exec_qsave {q : Nat} (hheld : ((dieOf s (feDie n)).slots[(x.x f.rs1).toNat]?).getD none = some (t, q)) :
    let y := (queueOf s t q).repending s
    exec (.qsave f) s = feDone (saveBlock (setQueue (freeSlotOf s t q) t y) t y (x.x f.rs2).toNat) n f.rd 0 := by
  have hplace : blockPlace (x.x f.rs2).toNat = true := by simp only [blockPlace, halign, hfits]; rfl
  change execQsave f s = _
  rw [execQsave, withFe_of_runs h]
  simp only [hheld, hplace, Nat.not_lt.mpr (Nat.le_of_lt_succ hslot), Bool.not_true, Bool.false_eq_true, if_false]

theorem exec_qload {y y' : Queue} {s' : State} {bs : List Byte}
    (hopen : ((dieOf s (feDie n)).slots[(x.x f.rs1).toNat]?).getD none = none)
    (hqueue : queueAt s (x.x f.rs2).toNat = some (t, y)) (hsettled : blockSettled s t y.num = true)
    (hread : unitReadAt s (x.x f.rs2).toNat 256 = .ok s' bs) (hblock : loadBlock (feDie n) y bs = some y')
    (hstate : y'.state = .pending) (hdie : y'.die = feDie n) :
    exec (.qload f) s = feDone (mapQueue s' (feDie n) t (x.x f.rs1).toNat y') n f.rd 0 := by
  have hplace : blockPlace (x.x f.rs2).toNat = true := by simp only [blockPlace, halign, hfits]; rfl
  have hmay : (y'.state == .pending && y'.die == feDie n) = true := by simp [hstate, hdie]
  change execQload f s = _
  rw [execQload, withFe_of_runs h]
  simp only [hopen, hplace, Nat.not_lt.mpr (Nat.le_of_lt_succ hslot), hqueue, hsettled, hread, hblock, hmay, Option.isSome_none,
    Bool.not_true, Bool.false_eq_true, if_false, if_true]

end Block

theorem exec_evpost (htenant : (x.x f.rs1).toNat < 64) (hbit : (x.x f.rs2).toNat < 256) :
    exec (.evpost f) s = feDone (setEventBit s (x.x f.rs1).toNat (x.x f.rs2).toNat) n 0 0 := by
  have hfits : ¬ (field (x.x f.rs1) 63 6 ≠ 0 ∨ field (x.x f.rs2) 63 8 ≠ 0) := by
    simp [field, Nat.div_eq_of_lt htenant, Nat.div_eq_of_lt hbit]
  change execEvpost f s = _
  rw [execEvpost, withFe_of_runs h]
  exact if_neg hfits

end Instructions

/-! ## The obligation -/

/-- Settles O48: each instruction by its checks, from a processor in machine mode, and the three CSRs. -/
theorem frontEndInstructions : Obligations.FrontEndInstructions := by
  refine ⟨?machine, ?user, ?csrs⟩
  case machine =>
    intro f s n x h die pos len v slot fault
    have hends {i : Instr} {s' : State} {rd : BitVec 5} {u : DWord} (hi : exec i s = feDone s' n rd u) :
        ∃ t, exec i s = .next t ∧ FeEnds s' n rd u t := hi ▸ feDone_feEnds s' n rd u
    refine ⟨fun i hi hbad => ?_, fun hlen hfits => ?_, exec_sigwait h,
      fun i s' bs halign hfree hread => hends (exec_qfetch h halign hfree hread),
      fun e s' code hentry htype hdispatch => hends (exec_dispatch h hentry htype hdispatch),
      fun t q hslot hheld halign hfits => hends (exec_qsave h hslot halign hfits hheld),
      fun t y y' s' bs hslot hopen halign hfits hqueue hsettled hread hblock hstate hdie =>
        hends (exec_qload h hslot halign hfits hopen hqueue hsettled hread hblock hstate hdie),
      fun htenant hbit => hends (exec_evpost h htenant hbit)⟩
    · exact exec_badField h (by rw [fieldAt_eq, if_pos hbad]) hi
    · have hfield : fieldAt (x.x f.rs2) = some (pos, len) := by
        rw [fieldAt_eq, if_neg (not_or.mpr ⟨hlen, Nat.not_lt.mpr hfits⟩)]
      refine ⟨exec_bfx h hfield hlen, exec_bfxS h hfield hlen, _, exec_bfi h hfield, fun i hi => ?_⟩
      rw [getLsbD_withField hlen _ _ hi]
      split
      · next hin =>
        rw [field, Nat.pow_zero, Nat.div_one, Nat.testBit_mod_two_pow, decide_eq_true (by omega), Bool.true_and, BitVec.getLsbD]
      · rfl
  case user =>
    intro f i s n x hturn hx hmachine hi
    simp only [List.mem_cons, List.not_mem_nil, or_false] at hi
    rcases hi with rfl | rfl | rfl | rfl | rfl | rfl | rfl | rfl | rfl <;> exact ⟨_, withFe_of_user hturn hx hmachine _⟩
  case csrs =>
    intro s n x hx
    refine ⟨fun e hqueued => ?_, fun rd i rest hpktq => ?_, ?_⟩
    · change Host.Outcome.next (freeEntryAt s n e) = _
      rw [freeEntryAt, hqueued]
      rfl
    · change execXpktqRead n rd s = _
      simp only [execXpktqRead, hx, pktqValue, hpktq]
    · change execXtimerSignal n s = _
      simp only [execXtimerSignal, hx]
      split <;> rfl

end Sys2Proof.Proofs
end

section
/-! Flits and their acknowledgement, ports that drain, time, discovery, and the host's link (17 R441 to R447). -/

namespace Sys2Proof.Proofs
open Sys2Proof Sys2Proof.Machine

/-! ## Ports -/

@[simp] theorem portAt_updPort_self (s : State) (i : Nat) (f : Port → Port) : portAt (updPort s i f) i = (portAt s i).map f := by
  simp [portAt, updPort, setPart]

theorem portAt_updPort_other {s : State} {i j : Nat} (h : j ≠ i) (f : Port → Port) : portAt (updPort s i f) j = portAt s j := by
  simp [portAt, updPort, setPart, Ne.symm h]

/-- A port is changed by what its own value becomes. -/
theorem updPort_congr {s : State} {i : Nat} {p : Port} (hp : portAt s i = some p) {f g : Port → Port} (h : f p = g p) :
    updPort s i f = updPort s i g := by
  have hports : s.part.ports.modify i f = s.part.ports.modify i g := by
    refine List.ext_getElem? fun j => ?_
    by_cases hj : i = j
    · subst hj
      simp [show s.part.ports[i]? = some p from hp, h]
    · simp [hj]
  simp only [updPort, setPart, hports]

theorem portDraining_eq {s : State} {i : Nat} {p : Port} (hp : portAt s i = some p) : portDraining s.part i = p.draining := by
  simp [portDraining, show s.part.ports[i]? = some p from hp]

/-- A port with no message bytes sends none. -/
theorem flushOut_of_empty {s : State} {i : Nat} {p : Port} (hp : portAt s i = some p) (hout : p.out = []) : flushOut s i = s := by
  simp [flushOut, hp, flushPort, hout]

/-! ## A flit that is received -/

section Receive
variable {s : State} {port : Nat} {p : Port} {flit : List Byte} (hp : portAt s port = some p)
include hp

theorem flitReceive_closed (h : p.up = false ∨ serving s.part = false) : exec (.flitReceive port flit) s = .next s := by
  change execFlitReceive port flit s = _
  rcases h with h | h <;> simp [execFlitReceive, hp, h]

variable (hup : p.up = true) (hserving : serving s.part = true)
include hup hserving

/-- A part that serves its links takes a flit by its CRC, its type and its turn. -/
theorem flitReceive_open : exec (.flitReceive port flit) s =
    if flitIntact flit && flitType flit == 2 then .next (flushOut (receiveNak s port (BitVec.ofNat 12 (flitAck flit))) port)
    else if flitIntact flit && flitSeq flit == (p.rxSeq + 1).toNat then .next (flushOut (takeFlit s port flit) port)
    else if flitIntact flit && p.took (flitSeq flit) then .next s
    else if p.naks flit s.ns then .next (sendNak s port (p.badSeq flit))
    else .next (updPort s port fun p => { p with nak := p.nak.map fun x => (x.1, p.badSeq flit) }) := by
  change execFlitReceive port flit s = _
  simp only [execFlitReceive, hp, hup, hserving, Bool.not_true, Bool.or_self, Bool.false_eq_true, if_false]

theorem flitReceive_bad (hbad : flitIntact flit = false ∨
      (flitType flit ≠ 2 ∧ flitSeq flit ≠ (p.rxSeq + 1).toNat ∧ p.took (flitSeq flit) = false)) :
    exec (.flitReceive port flit) s = if p.naks flit s.ns then .next (sendNak s port (p.badSeq flit))
      else .next (updPort s port fun p => { p with nak := p.nak.map fun x => (x.1, p.badSeq flit) }) := by
  rw [flitReceive_open hp hup hserving]
  rcases hbad with h | ⟨htype, hseq, htook⟩
  · simp [h]
  · have hturn : (flitSeq flit == (p.rxSeq + 1).toNat) = false := beq_eq_false_iff_ne.mpr hseq
    simp only [beq_eq_false_iff_ne.mpr htype, hturn, htook, Bool.and_false, Bool.false_eq_true, if_false]

end Receive

theorem naks_of_none {p : Port} {flit : List Byte} (ns : Nat) (h : p.nak = none ∨ flitIntact flit = false) :
    p.naks flit ns = true := by
  unfold Port.naks
  split
  · rfl
  · next hnak =>
    rcases h with h | h
    · cases hnak.symm.trans h
    · simp [h]

theorem naks_of_some {p : Port} {flit : List Byte} {ns at_ : Nat} {last : BitVec 12} (hnak : p.nak = some (at_, last))
    (hintact : flitIntact flit = true) :
    p.naks flit ns = !decide (ns < at_ + 2000 ∧ (BitVec.ofNat 12 (flitSeq flit) - last - 1).toNat < 2047) := by
  have hwait : decide (at_ + nakWait ≤ ns) = !decide (ns < at_ + 2000) := by
    rw [← decide_not]
    exact decide_eq_decide.mpr Nat.not_lt.symm
  simp only [Port.naks, hnak, hintact, hwait, Bool.not_true, Bool.false_or, Bool.decide_and, Bool.not_and]

/-! ## A NAK -/

/-- Fewer than seven replays of each flit bring no port down. -/
theorem replayed_of_few {p : Port} (h : ∀ b ∈ p.unacked, b.2 < 7) :
    p.replayed = { p with unacked := p.unacked.map fun b => (b.1, b.2 + 1) } := by
  have hfew : ((p.unacked.map fun b => (b.1, b.2 + 1)).any fun b => decide (maxReplays ≤ b.2)) = false := by
    refine List.any_eq_false.mpr fun x hx => ?_
    obtain ⟨b, hb, rfl⟩ := List.mem_map.mp hx
    have hb7 := h b hb
    exact fun hle => Nat.not_le.mpr (show b.2 + 1 < maxReplays by rw [maxReplays]; omega) (of_decide_eq_true hle)
  simp only [Port.replayed, hfew, Bool.not_false, if_true]

theorem acked_frame (p : Port) (seq : Nat) : (p.acked seq).up = p.up ∧ (p.acked seq).out = p.out ∧
    ∀ b ∈ (p.acked seq).unacked, b ∈ p.unacked := by
  unfold Port.acked
  split
  · exact ⟨rfl, rfl, fun b hb => List.mem_of_mem_drop hb⟩
  · exact ⟨rfl, rfl, fun b hb => hb⟩

/-! ## Discovery -/

theorem exec_discovery (s : State) {port : Nat} (hport : port < 18) (d : BitVec 9) (hops : Nat) (conflict : Bool) :
    exec (.discovery port d hops conflict) s = .next { s with part :=
      (if s.part.lock then s.part else noteDevice s.part d.toNat hops (2 ^ port) conflict) } := by
  change Host.Outcome.next { s with part := foundDevice s.part port d.toNat hops conflict } = _
  rw [foundDevice, if_pos hport]

/-! ## The host -/

/-- The one line of a bridge goes to the host that asks for it, once no lease runs on it. -/
theorem bridgeGive_single {s : State} {b : BridgeLine} (hb : s.part.bridge = [b]) (hsnooped : b.snooped = true)
    (hhorizon : b.horizon ≤ s.ns) : bridgeGive s = { s with
      outbox := s.outbox ++ [.hostAnswer b.line b.bytes b.poison true], part := { s.part with bridge := [] } } := by
  simp [bridgeGive, hb, hsnooped, hhorizon, setPart]

/-! ## The obligation -/

/-- Settles O59: a flit by its CRC and its turn, a NAK by what it acknowledges, and one equation for each other event. -/
theorem linkEvents : Obligations.LinkEvents := by
  refine ⟨?ports, ?time, ?discovery, ?snoop, ?retrain⟩
  case ports =>
    intro s port p flit hp
    refine ⟨fun h => flitReceive_closed hp h, fun hup hserving => ⟨fun hintact htype => ?_, fun hintact htype =>
      ⟨fun hseq => ?_, fun hseq htook => ?_⟩, fun hbad => ?bad⟩,
      fun last hup hout hfew => ?_, fun hdraining hended hwaiting => ?_, fun h => ?_⟩
    · simp [flitReceive_open hp hup hserving, hintact, htype]
    · simp [flitReceive_open hp hup hserving, hintact, htype, hseq]
    · rw [flitReceive_open hp hup hserving]
      simp only [hintact, htook, beq_eq_false_iff_ne.mpr htype, beq_eq_false_iff_ne.mpr hseq, Bool.and_false, Bool.and_self,
        Bool.false_eq_true, if_false, if_true]
    case bad =>
      intro seq
      have hseq : p.badSeq flit = seq := rfl
      refine ⟨fun hnone => ?_, fun at_ last hnak hintact => ?_⟩
      · rw [flitReceive_bad hp hup hserving hbad, naks_of_none s.ns hnone]
        rfl
      · have hchosen : seq = BitVec.ofNat 12 (flitSeq flit) := if_pos hintact
        rw [flitReceive_bad hp hup hserving hbad, naks_of_some hnak hintact, hseq, ← hchosen]
        by_cases hfollows : s.ns < at_ + 2000 ∧ (seq - last - 1).toNat < 2047
        · simp only [hfollows, and_self, decide_true, Bool.not_true, Bool.false_eq_true, if_false, if_true]
          rw [updPort_congr hp]
          simp [hnak, hseq]
        · simp only [hfollows, decide_false, Bool.not_false, if_true, if_false]
    · obtain ⟨hackup, hackout, hackmem⟩ := acked_frame p last.toNat
      have hreplayed := replayed_of_few fun b hb => hfew b (hackmem b hb)
      have hport : portAt (updPort s port fun p => (p.acked last.toNat).replayed) port = some (p.acked last.toNat).replayed := by
        simp [hp]
      have hnak : receiveNak s port last = { updPort s port (fun p => (p.acked last.toNat).replayed) with
          outbox := s.outbox ++ (p.acked last.toNat).replayed.unacked.map fun b => .flit port b.1 } := by
        have hupNow : (p.acked last.toNat).replayed.up = true := by rw [hreplayed]; exact hackup.trans hup
        simp only [receiveNak, hport, hupNow, if_true]
        rfl
      have hport' : portAt (receiveNak s port last) port = some (p.acked last.toNat).replayed := by rw [hnak]; exact hport
      refine ⟨receiveNak s port last, ?_, ?_, ?_⟩
      · exact congrArg _ (flushOut_of_empty hport' (by rw [hreplayed]; exact hackout.trans hout))
      · rw [hnak, hreplayed]
        simp
      · rw [hport', hreplayed]
        rfl
    · have hdrained : drained s port = true := by simpa [drained, portDraining_eq hp, hdraining] using hended
      refine ⟨updPort s port fun p => { p with unacked := [], out := [], draining := false }, ?_, by simp [hp],
        fun j hj => portAt_updPort_other hj _⟩
      change execPortReroute port s = _
      simp [execPortReroute, hdrained, sendHeld, hwaiting, sendWaiting]
    · have hdrained : drained s port = false := by
        rcases h with h | ⟨a, ha, hport⟩
        · simp [drained, portDraining_eq hp, h]
        · simp only [drained, Bool.and_eq_false_imp, Bool.not_eq_false', List.any_eq_true, beq_iff_eq]
          exact fun _ => ⟨a, ha, hport⟩
      change execPortReroute port s = _
      simp [execPortReroute, hdrained]
  case time =>
    intro s offset
    change Host.Outcome.next (setPart s _) = _
    simp only [setPart, Bool.decide_and]
  case discovery =>
    intro s port d hops hport known
    refine ⟨fun hlock b => ?_, fun hlock => ⟨fun hknown hless => ?_, fun hknown hsame => ?_, fun hmore => ?_, ?_⟩⟩ <;>
      rw [exec_discovery s hport, hlock]
    · rfl
    · simp only [Bool.false_eq_true, if_false, noteDevice]
      rw [if_neg hknown, if_pos hless]
    · have hmore : ¬ (known = 0 ∨ hops + 1 < known) := by omega
      simp only [Bool.false_eq_true, if_false, noteDevice]
      rw [if_neg hknown, if_neg hmore, if_pos hsame]
    · simp only [Bool.false_eq_true, if_false, noteDevice]
      rcases hmore with hconflict | ⟨hpos, hless⟩
      · rw [if_pos hconflict]
      · rw [if_neg (show ¬ (known = 0 ∨ hops + 1 < known) by omega), if_neg (show ¬ hops + 1 = known by omega), ite_self]
    · simp [noteDevice]
  case snoop =>
    intro s line
    refine ⟨fun hserves => ?_, fun hserves => ⟨fun hnone => ?_, fun b hb hline hhorizon => ?_⟩⟩ <;>
      change execHostSnoop line s = _
    · simp [execHostSnoop, hserves]
    · have hnot : (s.part.bridge.any (·.line == line)) = false := by simpa using hnone
      simp [execHostSnoop, hserves, hnot]
    · have hsingle : (setBridge s line fun b => { b with snooped := true }).part.bridge = [{ b with snooped := true }] := by
        simp [setBridge, setPart, hb, hline]
      have hgive := bridgeGive_single hsingle rfl hhorizon
      simp only [execHostSnoop, hserves, hb, List.any_cons, List.any_nil, hline, beq_self_eq_true, Bool.true_or, Bool.not_true,
        Bool.false_eq_true, if_false, if_true, hgive]
      rfl
  case retrain =>
    intro s
    refine ⟨rfl, fun hbridge hqueue l hl => ?_⟩
    change execLinkRetrain l s = _
    have hno : l.getD false = false := by
      cases l with
      | none => rfl
      | some b => cases b <;> simp_all
    simp only [execLinkRetrain, if_neg hl, leaveCxl, setPart, hbridge, hqueue, List.map_nil, List.foldl_nil, hno]

end Sys2Proof.Proofs
end

section
/-! Frames of stopped warps, fault records, and pre-emption (01 R33, 07 R210, 15 R397, R408, R413 to R416). -/

namespace Sys2Proof.Proofs
open Sys2Proof Sys2Proof.Machine

/-! ## The frame of a stopped warp -/

section Frame
variable {s s1 : State} {w : Warp} {g : Gang} {l : Launch} {n : NodeEntry} (hw : warpOf s w.uid = some w)
  (hdrained : w.drained s = true) (hnode : nodeOf s w = some (g, l, n))
include hw hdrained

theorem frameWrite_stopping {tr : TrapRec} (hmode : w.mode = .stopping tr) :
    exec (.frameWrite w.uid) s = .next (writeTrapFrame s w.uid) := by
  change Host.Outcome.next (frameStep s w.uid) = _
  simp [frameStep, hw, hdrained, hmode]

theorem frameWrite_ending (hmode : w.mode = .ending) : exec (.frameWrite w.uid) s = .next (frameAtEnd s w.uid) := by
  change Host.Outcome.next (frameStep s w.uid) = _
  simp [frameStep, hw, hdrained, hmode]

theorem frameWrite_running (hmode : w.mode = .running) (hhalt : w.haltPending = true) :
    exec (.frameWrite w.uid) s = .next (haltWarp s w.uid) := by
  change Host.Outcome.next (frameStep s w.uid) = _
  simp [frameStep, hw, hdrained, hmode, hhalt]

theorem frameWrite_handler (hmode : w.mode = .handler) (hhalt : w.haltPending = true) (hforced : w.forced = true) :
    exec (.frameWrite w.uid) s = .next (forceHalt s w.uid) := by
  change Host.Outcome.next (frameStep s w.uid) = _
  simp [frameStep, hw, hdrained, hmode, hhalt, hforced]

include hnode

/-- A written frame starts the trap kernel. -/
theorem writeTrapFrame_starts {tr : TrapRec} {h : NodeEntry} (hmode : w.mode = .stopping tr) (hplaced : g.phase = .placed)
    (htrap : l.trap = some h) :
    let bytes := frameBytes s n (teamOf g w) w tr.head
    writeFrame (updWarp s w.uid fun w => { w with formed := bytes }) l w bytes = some s1 →
      writeTrapFrame s w.uid = updWarp s1 w.uid fun w => w.startKernel l h s1.cycles := by
  intro bytes hwrite
  simp only [bytes] at hwrite
  simp [writeTrapFrame, hw, hmode, hnode, hdrained, hplaced, hwrite, htrap]

omit hdrained in
/-- Where the gang ends, but not by the fault of a done strand, the frame has no cause of its own. -/
theorem frameAtEnd_plain {warp kind : Nat} {nested : Option TrapRec} (hends : g.phase = .terminating kind warp nested)
    (hkind : kind ≠ 2) :
    let bytes := frameBytes s n (teamOf g w) w (stopHead s 0 false false)
    writeFrame (updWarp s w.uid fun w => { w with formed := bytes }) l w bytes = some s1 →
      frameAtEnd s w.uid = updWarp s1 w.uid fun w => { w with mode := .terminated } := by
  intro bytes hwrite
  have hhead : (match g.phase with
      | .terminating 2 _ _ => doneHead s w
      | _ => stopHead s 0 false false) = stopHead s 0 false false := by
    split
    · next h => cases hends.symm.trans h; exact absurd rfl hkind
    · rfl
  simp only [bytes] at hwrite
  simp only [frameAtEnd, hw, hnode]
  refine (congrArg (fun head => endWarp ((writeFrame (updWarp s w.uid fun x =>
    { x with formed := frameBytes s n (teamOf g w) w head }) l w (frameBytes s n (teamOf g w) w head)).getD _) w.uid) hhead).trans ?_
  rw [hwrite]
  rfl

end Frame

/-! ## Pre-emption -/

/-- A request to a placed gang that is not forced. -/
theorem requestPreempt_placed {s : State} {g : Gang} (hg : gangOf s g.uid = some g) (hplaced : g.phase = .placed) :
    requestPreempt s g.uid false = asked s g.uid := by
  simp [requestPreempt, asked, hg, hplaced]

/-! ## The obligation -/

/-- Settles O52: a stopped warp by its mode, a gang that ends by its phase, and a pre-emption by its request, its force and its
save. -/
theorem stopsAndSaves : Obligations.StopsAndSaves := by
  refine ⟨?frames, ?records, fun _ _ => ?force, ?save⟩
  case frames =>
    intro s s1 w g l n hw hdrained hnode
    refine ⟨fun tr h hmode hplaced htrap hwrite => ?_, fun warp kind nested hmode hends hkind hwrite => ?_,
      fun hmode hhalt => frameWrite_running hw hdrained hmode hhalt, fun b hmode hhalt hforced hin hread => ?_⟩
    · rw [frameWrite_stopping hw hdrained hmode, writeTrapFrame_starts hw hdrained hnode hmode hplaced htrap hwrite]
    · rw [frameWrite_ending hw hdrained hmode, frameAtEnd_plain hw hnode hends hkind hwrite]
    · rw [frameWrite_handler hw hdrained hmode hhalt hforced]
      simp [forceHalt, hw, hnode, hin, hread]
  case records =>
    intro s g l hg hl
    refine ⟨fun kind warp nested hends hbusy hkind hstopped hin => ?_, fun job va seq s1 hrecording hjob hwrite => ?_, fun hplaced => ?_⟩
    · change execFaultRecordWrite g.uid s = _
      simp [execFaultRecordWrite, hg, hl, hends, hbusy, hkind, hstopped, hin]
    · change execFaultRecordWrite g.uid s = _
      simp [execFaultRecordWrite, hg, hl, hrecording, hjob, finishRecord, hwrite]
    · change Host.Outcome.next (requestPreempt s g.uid false) = _
      rw [requestPreempt_placed hg hplaced]
  case force => rfl
  case save =>
    intro s g l n hg hl hn hplaced hready hin ws s1 hstill s2
    change execPreemptionSave g.uid s = _
    have hmay : (g.phase != .placed || !readyToSave s l g.uid) = false := by simp [hplaced, hready]
    simp only [execPreemptionSave, hg, hl, hn, hmay, hin, Bool.not_true, Bool.false_eq_true, if_false]
    rw [show (gangOf (((s.warps.filter (·.gang == g.uid)).map (·.uid)).foldl saveWarp _) g.uid).map Gang.phase = some .placed
      from hstill]

end Sys2Proof.Proofs
end

section
/-! BKPT, TRAP, XRET and HALTACK, and what a trap kernel may not execute (15 R398, R403, R405, R409 to R411, R414). -/

namespace Sys2Proof.Proofs
open Sys2Proof Sys2Proof.Machine

/-! ## Instructions that a trap kernel may not execute -/

/-- Each of them checks first that it runs outside the trap kernel. -/
theorem exec_forbidden {i : Instr} (h : kernelForbids i = true) (s : State) :
    ∃ f : Ctx → Out, exec i s = withStrand i none s fun c => c.notInKernel (f c) := by
  have hcopy {f : CopyF} (hrk : f.rk = true) (kind : Nat) : ∃ body : Ctx → Out,
      (fun c : Ctx => c.copy f kind) = fun c => c.notInKernel (body c) :=
    ⟨_, funext fun c => if_pos hrk⟩
  cases i with
  | mma f | mmag f | tbind f | tfree f | tzero f | tget f | tset f | taddc f | tmulr f | tscl f | trowred f | tact f | tqnt f
  | tld f | tst f | rvinit f | rvarr f | rvwait f | rvaw f | rkinit f | rkacq f | rkpub f | rkawait f | rkrel f | rkrelSkip f
  | emita f | emitc f => exact ⟨_, rfl⟩
  | cpyl f | cpyt f | cpyw f | cpyg f | cpys f | cpyx f | cpyq f =>
    obtain ⟨body, hbody⟩ := hcopy h _
    exact ⟨body, congrArg (withStrand _ none s) hbody⟩
  | _ => cases h

section Kernel
variable {s : State} {i : Instr} {g : Option Guard} {c : Ctx} (h : Runs s i g c)
include h

/-- The trap kernel's strand is its warp's kernel. -/
theorem kernel_of_runs (hno : c.ref.no = kernelNo) : c.w0.kernel = some c.k0 := by
  obtain ⟨-, -, -, hk, -⟩ := focusCtx_some h
  rw [hno, Warp.strandAt, if_pos rfl] at hk
  exact hk

/-- In a trap kernel they are illegal, and end the gang. -/
theorem notInKernel_endsGang (hno : c.ref.no = kernelNo) (f : Out) :
    ∃ t, c.notInKernel f = .next t ∧ c.EndsGang t causeILLEGAL 2 (c.addr.setWidth 64) c.here := by
  have hhandler : c.handler = true := beq_iff_eq.mpr hno
  rw [Ctx.notInKernel, if_pos hhandler]
  exact trap_endsGang h _ _ _ _ (by rw [kernel_of_runs h hno]; exact Option.some_ne_none _)

/-! ## XRET and HALTACK -/

/-- Outside the trap kernel they are illegal. -/
theorem onlyInKernel_trapped (hno : c.ref.no ≠ kernelNo) (hk : c.w0.kernel = none) (f : Out) :
    ∃ t, c.onlyInKernel f = .next t ∧ c.Trapped t causeILLEGAL 2 (c.addr.setWidth 64) c.here := by
  have hhandler : ¬ c.handler = true := fun hh => hno (beq_iff_eq.mp hh)
  rw [Ctx.onlyInKernel, if_neg hhandler]
  exact trap_trapped h _ _ _ _ hk (by decide)

theorem nodeOf_of_runs {n : NodeEntry} (hn : c.l.nodes[c.g.node]? = some n) : nodeOf c.s c.w0 = some (c.g, c.l, n) := by
  obtain ⟨hs, -, -, -, -, -, -, -, hg, hl, -⟩ := focusCtx_some h
  simp [nodeOf, hs, hg, hl, hn]

theorem leaveKernel_waits (hcount : ¬ (c.k0.ld = [] ∧ c.k0.st = [] ∧ c.k0.cp = [])) :
    ∃ t, c.leaveKernel = .next t ∧ c.Waits t (.counters 0 0 0 7) := by
  have hbusy : c.k0.countersWithin 0 0 0 7 = false := by
    simp only [Strand.countersWithin, Nat.le_zero, List.length_eq_zero_iff]
    rw [Bool.and_eq_false_iff]
    exact .inl (by simpa [and_assoc] using hcount)
  simp only [Ctx.leaveKernel, Ctx.afterKernel, hbusy, Bool.not_false, if_true]
  exact stall_of_hasOnlyRead (hasOnlyRead_start h) _

omit h in
theorem exitLanes_zero (w : Warp) : w.exitLanes 0 = w := by
  have hstrand : (fun k : Strand => { k with exited := k.exited ||| 0 }) = id := funext fun k => by simp
  rw [Warp.exitLanes, hstrand, List.map_id]

/-- With its counters at 0 and its frame there, the kernel gives way to its warp, or to the debugger. -/
theorem leaveKernel_leaves (hld : c.k0.ld = []) (hst : c.k0.st = []) (hcp : c.k0.cp = []) (hmx : c.k0.mx.length ≤ 7)
    {n : NodeEntry} {b : List Byte} (hn : c.l.nodes[c.g.node]? = some n) (hin : frameIn c.s c.l c.w0 = true)
    (hread : readFrame c.s c.l c.w0 = some b) :
    let t := updWarp c.s c.ref.warp fun _ => (c.w0.resumed n b c.s).watching (watchedBy c.w0.formed)
    c.leaveKernel = .next (if c.w0.haltPending then haltKernel t c.ref.warp false b else settleWarp t c.ref.warp) := by
  obtain ⟨hs, -, hw, -⟩ := focusCtx_some h
  have huid : c.w0.uid = c.ref.warp := warpOf_uid hw
  have hwarp : warpOf c.s c.ref.warp = some c.w0 := by rw [hs, hw]
  have hidle : c.k0.countersWithin 0 0 0 7 = true := by simp [Strand.countersWithin, hld, hst, hcp, hmx]
  simp only [Ctx.leaveKernel, Ctx.afterKernel, hidle, hin, Bool.not_true, Bool.false_eq_true, if_false, huid, endKernel, hwarp,
    nodeOf_of_runs h hn, hread, exitLanes_zero]
  rfl

end Kernel

/-! ## The obligation -/

/-- Settles O38: BKPT and TRAP as traps, the forbidden instructions by the check they begin with, and XRET and HALTACK by the end
of the kernel. -/
theorem trapInstructions : Obligations.TrapInstructions := by
  refine ⟨?traps, ?forbidden, ?ends⟩
  case traps =>
    intro i cause sub s c hi h
    have hexec : exec i s = c.trap cause sub 0 c.exec ∧ cause ≠ causePOISON := by
      rcases hi with ⟨sp, rfl, rfl, rfl⟩ | ⟨sp, n, rfl, rfl, rfl⟩
      · exact ⟨withStrand_of_runs h _, by decide⟩
      · exact ⟨withStrand_of_runs h _, by decide⟩
    rw [hexec.1]
    exact ⟨fun hk => trap_trapped h _ _ _ _ hk hexec.2, fun hk => trap_endsGang h _ _ _ _ hk⟩
  case forbidden =>
    intro i s c hforbids h hno
    obtain ⟨f, hf⟩ := exec_forbidden hforbids s
    rw [hf, withStrand_of_runs h]
    exact notInKernel_endsGang h hno _
  case ends =>
    intro i s c hi h
    have hexec : exec i s = c.onlyInKernel (if (∃ sp, i = .xret sp) ∨ c.w0.haltPending = true then c.leaveKernel else c.retire) := by
      obtain ⟨sp, rfl | rfl⟩ := hi
      · rw [if_pos (.inl ⟨sp, rfl⟩)]
        exact withStrand_of_runs h _
      · simp only [reduceCtorEq, exists_false, false_or]
        exact withStrand_of_runs h _
    refine ⟨fun hno hk => hexec ▸ onlyInKernel_trapped h hno hk _, fun hno hack hhalt => ?_, fun hno hends => ?_⟩
    all_goals
      have hhandler : c.handler = true := beq_iff_eq.mpr hno
      rw [hexec, Ctx.onlyInKernel, if_pos hhandler]
    · obtain ⟨sp, rfl⟩ := hack
      obtain ⟨-, -, -, -, hw, -⟩ := focusCtx_some h
      simp only [reduceCtorEq, exists_false, hhalt, Bool.false_eq_true, or_self, if_false]
      exact hw ▸ retire_of_hasOnlyRead (hasOnlyRead_start h) (b := c.s) rfl rfl
    · rw [if_pos hends]
      exact ⟨fun hcount _ => leaveKernel_waits h hcount, fun hld hst hcp hmx n b hn hin hread =>
        leaveKernel_leaves h hld hst hcp hmx hn hin hread⟩

end Sys2Proof.Proofs
end

section
/-! EMITA, EMITC, EVSET, TRACE and CSRW (13 R363 to R372, 15 R418, 16 R431). -/

namespace Sys2Proof.Proofs
open Sys2Proof Sys2Proof.Machine

/-! ## Ends of an instruction over a state with the same warps -/

section Ends
variable {s : State} {i : Instr} {g : Option Guard} {c : Ctx} (h : Runs s i g c) {b : State} (hb : b.warps = c.s.warps)
  (hcy : b.cycles = c.s.cycles)
include h hb hcy

theorem stall_over (x : Wait) : ∃ t, ({ c with s := b } : Ctx).stall x = .next t ∧
    c.LeavesFrom b t c.w0 { c.k0 with wait := some x, waitSince := c.k0.waitsFrom x c.s.cycles } := by
  have hl := leavesFrom_of h b c.w0 { c.k0 with wait := some x, waitSince := c.k0.waitsFrom x c.s.cycles } hb rfl (fun _ => rfl) rfl
  refine ⟨_, rfl, ?_⟩
  simpa only [hcy] using hl

theorem retire_past_over : ∃ t, ({ c with s := b } : Ctx).retire = .next t ∧ c.LeavesFrom b t c.w0 c.past := by
  obtain ⟨-, -, -, -, -, hk, -⟩ := focusCtx_some h
  exact passed_of_hasOnlyRead (hasOnlyRead_start h) hcy ▸ retire_over h b hb c.k (congrArg Strand.no hk)

theorem setSlot_retire_over (d : Nat) (v : Nat → Word) :
    ∃ t, (({ c with s := b } : Ctx).setSlot d v).retire = .next t ∧ c.LeavesFrom b t c.w0 (c.wrote d v) := by
  obtain ⟨-, -, -, -, -, hk, -⟩ := focusCtx_some h
  have hp : (({ c with s := b } : Ctx).setSlot d v).passed = c.wrote d v := by
    simp only [Ctx.passed, Ctx.setSlot, Strand.setSlotIn, hk, hcy]
    rfl
  exact hp ▸ retire_over h b hb (({ c with s := b } : Ctx).setSlot d v).k (show c.k.no = c.k0.no from congrArg Strand.no hk)

theorem setPair_retire_over (d : Nat) (v : Nat → DWord) :
    ∃ t, (({ c with s := b } : Ctx).setPair d v).retire = .next t ∧ c.LeavesFrom b t c.w0 (c.wrotePair d v) := by
  obtain ⟨-, -, -, -, -, hk, -⟩ := focusCtx_some h
  have hp : (({ c with s := b } : Ctx).setPair d v).passed = c.wrotePair d v := by
    simp only [Ctx.passed, Ctx.setPair, Ctx.setSlot, Strand.setSlotIn, hk, hcy]
    rfl
  exact hp ▸ retire_over h b hb (({ c with s := b } : Ctx).setPair d v).k (show c.k.no = c.k0.no from congrArg Strand.no hk)

end Ends

/-! ## EMITA -/

section Emita
variable {s : State} {c : Ctx} {f : EmitaF}

theorem changeCounter_cycles (s : State) (launch : Nat) (f : Nat → Nat) : (changeCounter s launch f).cycles = s.cycles := by
  unfold changeCounter
  split
  · rfl
  · dsimp only
    split <;> rfl

/-- A grant changes its die's line, the gang's allocations and the launch's counter. -/
theorem afterGrant_frame (c : Ctx) (f : EmitaF) (us : List CellUse) :
    (c.afterGrant f us).warps = c.s.warps ∧ (c.afterGrant f us).cycles = c.s.cycles :=
  ⟨(changeCounter_frame ..).2, changeCounter_cycles ..⟩

theorem granted_eq (c : Ctx) (f : EmitaF) (us : List CellUse) :
    c.granted f us = (({ c with s := c.afterGrant f us } : Ctx).setPair f.d.toNat (c.recordFor f us)).retire := by
  have hrecord (l : Nat) : c.recordFor f us l =
      let as := allocsOf (tenantOf c.s c.tenant) f.node.toNat us ((c.emitLanes f.one).map c.emitDepth)
      if f.one then ((as.head?).map (·.addr)).getD 0
      else match ((c.emitLanes f.one).zip (as.map (·.addr))).find? (·.1 == l) with
        | some x => x.2
        | none => 0 := by
    unfold Ctx.recordFor
    dsimp only
    split
    · rfl
    · split
      · next h => rw [h]; rfl
      · next h => rw [h]; rfl
  rw [show c.recordFor f us = _ from funext hrecord]
  rfl

variable (h : Runs s (.emita f) none c) (hno : c.ref.no ≠ kernelNo) {n : NodeEntry}
  (hn : c.l.nodes[f.node.toNat]? = some n) (harea : areaEnabled (tenantOf c.s c.tenant).rareaBase = true)
  (hdepth : ∀ l ∈ c.emitLanes f.one, c.emitDepth l ≤ n.maxDepth)
  (hqueue : (emitLine c.s (dieOfCore c.w0.core)).any (·.1 == c.ref) = true ∨ queueGrants c.s c.w0.core .em = true)
  (hexec : c.exec ≠ 0)
include h hno hn harea hdepth hqueue hexec

/-- An EMITA past its checks that the record unit grants. -/
theorem exec_emita_granted {us : List CellUse}
    (hgrant : grantFor c.s (dieOfCore c.w0.core) c.ref c.tenant n.cells (c.emitLanes f.one).length = some us) :
    exec (.emita f) s = c.granted f us := by
  obtain ⟨hs, -⟩ := focusCtx_some h
  have hdeep : ((c.emitLanes f.one).any fun l => decide (n.maxDepth < c.emitDepth l)) = false := by simpa using hdepth
  have hmay : (!((emitLine c.s (dieOfCore c.w0.core)).any (·.1 == c.ref)) && !queueGrants c.s c.w0.core .em) = false := by
    rcases hqueue with hq | hq <;> simp [hq]
  change execEmita f s = _
  rw [execEmita, withStrand_of_runs h, notInKernel_of_ne hno]
  simp only [← hs, hn, harea, hdeep, hmay, hexec, hgrant, Bool.not_true, Bool.false_eq_true, if_false]

/-- One that it does not waits in its die's line, at whose end it stands from now on. -/
theorem exec_emita_waits
    (hgrant : grantFor c.s (dieOfCore c.w0.core) c.ref c.tenant n.cells (c.emitLanes f.one).length = none) :
    exec (.emita f) s = ({ c with s := (if (emitLine c.s (dieOfCore c.w0.core)).any (·.1 == c.ref) then c.s
      else setDie c.s (dieOfCore c.w0.core) { dieOf c.s (dieOfCore c.w0.core) with
        emitting := emitLine c.s (dieOfCore c.w0.core) ++ [(c.ref, true)] }) } : Ctx).stall .records := by
  obtain ⟨hs, -⟩ := focusCtx_some h
  have hdeep : ((c.emitLanes f.one).any fun l => decide (n.maxDepth < c.emitDepth l)) = false := by simpa using hdepth
  have hmay : (!((emitLine c.s (dieOfCore c.w0.core)).any (·.1 == c.ref)) && !queueGrants c.s c.w0.core .em) = false := by
    rcases hqueue with hq | hq <;> simp [hq]
  change execEmita f s = _
  rw [execEmita, withStrand_of_runs h, notInKernel_of_ne hno]
  simp only [← hs, hn, harea, hdeep, hmay, hexec, hgrant, Bool.not_true, Bool.false_eq_true, if_false]
  by_cases hstands : (emitLine c.s (dieOfCore c.w0.core)).any (·.1 == c.ref) = true
  · simp only [if_pos hstands]
  · simp only [if_neg hstands]

end Emita

/-! ## EMITC and EVSET: the EM queue entry, and the release -/

section Entry
variable {c : Ctx}

theorem takeEmEntry_of (h : c.k0.em.isSome = true ∨ queueGrants c.s c.w0.core .em = true) (f : Ctx → Out) :
    c.takeEmEntry f = f c.withEm := by
  unfold Ctx.takeEmEntry Ctx.withEm
  by_cases hem : c.k0.em.isSome = true
  · rw [if_pos hem, if_pos hem]
  · rw [if_neg hem, if_neg hem, h.resolve_left hem]
    rfl

/-- The entry is the strand's alone. -/
theorem withEm_frame (c : Ctx) : c.withEm = { c with k0 := c.withEm.k0, k := c.withEm.k } ∧
    c.withEm.k0 = { c.k0 with em := c.withEm.k0.em } ∧ (c.k = c.k0 → c.withEm.k = c.withEm.k0) := by
  unfold Ctx.withEm
  split
  · exact ⟨rfl, rfl, id⟩
  · exact ⟨rfl, rfl, fun hk => by rw [hk]⟩

theorem canRelease_withEm {n : Nat} (h : c.CanRelease n) : c.withEm.CanRelease n := by
  unfold Ctx.withEm
  split
  · exact h
  · exact h

/-- A context that stands in its state but for what its strand holds of the EM queue. -/
structure HoldsEntry (c : Ctx) : Prop where
  warp : warpOf c.s c.ref.warp = some c.w0
  strand : ∃ k, c.w0.strandAt c.ref.no = some k ∧ k.no = c.k0.no
  same : c.w = c.w0
  unchanged : c.k = c.k0

theorem holdsEntry_withEm (hc : HasOnlyRead c) (hw : c.w = c.w0) : HoldsEntry c.withEm := by
  obtain ⟨hframe, hk0, hk⟩ := withEm_frame c
  rw [hframe]
  exact ⟨hc.warp, ⟨c.k0, hc.strand, by rw [hk0]⟩, hw, hk hc.unchanged⟩

/-- Its release puts its strand in place. -/
theorem holdsEntry_afterRelease {d : Ctx} (hd : HoldsEntry d) (n : Nat) :
    HoldsEntry (d.afterRelease n) ∧ (d.afterRelease n).l = d.l ∧ (d.afterRelease n).g = d.g := by
  obtain ⟨hwarp, ⟨k, hstrand, hno⟩, hw, hk⟩ := hd
  unfold Ctx.afterRelease
  split
  case isTrue =>
    have huid : d.w.uid = d.ref.warp := hw ▸ warpOf_uid hwarp
    have hl := commit_leaves (c := { d with k0 := k }) hwarp hstrand (congrArg Warp.uid hw) (fun n => congrArg (·.strandAt n) hw)
      ((congrArg Strand.no hk).trans hno.symm)
    obtain ⟨w, hwarp', -, hstrand', -⟩ := hl.warp
    have hstands : d.StandsIn (publishPins d.commit fun p => match p.kind with | .pin r .. => r == d.ref | _ => false) w d.k :=
      ⟨by rw [← hwarp', warpOf, publishPins_warps]; rfl, hstrand'⟩
    have hthrough : d.publishOwnPins = d.found _ w d.k := through_of_standsIn huid hstands
    rw [hthrough]
    exact ⟨⟨hstands.1, ⟨d.k, hstands.2, rfl⟩, rfl, rfl⟩, rfl, rfl⟩
  case isFalse => exact ⟨⟨hwarp, ⟨k, hstrand, hno⟩, hw, hk⟩, rfl, rfl⟩

/-- It ends over a state with the same warps, and its entry with it. -/
theorem retire_of_holdsEntry {d : Ctx} (hd : HoldsEntry d) {b : State} (hb : b.warps = d.s.warps) (hcy : b.cycles = d.s.cycles) :
    ∃ t, ({ d with s := b } : Ctx).retire = .next t ∧ d.LeavesFrom b t d.w0 d.past := by
  obtain ⟨hwarp, ⟨k, hstrand, hno⟩, hw, hk⟩ := hd
  have hp : ({ d with s := b } : Ctx).passed = d.past := by simp only [Ctx.passed, Ctx.past, hk, hcy]
  have hwarpNow : warpOf b d.ref.warp = some d.w0 := by rw [← hwarp, warpOf, hb, warpOf]
  have hl := commit_leaves (c := { d with s := b, k0 := k, k := d.past }) hwarpNow hstrand (congrArg Warp.uid hw)
    (fun n => congrArg (·.strandAt n) hw) hno.symm
  rw [Ctx.retire, hp]
  exact ⟨_, rfl, hl.memory, hl.rest, hl.others, hw ▸ hl.warp⟩

/-- What such an instruction does once it has its entry and its release. -/
theorem entry_release_retire {s : State} {i : Instr} {g : Option Guard} (h : Runs s i g c)
    (hqueue : c.k0.em.isSome = true ∨ queueGrants c.s c.w0.core .em = true) {n : Nat} (hcan : c.CanRelease n)
    {f : Ctx → State} (hf : ∀ d, (f d).warps = d.s.warps ∧ (f d).cycles = d.s.cycles) :
    let d := c.withEm.afterRelease n
    ∃ t, (c.takeEmEntry fun c => c.release n fun c => ({ c with s := f c } : Ctx).retire) = .next t ∧
      d.LeavesFrom (f d) t d.w0 d.past := by
  intro d
  obtain ⟨-, -, -, -, hw, -⟩ := focusCtx_some h
  obtain ⟨hd, -⟩ := holdsEntry_afterRelease (holdsEntry_withEm (hasOnlyRead_start h) hw) n
  rw [takeEmEntry_of hqueue, release_of_canRelease (canRelease_withEm hcan)]
  exact retire_of_holdsEntry hd (hf d).1 (hf d).2

theorem entry_afterRelease_frame (hc : HasOnlyRead c) (hw : c.w = c.w0) (n : Nat) :
    (c.withEm.afterRelease n).l = c.l ∧ (c.withEm.afterRelease n).g = c.g := by
  obtain ⟨-, hl, hg⟩ := holdsEntry_afterRelease (holdsEntry_withEm hc hw) n
  rw [hl, hg, (withEm_frame c).1]
  exact ⟨rfl, rfl⟩

end Entry

/-! ## What they change: records, events, crumbs -/

theorem commitRecord_frame (s : State) (launch gang die : Nat) (addr : DWord) :
    (commitRecord s launch gang die addr).warps = s.warps ∧ (commitRecord s launch gang die addr).cycles = s.cycles := by
  unfold commitRecord
  split
  · exact ⟨rfl, rfl⟩
  · split <;> exact ⟨rfl, rfl⟩

/-- Steps that each keep the warps and the cycle keep them together. -/
theorem foldl_frame {α : Type} {f : State → α → State} (hf : ∀ s x, (f s x).warps = s.warps ∧ (f s x).cycles = s.cycles)
    (xs : List α) (s : State) : (xs.foldl f s).warps = s.warps ∧ (xs.foldl f s).cycles = s.cycles := by
  induction xs generalizing s with
  | nil => exact ⟨rfl, rfl⟩
  | cons x xs ih =>
    obtain ⟨hw, hcy⟩ := ih (f s x)
    exact ⟨hw.trans (hf s x).1, hcy.trans (hf s x).2⟩

/-! ## The obligation -/

/-- Settles O47: EMITA by the record unit's grant, EMITC and EVSET by their entry and release, and TRACE and CSRW at once. -/
theorem nodeInstructions : Obligations.NodeInstructions := by
  refine fun s c => ⟨?emita, ?emitc, ?evset, ?trace, ?csrw⟩
  case emita =>
    intro f h hno n hn harea hdepth die stands hqueue hexec
    split
    next us hgrant =>
      obtain ⟨hwarps, hcycles⟩ := afterGrant_frame c f us
      rw [exec_emita_granted h hno hn harea hdepth hqueue hexec hgrant, granted_eq]
      exact setPair_retire_over h hwarps hcycles _ _
    next hgrant =>
      rw [exec_emita_waits h hno hn harea hdepth hqueue hexec hgrant]
      refine stall_over h ?_ ?_ _
      · split <;> rfl
      · split <;> rfl
  case emitc =>
    intro f h hno halloc hdistinct hqueue hcan d
    obtain ⟨-, -, -, -, hw, -⟩ := focusCtx_some h
    obtain ⟨hl, hg⟩ := entry_afterRelease_frame (hasOnlyRead_start h) hw scopePKG
    have hunknown : c.unknownRecords f.a.toNat (c.emitLanes f.one) = [] := by
      refine List.filter_eq_nil_iff.mpr fun l hl => ?_
      obtain ⟨x, hx, haddr, -⟩ := halloc l hl
      simpa using ⟨x, hx, haddr⟩
    have hused : c.usedRecords f.a.toNat (c.emitLanes f.one) = [] := by
      refine List.filter_eq_nil_iff.mpr fun l hl => ?_
      obtain ⟨x, hx, haddr, hopen⟩ := halloc l hl
      have hfree : (c.g.allocs.any fun x => x.addr == c.pair f.a.toNat l && !x.committed) = true :=
        List.any_eq_true.mpr ⟨x, hx, by simp [haddr, hopen]⟩
      have hfirst : ((c.emitLanes f.one).any fun m => decide (m < l) && c.pair f.a.toNat m == c.pair f.a.toNat l) = false :=
        List.any_eq_false.mpr fun m hm => by simpa using hdistinct l hl m hm
      simp [hfree, hfirst]
    obtain ⟨t, ht, hleaves⟩ := entry_release_retire h hqueue hcan (f := fun d => (c.emitLanes f.one).foldl (fun s l =>
      commitRecord s d.l.uid d.g.uid (dieOfCore d.w0.core) (d.pair f.a.toNat l)) d.s) fun d =>
        foldl_frame (fun s l => commitRecord_frame ..) _ _
    refine ⟨t, ?_, fun _ _ => by simpa only [hl, hg] using hleaves⟩
    change execEmitc f s = _
    rw [execEmitc, withStrand_of_runs h, notInKernel_of_ne hno]
    simp only [hunknown, hused]
    exact ht
  case evset =>
    intro f l h hlead hqueue hcan d
    obtain ⟨-, -, -, -, hw, -⟩ := focusCtx_some h
    obtain ⟨hl, -⟩ := entry_afterRelease_frame (hasOnlyRead_start h) hw f.scope.toNat
    obtain ⟨t, ht, hleaves⟩ := entry_release_retire h hqueue hcan (f := fun d => setEventBit d.s d.tenant
      (if f.ind then (d.slot f.a.toNat l).toNat % 256 else f.bit.toNat)) fun d => ⟨rfl, rfl⟩
    refine ⟨t, ?_, fun _ _ => by simpa only [Ctx.tenant, hl] using hleaves⟩
    change execEvset f s = _
    rw [execEvset, withStrand_of_runs h, hlead]
    exact ht
  case trace =>
    intro f h
    obtain ⟨hwarps, hcycles⟩ := foldl_frame (f := fun s l => crumb s c.l c.g c.w0.team c.w0.num c.handler (dieOfCore c.w0.core) l
      c.no 0 f.mark.toNat (if f.v then (c.slot f.a.toNat l).toNat else 0))
      (fun s l => by obtain ⟨hw, -, -, -, hcy, -⟩ := crumb_frame s c.l c.g c.w0.team c.w0.num c.handler (dieOfCore c.w0.core) l
                       c.no 0 f.mark.toNat (if f.v then (c.slot f.a.toNat l).toNat else 0)
                     exact ⟨hw, hcy⟩) (if f.all then c.lanes else c.lanes.take 1) c.s
    change ∃ t, execTrace f s = _ ∧ _
    rw [execTrace, withStrand_of_runs h]
    exact retire_past_over h hwarps hcycles
  case csrw =>
    intro f h
    change (_ → ∀ l, _ → ∃ t, execCsrw f s = _ ∧ _) ∧ (_ → ∃ t, execCsrw f s = _ ∧ _)
    rw [execCsrw, withStrand_of_runs h]
    refine ⟨fun hpriv l hlead => ?_, fun hplain => ?_⟩
    · rw [hpriv, hlead]
      cases f.w <;> cases f.r <;> simp only [Bool.not_true, Bool.false_eq_true, if_false, if_true]
      · exact retire_past_over h rfl rfl
      · exact setSlot_retire_over h rfl rfl _ _
      · exact retire_past_over h (b := setCore c.s c.w0.core _) rfl rfl
      · exact setSlot_retire_over h (b := setCore c.s c.w0.core _) rfl rfl _ _
    · rw [hplain]
      exact trap_traps h causePRIV 0 _ _ (by decide)

end Sys2Proof.Proofs
end

section
/-! A read whose line has been answered already (12 R331, R338). -/

namespace Sys2Proof.Proofs
open Sys2Proof Sys2Proof.Machine

/-! ## A state that holds the answer to the read -/

/-- The home's answer to an RD of core 0 for line 0, kept for operation 0. -/
def readAnswered : LineAnswer :=
  { line := 0, core := some 0, ev := evRD, op := 0, since := 0, error := none, bytes := [], tag := 0, poison := false }

/-- The reset state with an operation of number 0 under way, for which that answer stands. -/
def afterAnswer : State := { State.reset with ops := [{ storeReadBack with id := 0 }], lineAnswers := [readAnswered] }

theorem afterAnswer_atRest : LineAtRest afterAnswer 0 :=
  ⟨by decide +kernel, by decide +kernel, by decide +kernel, by decide +kernel⟩

/-- An RD that finds its line answered asks its home for nothing. -/
theorem exec_rd_answered {s : State} {core line : Nat} {a : LineAnswer} (ha : answerOf s line (some core) evRD 0 = some a)
    (herror : a.error = none) : exec (.rd core line) s = .next (settle s) := by
  change execRd core line s = _
  simp only [execRd, fetchLine, ha, herror]

/-! ## The obligation -/

/-- Whether no L1 holds a line of the part. -/
def noCopies (o : Out) : Bool := match o with
  | .next t => t.l1.isEmpty
  | _ => false

/-- Refutes O58: its first clause asks that the line is at rest and that the core holds no copy of it, not that no answer stands
for the core. In `afterAnswer` one does, and RD takes no lease. (Operations are numbered from 1, so that no run from reset comes to this
state; the statement speaks of every state.) -/
theorem not_homeEvents : ¬ Obligations.HomeEvents := by
  intro h
  obtain ⟨hread, -⟩ := h
  obtain ⟨hrd, -⟩ := hread afterAnswer 0 0 afterAnswer_atRest (by decide +kernel)
  rw [exec_rd_answered (a := readAnswered) (by decide +kernel) rfl] at hrd
  exact absurd (congrArg noCopies hrd) (by decide +kernel)

end Sys2Proof.Proofs
end

section
/-! A migration whose home refuses MG (10 R286, 12 R333). -/

namespace Sys2Proof.Proofs
open Sys2Proof Sys2Proof.Machine

/-! ## A page with a line whose protocol refuses MG -/

/-- A protocol of two states: a read leases the line, an eviction returns it, and a leased line refuses MG. -/
def refusesMg : ProtoTable := (List.range 256).map fun i =>
  if i = evRD then act 1 [bitGL] else if i = 16 + evMG then act 1 [bitRY] else if i = 16 + evEV then act 0 []
  else if i < 16 then act 0 [] else if i < 32 then act 1 [] else 0xFFFFFFFF#32

/-- The checks of R347 accept it. -/
theorem refusesMg_accepted : tableFault refusesMg = none := by decide +kernel

/-- The leaf for the page's new frame: the second 16 GiB of local memory. -/
def newLeaf : DWord := 0x400000007

/-- Tenant 0 with a table of one page of 16 GiB, a window on all local memory, and the new leaf in its leaf register 0. -/
def migrator : Tenant :=
  { Tenant.reset 0 with enabled := true, ptroot := 0x1000000, xleaf := (Tenant.reset 0).xleaf.set 0 newLeaf,
                        windows := [(0x8000000000000000, 0x7FFFFF0001)] }

/-- The reset state with that tenant, the first 64 KiB under `refusesMg`, and line 0 leased. -/
def leasedLine : State :=
  { State.reset with
    mem := { cells := [(0x1000000, 0x01), (0x1000002, 0x01), (0x1000003, 0x01), (0x1010000, 0x07)], tags := [], poison := [] }
    tenants := State.reset.tenants.set 0 migrator
    part := { State.reset.part with ranges := [(0, ⟨0x8800000000000000, 0, 0, 0⟩)], protos := [(8, refusesMg)] }
    homes := [(0, { HomeLine.rest with state := 1 })] }

/-- The word that MG meets at line 0 refuses it. -/
theorem meetsWord_leasedLine : meetsWord leasedLine 0 (partEvent leasedLine evMG) = (act 1 [bitRY], false) := by decide +kernel

/-! ## The obligation -/

/-- Whether no event of a migration is to be sent again. -/
def asksOnce (o : Out) : Bool := match o with
  | .next t => t.again.isEmpty
  | _ => false

/-- The model keeps the refused MG, to send it again. -/
theorem asksOnce_migrate_leasedLine : asksOnce (execMigratePage 0 0 0 leasedLine) = false := by decide +kernel

/-- Refutes O54: its clause of MIGRATE lets each home of the page meet MG once and keeps nothing of its answer. In `leasedLine` the
page's one home refuses MG (RY), and the model then keeps the event in `again`, by which it is sent again. -/
theorem not_tenantEvents : ¬ Obligations.TenantEvents := by
  intro h
  obtain ⟨htenants, -⟩ := h
  obtain ⟨-, -, -, -, -, -, hmigrate, -⟩ := htenants leasedLine 0
  have hmoved := congrArg asksOnce (hmigrate 0 0 7 34 newLeaf (by decide +kernel) (by decide +kernel) (by decide +kernel)
    (by decide +kernel) (by decide +kernel) (by decide +kernel) (by decide +kernel))
  refine absurd (asksOnce_migrate_leasedLine.symm.trans hmoved) ?_
  decide +kernel

end Sys2Proof.Proofs
end
